-- ==== Sys2Proof/Word.lean ====
section
/-! DEFINITION. The 64-bit word every move carries (R15), and bytes. -/
namespace Sys2Proof

/-- The value of a move: 64 bits (R15). -/
abbrev Word := BitVec 64

/-- One byte. -/
abbrev Byte := BitVec 8

end Sys2Proof
end

