-- ==== Sys2Proof/Machine/Map.lean ====
section
/-! DEFINITION. The plain functions of the manual's notation (R11) on words; finite maps from natural numbers held as sorted
lists, and memory as a list of (address, byte) cells in one canonical form. -/
namespace Sys2Proof

namespace Word

/-- bits(v, hi, lo) of R11: bits [hi:lo] of v as an unsigned value. -/
def bits (v : Word) (hi lo : Nat) : Nat :=
  v.toNat / 2 ^ lo % 2 ^ (hi + 1 - lo)

/-- sx(v, n) of R11: bits [n-1:0] of v, sign-extended to 64 bits (1 ≤ n ≤ 64). -/
def sx (v : Word) (n : Nat) : Word :=
  (v.truncate n).signExtend 64

/-- zx(v, n) of R11: bits [n-1:0] of v, zero-extended to 64 bits. -/
def zx (v : Word) (n : Nat) : Word :=
  (v.truncate n).zeroExtend 64

/-- Bit i of v. -/
def bit (v : Word) (i : Nat) : Bool := v.getLsbD i

/-- A truth value as the word 1 or 0. -/
def ofBool (b : Bool) : Word := if b then 1 else 0

/-- An exact integer narrowed to 64 bits. -/
def ofInt (i : Int) : Word := BitVec.ofInt 64 i

end Word

/-- sat(x, lo, hi) of R11 on exact integers. -/
def satInt (x lo hi : Int) : Int :=
  if x < lo then lo else if hi < x then hi else x

/-- serial_ge(a, b, n) of R11: ((a − b) mod 2^n) < 2^(n−1). -/
def serialGe (a b n : Nat) : Bool :=
  decide ((a + 2 ^ n - b % 2 ^ n) % 2 ^ n < 2 ^ (n - 1))

end Sys2Proof

namespace Sys2Proof.Machine

/-- A sparse map: an unlisted key reads as the default its reader names. -/
abbrev Map (α : Type) := List (Nat × α)

namespace Map

/-- The value listed for k, if any. -/
def get? {α : Type} (m : Map α) (k : Nat) : Option α :=
  match m with
  | [] => none
  | (j, v) :: r => if j = k then some v else get? r k

/-- The value at k, or d where k is unlisted. -/
def find {α : Type} (d : α) (m : Map α) (k : Nat) : α := (get? m k).getD d

/-- Remove k. -/
def erase {α : Type} (m : Map α) (k : Nat) : Map α :=
  match m with
  | [] => []
  | (j, v) :: r => if j = k then erase r k else (j, v) :: erase r k

/-- Insert (k, v) before the first larger key. -/
def insert {α : Type} (m : Map α) (k : Nat) (v : α) : Map α :=
  match m with
  | [] => [(k, v)]
  | (j, w) :: r => if k < j then (k, v) :: (j, w) :: r else (j, w) :: insert r k v

/-- Set k to v. -/
def set {α : Type} (m : Map α) (k : Nat) (v : α) : Map α := insert (erase m k) k v

/-- The keys in order. -/
def keys {α : Type} (m : Map α) : List Nat := m.map Prod.fst

end Map

/-- Memory: strictly rising addresses, no entry equal to what an unlisted address reads as (log entry 3). -/
abbrev Memory := List Host.Cell

namespace Memory

/-- What an unlisted address reads as. -/
def unlisted : Byte := 0

/-- The byte at address a. -/
def read (m : Memory) (a : Nat) : Byte := Map.find unlisted m a

/-- The memory with byte b at address a; the canonical form is kept. -/
def write (m : Memory) (a : Nat) (b : Byte) : Memory :=
  if b = unlisted then Map.erase m a else Map.set m a b

/-- Strictly rising addresses. -/
def sorted (m : Memory) : Bool :=
  match m with
  | [] => true
  | [_] => true
  | (a, _) :: (b, y) :: r => decide (a < b) && sorted ((b, y) :: r)

/-- No listed byte equals what an unlisted address reads as. -/
def noDefault (m : Memory) : Bool := m.all fun c => c.2 != unlisted

/-- The canonical form. -/
def wf (m : Memory) : Bool := sorted m && noDefault m

/-- The n bytes from address a, lowest address first (R10). -/
def readBytes (m : Memory) (a : Nat) (n : Nat) : List Byte :=
  match n with
  | 0 => []
  | n + 1 => read m a :: readBytes m (a + 1) n

/-- Write a list of bytes from address a upward (R10). -/
def writeBytes (m : Memory) (a : Nat) (bs : List Byte) : Memory :=
  match bs with
  | [] => m
  | b :: r => writeBytes (write m a b) (a + 1) r

/-- The cells of n bytes from address a, at their offsets. -/
def window (m : Memory) (a n : Nat) : Memory :=
  (m.filter fun c => decide (a ≤ c.1 ∧ c.1 < a + n)).map fun c => (c.1 - a, c.2)

/-- Replace n bytes from address a by cells given at their offsets below n. -/
def splice (m : Memory) (a n : Nat) (w : Memory) : Memory :=
  (m.filter fun c => decide (c.1 < a)) ++ ((w.filter fun c => decide (c.1 < n)).map fun c => (a + c.1, c.2))
    ++ m.filter fun c => decide (a + n ≤ c.1)

end Memory

/-- The unsigned value of a list of bytes, least significant first (R10). -/
def leNat (bs : List Byte) : Nat :=
  match bs with
  | [] => 0
  | b :: r => b.toNat + 256 * leNat r

/-- n bytes of v, least significant first (R10). -/
def leBytes (v : Nat) (n : Nat) : List Byte :=
  match n with
  | 0 => []
  | n + 1 => BitVec.ofNat 8 v :: leBytes (v / 256) n

end Sys2Proof.Machine
end

