-- ==== Sys2Proof/Machine/Flags.lean ====
section
/-! DEFINITION. Status bits: the C, V and S of the integer units (R140), the five float conditions (R71, R152) and SAT of
the vector unit (R184). -/
namespace Sys2Proof.Machine

/-- z of an alu operation: [0] C, [1] V, [2] S (R140). -/
def aluZ (c v s : Bool) : Word := Word.ofBool c ||| (Word.ofBool v <<< 1) ||| (Word.ofBool s <<< 2)

/-- An integer lies in the signed range of n bits. -/
def fitsSigned (x : Int) (n : Nat) : Bool := decide (-(2 ^ (n - 1) : Int) ≤ x ∧ x < (2 ^ (n - 1) : Int))

/-- An integer lies in the unsigned range of n bits. -/
def fitsUnsigned (x : Int) (n : Nat) : Bool := decide (0 ≤ x ∧ x < (2 ^ n : Int))

/-- Invalid, in the order of R152. -/
def flInvalid : Nat := 16
/-- Divide by zero. -/
def flDivZero : Nat := 8
/-- Overflow. -/
def flOverflow : Nat := 4
/-- Underflow. -/
def flUnderflow : Nat := 2
/-- Inexact. -/
def flInexact : Nat := 1
/-- SAT of vec.z (R184). -/
def flSat : Nat := 32

/-- A flag when a condition holds. -/
def flagIf (b : Bool) (f : Nat) : Nat := if b then f else 0

end Sys2Proof.Machine
end

