-- ==== Sys2Proof/Names.lean ====
section
/-! DEFINITION. The names that instruction terms carry: the two alus, the units, and what an event of the host or of the
scale-up fabric brings with it. -/
namespace Sys2Proof

/-- alu0 or alu1 (R41). -/
inductive Alu where
  | alu0
  | alu1
deriving DecidableEq, Repr

/-- The units that own latches (R40 to R43; the 15 units of R363, with alu0 and alu1 apart). -/
inductive UnitId where
  | cu | alu0 | alu1 | mdu | prd | crf | fpa | sfu | lsu | atm | sem | net | dma | vec | sys
deriving DecidableEq, Repr

/-- The way of a host access: CXL.mem, a window of BAR4, a read of a device register in BAR0 or of a doorbell in BAR2
(R386, R391, R392), or a log or telemetry read of the I3C target (R396). -/
inductive HostWay where
  | cxl | window | register | doorbell | i3c
deriving DecidableEq, Repr

/-- What the host does to HBM through CXL.mem or a window, and what it reads of BAR0 and BAR2 (R386, R391, R392): the
port's I/O die, the way, the offset, and the data written or the number of bytes read. -/
structure HbmAccess where
  iod : Nat
  way : HostWay
  off : Nat
  write : Bool
  data : List Byte
  n : Nat
deriving DecidableEq, Repr

/-- A scale-up frame as it arrives (R284, R393): its 16-byte header's fields and what follows it. -/
structure Frame where
  /-- byte 5: 1 stream line, 2 write piece, 3 read request, 4 read data -/
  kind : Nat
  srcDev : Nat
  destDev : Nat
  destTile : Nat
  destEnt : Nat
  /-- the 64-byte line, or the piece -/
  data : List Byte
  /-- frames of kind 2 to 4: the HBM PA at this device, and the operation the data answers -/
  pa : Nat
  n : Nat
deriving DecidableEq, Repr

/-- A place of storage (R379): what a scrub visits (R382), and a tile's other cells. -/
inductive ScrubLoc where
  | pool (t off : Nat)
  | opmem (t off : Nat)
  | scale (t off : Nat)
  /-- an entry of the table store -/
  | table (t i : Nat)
  /-- a register or latch of a strand by its port, 0x1000 more in the trap bank -/
  | reg (t k port : Nat)
  /-- a semaphore, an entry of the inbox, a line of the parcel cache -/
  | sem (t i : Nat)
  | inbox (t i : Nat)
  | parcel (t line : Nat)
  | l2 (pa : Nat)
  | hbm (pa : Nat)
deriving DecidableEq, Repr

end Sys2Proof
end

