-- ==== Sys2Proof/Config.lean ====
section
/-! DEFINITION. The values the manual leaves open. Each is an opaque constant: nothing can be proved of it, so a
statement holds whatever it is. The counter they are applied to is State.oracle, a field of plain data. -/
namespace Sys2Proof.Config

/-- Which of the enabled events comes next (R430; log entry 1). -/
opaque freeChoice : Nat → Nat

/-- How many ticks an event takes (R8, R130, R231 leave times open; log entry 5). -/
opaque freeTicks : Nat → Nat

/-- The storage error that arises before an event, if one does: its place, and whether it is correctable (R379, R380;
log entry 22). -/
opaque storageError : Nat → Option (ScrubLoc × Bool)

/-- The bits an sfu operation returns inside the bounds of R167, by operation (the offset of its port from 0x142),
format (R166) and input pattern; one value for every tile and time (R170; log entry 8). -/
opaque sfuBits : Nat → Nat → Nat → Nat

/-- The current of a tile in microamperes when its stipe is measured (R368; log entry 15): by the oracle's count,
the stipe and the position. -/
opaque tileCurrent : Nat → Nat → Nat → Nat

/-- The temperature code of an HBM stack in degrees (R378; log entry 15). -/
opaque hbmTemp : Nat → Nat → Nat

/-- The power of a compute die in milliwatts (R376; log entry 15). -/
opaque diePower : Nat → Nat → Nat

/-- The lanes a pattern test finds failing (R425; log entry 16). -/
opaque patternMask : Nat → BitVec 64

/-- Whether both signatures of a boot image verify under the fused keys (R394; log entry 18). -/
opaque signaturesVerify : List Byte → Bool

/-- The SHA-512 digest of a list of bytes (R394; log entry 18). -/
opaque sha512 : List Byte → List Byte

/-- The body of an answer of the security block (R396; log entry 18): by request code and request. -/
opaque spdmAnswer : Nat → List Byte → List Byte

/-- What a PCIe configuration request is answered with (R394; log entry 18): by I/O die and request. -/
opaque configAnswer : Nat → List Byte → List Byte

/-- Whether the service tiles' self-test passes (R395; log entry 18). -/
opaque selfTestPasses : Nat → Bool

/-- Whether the spare stipe tested for a retired stipe is good (R384; log entry 18). -/
opaque spareGood : Nat → Bool

/-- The bytes of a saved image whose layout the manual does not give (R362, R363; log entry 17): by the oracle's
count and the offset. -/
opaque saveByte : Nat → Nat → Byte

/-- The 64-byte line the link retransmits is the line sent; this is the syndrome a log entry records when a
storage error is found (R383; log entry 22). -/
opaque syndrome : Nat → Word

/-- The device's number in its scale-up domain (R284 names it; no register holds it; log entry 25). -/
opaque deviceNumber : Nat

/-- Which of the launches that hold a logical tile a frame of the scale-up fabric for it belongs to (R284; log entry 25). -/
opaque frameLaunch : Nat → Nat

/-- The function the driver has given a work queue to: 0 the physical one, else a virtual one (R391; log entry 70). -/
opaque queueFunction : Nat → Nat

/-- The firmware kernel that a boot image's body is: its parcels and its entry (R394; log entry 18). -/
opaque firmwareParcels : List Byte → List (BitVec 16)
opaque firmwareEntry : List Byte → Nat

/-- The digest of the boot ROM and the fuses, as they are measured (R396; log entry 18). -/
opaque romDigest : List Byte
opaque fuses : List Byte

/-- A word, or field of a word, to which the manual gives no value: by the oracle's count (log entry 25). -/
opaque openWord : Nat → Word

end Sys2Proof.Config
end

