-- ==== Sys2Proof/Syntax.lean ====
section
/-! DEFINITION. The instructions: one constructor per row of the opcode table. A row that a move to a
trigger port fires carries the trigger value v (R134); its other operands are the issuing strand's
latches. A row that is an event of an engine, a router, the firmware or the host names the place it
happens at (a tile by TILEID, a packet, a launch, a partition). -/
namespace Sys2Proof

/-- One constructor per row of the opcode table. -/
inductive Instr where
  /-- T_PARCEL (R30): A T parcel issues the table word at its index once per repetition; the word guard is evaluated once and a false guard gives empty issues. -/
  | tParcel (index : BitVec 9) (nm1 : BitVec 3) (g : BitVec 3)
  /-- REPETITION (R36): A later repetition of a repeated T parcel issues alone, executes only its keep moves and steps address operand ports. -/
  | repetition
  /-- I_PARCEL (R31): An I parcel shifts a 14-bit chunk into PIM for the pim source of the next word; it is not an issue. -/
  | iParcel (chunk : BitVec 14)
  /-- IDLE (R32): A C parcel of subcode 0 makes argument + 1 empty issues. -/
  | idle (arg : BitVec 8)
  /-- INLINE (R32): A C parcel of subcode 1 and 16 literal parcels issue a literal transport word once. -/
  | inline (w : BitVec 256)
  /-- BANK (R32): A C parcel of subcode 2 sets the strand's TBANK to its argument. -/
  | bank (n : BitVec 8)
  /-- ANNULLED_ISSUE (R291): An annulled delay issue counts as an issue, has no effect and is checked only for illegal parcels. -/
  | annulledIssue
  /-- ISSUE_CHOICE (R318): Each cycle the tile chooses at most one eligible strand to issue, by aging, class, train and least LAST. -/
  | issueChoice (t : Nat)
  /-- RESULT_DELIVERY (R432): A data-locked result becomes physically ready and fills its port, releasing a strand held on it. -/
  | resultDelivery (t k : Nat) (u : UnitId)
  /-- CHECK_FAIL (R354): A word fails its check stage, and it and every later word of the tile are discarded and issued again. -/
  | checkFail (t k : Nat)
  /-- OVERLAY_LOADED (R300): An overlay load completes, releasing held strands and T parcels and delivering status 0. -/
  | overlayLoaded (t : Nat)
  /-- DIVIDE_DELIVER (R147): A divide finishes after 6 to 22 cycles, delivers quotient and remainder and frees the divider for the next held divide. -/
  | divideDeliver (t : Nat)
  /-- EXPANSION_STEP (R162): One 4-cycle step of a divd or sqrtd expansion ends; step 5 rounds, checks float traps and delivers. -/
  | expansionStep (t k : Nat)
  /-- BLK_STEP (R109): One 64-byte step of lsu.blk completes, delivering lsu.y after the last. -/
  | blkStep (t k : Nat)
  /-- TRANSLATION_REQUEST (R84): A global request reaches its translation station and hits, joins a walk or starts one. -/
  | translationRequest (p : Nat)
  /-- PAGE_WALK_DONE (R82): A page-table walk ends, answering its requests with a PA or a fault. -/
  | pageWalkDone (w : Nat)
  /-- L2_ACCESS (R87): A request is performed at its home die L2 in arrival order. -/
  | l2Access (p : Nat)
  /-- SORUS_POOL_ACCESS (R131): An 0xE1 access or vector row from another tile is performed at the target pool between two of its issues. -/
  | sorusPoolAccess (p : Nat)
  /-- WRS_TIMEOUT (R234): v ticks pass before the reservation is lost and wrs returns 4. -/
  | wrsTimeout (t k : Nat)
  /-- LOCKED_RESERVATION_EXPIRE (R235): 256 target cycles pass on a locked reservation and held writes to the granule proceed. -/
  | lockedReservationExpire (t g : Nat)
  /-- ATOMIC_PERFORM (R229): An atomic from another tile is performed at its target between two issues and its result is returned. -/
  | atomicPerform (p : Nat)
  /-- SC_WINDOW_PERFORM (R236): Once TIME reaches 32(W+1)+96, a target performs window W's SC atomics in (tile, slot, sequence) order. -/
  | scWindowPerform (t : Nat)
  /-- SEM_WAIT_TIMEOUT (R335): LIMIT ticks pass on a held sem.wait, which proceeds with TOUT. -/
  | semWaitTimeout (t k : Nat)
  /-- SEM_SIGNAL_ARRIVE (R332): A semaphore change arriving from another tile, engine or note is applied as one pool-order event. -/
  | semSignalArrive (p : Nat)
  /-- HANDLER_START (R316): A satisfied waiting-task entry receives a slot and its handler starts the next cycle. -/
  | handlerStart (t : Nat)
  /-- NET_PIECE (R243): A put or get piece is read whole and written whole at its destination. -/
  | netPiece (t i : Nat)
  /-- MESSAGE_ARRIVE (R247): A message or copy record reaches a tile and enters its inbox, or waits in the mesh while it is full. -/
  | messageArrive (p : Nat)
  /-- MIGRATION_ARRIVE (R253): A migration packet reaches its target, which accepts it into a helper slot or arrival queue or refuses it. -/
  | migrationArrive (p : Nat)
  /-- MIGRATION_REFUSED (R253): A refusal returns to the source, and the strand resumes there with trap 0x0B. -/
  | migrationRefused (p : Nat)
  /-- IPI_ARRIVE (R352): A 0x36 interrupt reaches a strand slot's queue, or waits in the mesh while it is full. -/
  | ipiArrive (p : Nat)
  /-- BARRIER_REPORT (R338): A child's barrier report reaches a router, which reports on or, at the root, sends the release. -/
  | barrierReport (p : Nat)
  /-- BARRIER_RELEASE (R338): A barrier release reaches a router, advances PH, closes arrivals and is forwarded. -/
  | barrierRelease (p : Nat)
  /-- BARRIER_RELEASE_DELAYED (R375): TIME reaches the staggered delay and a held barrier release is performed at the tile. -/
  | barrierReleaseDelayed (t b : Nat)
  /-- CHANNEL_LINE_ARRIVE (R271): A channel line is checked and written into the ring, possibly completing a chunk or raising a sequence error. -/
  | channelLineArrive (p : Nat)
  /-- CREDIT_ARRIVE (R267): A returned credit reaches the sender, adding to CRED and signalling SSEM. -/
  | creditArrive (p : Nat)
  /-- STREAM_LINE_ARRIVE (R277): A stream line enters an entry's input buffer. -/
  | streamLineArrive (p : Nat)
  /-- MERGE_RECORD (R278): A stream entry merges the least index among its inputs' heads and emits the summed record. -/
  | mergeRecord (t e : Nat)
  /-- STREAM_OUTPUT (R282): An entry's output L line is delivered into channel DCH once it has a free slot. -/
  | streamOutput (t e : Nat)
  /-- SCALEUP_FRAME (R284): A scale-up frame arrives and its line or memory piece enters the named entry or home L2. -/
  | scaleupFrame (f : Frame)
  /-- COPY_PIECE (R97): The copy engine reads and writes one piece of a copy. -/
  | copyPiece (t e : Nat)
  /-- COPY_RECORD_POST (R102): A completed copy's inbox record is posted once the target inbox has room, freeing the queue entry. -/
  | copyRecordPost (t e : Nat)
  /-- MX_NOP (R222): A matrix command with only its wait and signal. -/
  | mxNop (t : Nat)
  /-- MX_CLAIM (R212): Claims operand slots, the stl held until every named slot is free. -/
  | mxClaim (t : Nat)
  /-- MX_RELEASE (R212): Ends ownership of slots, which become free at retirement. -/
  | mxRelease (t : Nat)
  /-- MX_LOAD (R213): Fills an operand slot from memory, optionally converting. -/
  | mxLoad (t : Nat)
  /-- MX_SCALE (R214): Copies bytes into scale memory columns. -/
  | mxScale (t : Nat)
  /-- MX_MMA (R215): Multiplies A by K-major B into a 32×32 accumulator block. -/
  | mxMma (t : Nat)
  /-- MX_MMAT (R215): Multiplies A by the transpose of a row-form B into an accumulator block. -/
  | mxMmat (t : Nat)
  /-- MX_ZERO (R218): Zeroes an accumulator block. -/
  | mxZero (t : Nat)
  /-- MX_STORE (R219): Converts an accumulator block and writes it to memory, with block scales for block formats. -/
  | mxStore (t : Nat)
  /-- MX_FENCE (R222): Waits for earlier commands and optionally writes and clears MXS. -/
  | mxFence (t : Nat)
  /-- MX_COMPLETE (R207): A matrix command completes, its signal is performed in queue order and it retires. -/
  | mxComplete (t : Nat)
  /-- TRAP_ENTRY (R348): At a boundary the highest pending cause is taken, saving state and entering the handler or its default. -/
  | trapEntry (t k : Nat)
  /-- FAULT_RECORD_POST (R351): A waiting fault record is written once the partition's fault ring has room. -/
  | faultRecordPost (t : Nat)
  /-- WATCHDOG (R353): A strand held for 2^WDL ticks has its hold ended and takes trap 0x2F. -/
  | watchdog (t k : Nat)
  /-- RECOVER (R381): The firmware retires tiles and restores the partition from its last checkpoint, or stops it. -/
  | recover (p : Nat)
  /-- DOORBELL (R392): An 8-byte write to a queue doorbell supplies a new TAIL, or is dropped and logged. -/
  | doorbell (iod off size : Nat) (v : Word)
  /-- RECORD_TAKE (R303): The sequencer reads and checks a queue's head record, refusing it with a status code on failure. -/
  | recordTake (q : Nat)
  /-- PLACEMENT (R307): The arbiter places a ready record on free sori of its partition and loads every tile. -/
  | placement (p : Nat)
  /-- CONTROL_STRAND_START (R309): At the agreed TIME every control strand of the launch starts at its entry. -/
  | controlStrandStart (l : Nat)
  /-- SORUS_COMPLETE (R323): A logical sorus completes when its last tile completes, performing its SNOTE. -/
  | sorusComplete (l o : Nat)
  /-- LAUNCH_COMPLETE (R324): Every sorus complete, the sequencer writes TDONE and STATUS, signals CSEM, interrupts and frees the sori. -/
  | launchComplete (l : Nat)
  /-- HOST_POOL_WRITE (R91): A host write to a pool is split into 64-byte pieces in the tile's ingress buffer. -/
  | hostPoolWrite (iod off : Nat) (d : List Byte)
  /-- HOST_PIECE_APPLY (R91): In HWINMODE 0 one buffered host piece is applied between two issues. -/
  | hostPieceApply (t : Nat)
  /-- HOST_POOL_READ (R90): A host read of a pool is served between issues of the tile. -/
  | hostPoolRead (iod off n : Nat)
  /-- HOST_HBM_ACCESS (R391): A host CXL.mem or window access reaches HBM through its home L2. -/
  | hostHbmAccess (a : HbmAccess)
  /-- XLINV_ALL (R86): An XLINV write with SCOPE 0 starts invalidating cached translations of all contexts. -/
  | xlinvAll
  /-- XLINV_CTX (R86): An XLINV write with SCOPE 1 starts invalidating one context's translations. -/
  | xlinvCtx (ctx : BitVec 16)
  /-- XLINV_RANGE (R86): An XLINV write with SCOPE 2 starts invalidating one context's translations in the XLINVA range. -/
  | xlinvRange (ctx : BitVec 16)
  /-- XLINV_COMPLETE (R86): An invalidation completes once matching translations are removed and overlapping walks finished, clearing BUSY. -/
  | xlinvComplete
  /-- HIPI (R387): A HIPI write sends interrupt 0x35 with its payload to a strand, merging with a pending one. -/
  | hipi (v : Word)
  /-- DEVICE_REGISTER_WRITE (R386): A write to a device register with no row of its own sets its value. -/
  | deviceRegisterWrite (host : Bool) (x : Word) (v : Word)
  /-- SWITCH (R388): PSCTL command 1 starts a gang switch of a running partition. -/
  | gangSwitch (p : Nat)
  /-- RESTORE (R388): PSCTL command 2 restores a switched-out partition, waiting for free sori. -/
  | gangRestore (p : Nat)
  /-- CHECKPOINT (R388): PSCTL command 3 takes one checkpoint now. -/
  | gangCheckpoint (p : Nat)
  /-- RESUME (R388): PSCTL command 4 resumes a stopped strand as sys.eret would. -/
  | strandResume (p lt slot : Nat)
  /-- END (R388): PSCTL command 5 ends every strand and launch of the partition with STATUS 9. -/
  | endPartition (p : Nat)
  /-- CHECKPOINT_TIMER (R365): Every CKPER µs the firmware fixes a TS for a checkpoint gang switch. -/
  | checkpointTimer (p : Nat)
  /-- GANG_STOP (R357): At TS each tile stops issuing, lets issued words check and stops its engines at boundaries. -/
  | gangStop (t : Nat)
  /-- GANG_SPILL (R357): All tiles stopped and SC atomics performed, in-flight packets fall into the spill ring. -/
  | gangSpill (p : Nat)
  /-- GANG_SAVE (R362): Each tile writes its save area and records its counts. -/
  | gangSave (t : Nat)
  /-- GANG_OUT (R361): The message counts balance and the partition reaches OUT with STATE 2, or a checkpoint completes. -/
  | gangOut (p : Nat)
  /-- SPILL_CAPTURE (R359): A packet for a saving or switched-out tile is written to the spill ring or applied to its saved image. -/
  | spillCapture (p : Nat)
  /-- RESTORE_START (R364): At the agreed TIME every tile resumes and live strands take resume notice 0x34. -/
  | restoreStart (p : Nat)
  /-- BUDGET_REFILL (R372): Every 256 cycles the tile's vector shares and MBUDGET are refilled. -/
  | budgetRefill (t : Nat)
  /-- STIPE_UPDATE (R369): Every 1,000 ticks the stipe controller measures currents and adjusts STR, BAL and RF. -/
  | stipeUpdate (i : Nat)
  /-- DIE_POWER_MEASURE (R376): Every 10 µs a die's power controller lowers or raises its tile clocks by 25 MHz. -/
  | diePowerMeasure (d : Nat)
  /-- POWER_STATE_DESCEND (R377): After an idle time the device enters the next deeper power state allowed by LTOL. -/
  | powerStateDescend
  /-- POWER_WAKE (R377): A wake event returns the device to S0 after the current state's exit latency. -/
  | powerWake
  /-- HBM_TEMP_POLL (R378): Every 1 ms a service tile reads each stack's temperature and sets refresh and channel caps. -/
  | hbmTempPoll
  /-- SCRUB_VISIT (R382): A scrub visits a word as one read-modify-write, correcting or logging errors. -/
  | scrubVisit (l : ScrubLoc)
  /-- LINK_DOWN (R379): A link fails 16 retries and goes down with a log entry and error interrupt. -/
  | linkDown (iod link : Nat)
  /-- CHCTL_WRITE (R422): A CHCTL write takes a channel in or out of training or service, releasing waiting requests. -/
  | chctlWrite (st ch : Nat) (v : Word)
  /-- TRAIN_EFFECT (R422): TRAIN = 1 takes effect once the channel's accepted requests have completed. -/
  | trainEffect (st ch : Nat)
  /-- READ_TEST (R425): A PTCTL write with GO and DIR 0 starts a read pattern test. -/
  | readTest (st ch : Nat)
  /-- WRITE_TEST (R425): A PTCTL write with GO and DIR 1 starts a write pattern test. -/
  | writeTest (st ch : Nat)
  /-- PATTERN_TEST_DONE (R425): A pattern test ends, setting DONE and the lane failure mask. -/
  | patternTestDone (st ch : Nat)
  /-- PATTERN_TEST_TIMEOUT (R425): A test not ended after 10,000 ticks ends with TOUT and an all-ones mask. -/
  | patternTestTimeout (st ch : Nat)
  /-- HMODE_WRITE (R426): A write to hmode[n] sends its low byte to mode register n of the channel's dies. -/
  | hmodeWrite (st ch n : Nat) (v : Word)
  /-- DEVICE_RESET (R394): After reset the boot ROM verifies the signed image, starts the service tiles and the firmware brings the device to Ready. -/
  | deviceReset
  /-- RECOVERY_IMAGE (R395): The recovery ROM accepts a new image, verifies it, writes it to flash and resets. -/
  | recoveryImage (image : List Byte)
  /-- GET_VERSION (R396): SPDM GET_VERSION request answered by the security block. -/
  | getVersion (body : List Byte)
  /-- GET_CAPABILITIES (R396): SPDM GET_CAPABILITIES request. -/
  | getCapabilities (body : List Byte)
  /-- NEGOTIATE_ALGORITHMS (R396): SPDM NEGOTIATE_ALGORITHMS request. -/
  | negotiateAlgorithms (body : List Byte)
  /-- GET_DIGESTS (R396): SPDM GET_DIGESTS request. -/
  | getDigests (body : List Byte)
  /-- GET_CERTIFICATE (R396): SPDM GET_CERTIFICATE request. -/
  | getCertificate (body : List Byte)
  /-- CHALLENGE (R396): SPDM CHALLENGE request, signed with RSASSA-4096. -/
  | challenge (body : List Byte)
  /-- GET_MEASUREMENTS (R396): SPDM GET_MEASUREMENTS request returning the three measurements. -/
  | getMeasurements (body : List Byte)
  /-- CONFIGURATION_REQUEST (R394): A host PCIe configuration request to the device completes with Request Retry Status until BOOTST reaches stage 4, and is served normally afterwards. -/
  | configurationRequest (iod : Nat) (req : List Byte)
  /-- CU_JMP (R287): Transfers to an absolute parcel address after two delay issues. -/
  | cuJmp (v : Word)
  /-- CU_BR (R287): Transfers to the issue address plus a signed offset after two delay issues. -/
  | cuBr (v : Word)
  /-- CU_CALL (R287): Pushes the return address and transfers to an absolute target, spilling or trapping 0x09 on overflow. -/
  | cuCall (v : Word)
  /-- CU_RET (R287): Pops a return address from the store or spill area and transfers to it, trapping 0x08 when both are empty. -/
  | cuRet (v : Word)
  /-- CU_BRL (R288): Relative branch taken on its guard, with delay issues executed when taken and annulled when not. -/
  | cuBrl (g : Bool) (v : Word)
  /-- CU_BRK (R288): Relative branch taken on its guard, with delay issues annulled when taken and executed when not. -/
  | cuBrk (g : Bool) (v : Word)
  /-- CU_START (R296): Starts a helper in the lowest free slot with its initial registers and delivers the slot, or −1 when none is free. -/
  | cuStart (v : Word)
  /-- CU_HALT (R297): Ends the issuing strand once its stores, atomics, copies, commands and net operations have drained, releasing its resources. -/
  | cuHalt (v : Word)
  /-- CU_YIELD (R298): Lowers the strand's class in the issue choice until its next issue. -/
  | cuYield (v : Word)
  /-- CU_MEET (R299): Arrives at a tile meet point and holds the strand until the meeting's generation completes. -/
  | cuMeet (v : Word)
  /-- CU_TRYMEET (R299): Arrives at or polls a meet point without waiting and delivers whether the generation has completed. -/
  | cuTrymeet (v : Word)
  /-- CU_TLOAD (R300): Starts loading an overlay into table entries 256–511 and holds the strand until it is resident. -/
  | cuTload (v : Word)
  /-- CU_SCALL (R301): Raises system-call trap 0x2C after the word with the call number in SINFO. -/
  | cuScall (v : Word)
  /-- CU_BKPT (R301): Raises breakpoint trap 0x2A after the word with the tag in SINFO. -/
  | cuBkpt (v : Word)
  /-- CRF_RD (R120): Reads a common register, MODE, FMT or TBANK by index into crf.y. -/
  | crfRd (v : Word)
  /-- CRF_WR (R120): Writes a common register, MODE or FMT by the index in crf.a. -/
  | crfWr (v : Word)
  /-- ALU_MOV (R140): Delivers v (alu0 or alu1). -/
  | aluMov (u : Alu) (v : Word)
  /-- ALU_ADD (R140): Adds a and v modulo 2^64 with carry and overflow status. -/
  | aluAdd (u : Alu) (v : Word)
  /-- ALU_SUB (R140): Subtracts v from a modulo 2^64 with borrow and overflow status. -/
  | aluSub (u : Alu) (v : Word)
  /-- ALU_ADDS (R140): Signed saturating addition. -/
  | aluAdds (u : Alu) (v : Word)
  /-- ALU_SUBS (R140): Signed saturating subtraction. -/
  | aluSubs (u : Alu) (v : Word)
  /-- ALU_ADDUS (R140): Unsigned saturating addition. -/
  | aluAddus (u : Alu) (v : Word)
  /-- ALU_SUBUS (R140): Unsigned saturating subtraction. -/
  | aluSubus (u : Alu) (v : Word)
  /-- ALU_ADDW (R140): 32-bit addition, sign-extended. -/
  | aluAddw (u : Alu) (v : Word)
  /-- ALU_SUBW (R140): 32-bit subtraction, sign-extended. -/
  | aluSubw (u : Alu) (v : Word)
  /-- ALU_NEG (R140): Negates v. -/
  | aluNeg (u : Alu) (v : Word)
  /-- ALU_ABS (R140): Absolute value of v. -/
  | aluAbs (u : Alu) (v : Word)
  /-- ALU_MIN (R140): Signed minimum of a and v. -/
  | aluMin (u : Alu) (v : Word)
  /-- ALU_MAX (R140): Signed maximum of a and v. -/
  | aluMax (u : Alu) (v : Word)
  /-- ALU_MINU (R140): Unsigned minimum of a and v. -/
  | aluMinu (u : Alu) (v : Word)
  /-- ALU_MAXU (R140): Unsigned maximum of a and v. -/
  | aluMaxu (u : Alu) (v : Word)
  /-- ALU_AND (R140): Bitwise and of a and v. -/
  | aluAnd (u : Alu) (v : Word)
  /-- ALU_OR (R140): Bitwise or of a and v. -/
  | aluOr (u : Alu) (v : Word)
  /-- ALU_XOR (R140): Bitwise exclusive or of a and v. -/
  | aluXor (u : Alu) (v : Word)
  /-- ALU_ANDN (R140): a and not v. -/
  | aluAndn (u : Alu) (v : Word)
  /-- ALU_ORN (R140): a or not v. -/
  | aluOrn (u : Alu) (v : Word)
  /-- ALU_NOT (R140): Bitwise not of v. -/
  | aluNot (u : Alu) (v : Word)
  /-- ALU_SHL (R140): Shifts a left by v[5:0]. -/
  | aluShl (u : Alu) (v : Word)
  /-- ALU_SHR (R140): Shifts a right logically by v[5:0]. -/
  | aluShr (u : Alu) (v : Word)
  /-- ALU_SAR (R140): Shifts a right arithmetically by v[5:0]. -/
  | aluSar (u : Alu) (v : Word)
  /-- ALU_ROL (R140): Rotates a left by v[5:0]. -/
  | aluRol (u : Alu) (v : Word)
  /-- ALU_ROR (R140): Rotates a right by v[5:0]. -/
  | aluRor (u : Alu) (v : Word)
  /-- ALU_SHLW (R140): 32-bit left shift, sign-extended. -/
  | aluShlw (u : Alu) (v : Word)
  /-- ALU_SHRW (R140): 32-bit logical right shift, sign-extended. -/
  | aluShrw (u : Alu) (v : Word)
  /-- ALU_SARW (R140): 32-bit arithmetic right shift, sign-extended. -/
  | aluSarw (u : Alu) (v : Word)
  /-- ALU_EQ (R140): 1 when a equals v. -/
  | aluEq (u : Alu) (v : Word)
  /-- ALU_NE (R140): 1 when a differs from v. -/
  | aluNe (u : Alu) (v : Word)
  /-- ALU_LT (R140): 1 when a < v signed. -/
  | aluLt (u : Alu) (v : Word)
  /-- ALU_LE (R140): 1 when a ≤ v signed. -/
  | aluLe (u : Alu) (v : Word)
  /-- ALU_LTU (R140): 1 when a < v unsigned. -/
  | aluLtu (u : Alu) (v : Word)
  /-- ALU_LEU (R140): 1 when a ≤ v unsigned. -/
  | aluLeu (u : Alu) (v : Word)
  /-- ALU_CLZ (R140): Counts leading zero bits of v. -/
  | aluClz (u : Alu) (v : Word)
  /-- ALU_CTZ (R140): Counts trailing zero bits of v. -/
  | aluCtz (u : Alu) (v : Word)
  /-- ALU_POPC (R140): Counts set bits of v. -/
  | aluPopc (u : Alu) (v : Word)
  /-- ALU_BSWAP (R140): Reverses the bytes of v. -/
  | aluBswap (u : Alu) (v : Word)
  /-- ALU_SXB (R140): Sign-extends byte of v. -/
  | aluSxb (u : Alu) (v : Word)
  /-- ALU_SXH (R140): Sign-extends halfword of v. -/
  | aluSxh (u : Alu) (v : Word)
  /-- ALU_SXW (R140): Sign-extends word of v. -/
  | aluSxw (u : Alu) (v : Word)
  /-- ALU_ZXB (R140): Zero-extends byte of v. -/
  | aluZxb (u : Alu) (v : Word)
  /-- ALU_ZXH (R140): Zero-extends halfword of v. -/
  | aluZxh (u : Alu) (v : Word)
  /-- ALU_ZXW (R140): Zero-extends word of v. -/
  | aluZxw (u : Alu) (v : Word)
  /-- ALU_EXT (R141): Extracts a sign-extended bit field of a. -/
  | aluExt (u : Alu) (v : Word)
  /-- ALU_EXTU (R141): Extracts a zero-extended bit field of a. -/
  | aluExtu (u : Alu) (v : Word)
  /-- ALU_INS (R141): Inserts b as a bit field into a, flagging a cut field. -/
  | aluIns (u : Alu) (v : Word)
  /-- ALU_SEL (R142): Selects a when v bit 0 is 1, else b. -/
  | aluSel (u : Alu) (v : Word)
  /-- ALU_LEA (R143): Adds v scaled by 2^b to a's low 56 bits, keeping a's class byte. -/
  | aluLea (u : Alu) (v : Word)
  /-- PRD_AND (R149): Predicate and under keep-mask b. -/
  | prdAnd (v : Word)
  /-- PRD_OR (R149): Predicate or under keep-mask b. -/
  | prdOr (v : Word)
  /-- PRD_XOR (R149): Predicate exclusive or under keep-mask b. -/
  | prdXor (v : Word)
  /-- PRD_ANDN (R149): Predicate a and not v under keep-mask b. -/
  | prdAndn (v : Word)
  /-- PRD_ORN (R149): Predicate a or not v under keep-mask b. -/
  | prdOrn (v : Word)
  /-- PRD_NOT (R149): Predicate not v under keep-mask b. -/
  | prdNot (v : Word)
  /-- PRD_NZ (R149): 1 when v is non-zero. -/
  | prdNz (v : Word)
  /-- PRD_EZ (R149): 1 when v is zero. -/
  | prdEz (v : Word)
  /-- PRD_BIT (R149): Delivers bit v[5:0] of a. -/
  | prdBit (v : Word)
  /-- MDU_MUL (R144): Signed 64×64 product, low half in y and high in z. -/
  | mduMul (v : Word)
  /-- MDU_MULH (R144): Signed product, high half in y. -/
  | mduMulh (v : Word)
  /-- MDU_MULHU (R144): Unsigned product, high half in y. -/
  | mduMulhu (v : Word)
  /-- MDU_MULHSU (R144): Signed-by-unsigned product, high half in y. -/
  | mduMulhsu (v : Word)
  /-- MDU_MULW (R144): 32-bit signed product. -/
  | mduMulw (v : Word)
  /-- MDU_MAC (R144): b plus a times v with INT64 overflow status. -/
  | mduMac (v : Word)
  /-- MDU_DIV (R145): Starts a signed 64-bit divide on the shared divider. -/
  | mduDiv (v : Word)
  /-- MDU_DIVU (R145): Starts an unsigned 64-bit divide. -/
  | mduDivu (v : Word)
  /-- MDU_DIVW (R145): Starts a signed 32-bit divide. -/
  | mduDivw (v : Word)
  /-- MDU_DIVUW (R145): Starts an unsigned 32-bit divide. -/
  | mduDivuw (v : Word)
  /-- FPA_ADDD (R155): FP64 addition rounded in RM. -/
  | fpaAddd (v : Word)
  /-- FPA_SUBD (R155): FP64 subtraction. -/
  | fpaSubd (v : Word)
  /-- FPA_MULD (R155): FP64 multiplication. -/
  | fpaMuld (v : Word)
  /-- FPA_FMAD (R155): FP64 fused a × b + v. -/
  | fpaFmad (v : Word)
  /-- FPA_FMSD (R155): FP64 fused a × b − v. -/
  | fpaFmsd (v : Word)
  /-- FPA_FNMAD (R155): FP64 fused −(a × b) + v. -/
  | fpaFnmad (v : Word)
  /-- FPA_DIVD (R161): Starts a six-step FP64 divide expansion. -/
  | fpaDivd (v : Word)
  /-- FPA_SQRTD (R161): Starts a six-step FP64 square-root expansion. -/
  | fpaSqrtd (v : Word)
  /-- FPA_MIND (R157): FP64 minimum, number-preferring. -/
  | fpaMind (v : Word)
  /-- FPA_MAXD (R157): FP64 maximum, number-preferring. -/
  | fpaMaxd (v : Word)
  /-- FPA_ABSD (R157): Clears the FP64 sign bit. -/
  | fpaAbsd (v : Word)
  /-- FPA_NEGD (R157): Inverts the FP64 sign bit. -/
  | fpaNegd (v : Word)
  /-- FPA_CEQD (R158): FP64 equality compare. -/
  | fpaCeqd (v : Word)
  /-- FPA_CLTD (R158): FP64 less-than compare. -/
  | fpaCltd (v : Word)
  /-- FPA_CLED (R158): FP64 less-or-equal compare. -/
  | fpaCled (v : Word)
  /-- FPA_CUND (R158): 1 when either FP64 operand is NaN. -/
  | fpaCund (v : Word)
  /-- FPA_CLASSD (R158): Delivers the one-hot class mask of an FP64 value. -/
  | fpaClassd (v : Word)
  /-- FPA_RINTD (R159): Rounds FP64 to an integral value in RM. -/
  | fpaRintd (v : Word)
  /-- FPA_ADDF (R155): FP32 addition. -/
  | fpaAddf (v : Word)
  /-- FPA_SUBF (R155): FP32 subtraction. -/
  | fpaSubf (v : Word)
  /-- FPA_MULF (R155): FP32 multiplication. -/
  | fpaMulf (v : Word)
  /-- FPA_FMAF (R155): FP32 fused multiply-add. -/
  | fpaFmaf (v : Word)
  /-- FPA_MINF (R157): FP32 minimum, number-preferring. -/
  | fpaMinf (v : Word)
  /-- FPA_MAXF (R157): FP32 maximum, number-preferring. -/
  | fpaMaxf (v : Word)
  /-- FPA_CEQF (R158): FP32 equality compare. -/
  | fpaCeqf (v : Word)
  /-- FPA_CLTF (R158): FP32 less-than compare. -/
  | fpaCltf (v : Word)
  /-- FPA_CLEF (R158): FP32 less-or-equal compare. -/
  | fpaClef (v : Word)
  /-- FPA_CVTFD (R160): Converts FP32 to FP64 exactly. -/
  | fpaCvtfd (v : Word)
  /-- FPA_CVTDF (R160): Converts FP64 to FP32. -/
  | fpaCvtdf (v : Word)
  /-- FPA_CVTDL (R160): Converts FP64 to INT64. -/
  | fpaCvtdl (v : Word)
  /-- FPA_CVTLD (R160): Converts INT64 to FP64. -/
  | fpaCvtld (v : Word)
  /-- FPA_CVTDLU (R160): Converts FP64 to UINT64. -/
  | fpaCvtdlu (v : Word)
  /-- FPA_CVTLUD (R160): Converts UINT64 to FP64. -/
  | fpaCvtlud (v : Word)
  /-- FPA_CVTFW (R160): Converts FP32 to INT32. -/
  | fpaCvtfw (v : Word)
  /-- FPA_CVTWF (R160): Converts INT32 to FP32. -/
  | fpaCvtwf (v : Word)
  /-- FPA_CVTDH (R160): Converts FP64 to FP16. -/
  | fpaCvtdh (v : Word)
  /-- FPA_CVTHD (R160): Converts FP16 to FP64 exactly. -/
  | fpaCvthd (v : Word)
  /-- FPA_CVTDB (R160): Converts FP64 to BF16. -/
  | fpaCvtdb (v : Word)
  /-- FPA_CVTBD (R160): Converts BF16 to FP64 exactly. -/
  | fpaCvtbd (v : Word)
  /-- SFU_RCP (R167): Reciprocal in format SF. -/
  | sfuRcp (v : Word)
  /-- SFU_RSQRT (R167): Reciprocal square root. -/
  | sfuRsqrt (v : Word)
  /-- SFU_SQRT (R167): Correctly rounded square root. -/
  | sfuSqrt (v : Word)
  /-- SFU_EXP2 (R167): Power of two. -/
  | sfuExp2 (v : Word)
  /-- SFU_EXP (R167): Natural exponential. -/
  | sfuExp (v : Word)
  /-- SFU_LOG2 (R167): Base-2 logarithm. -/
  | sfuLog2 (v : Word)
  /-- SFU_LN (R167): Natural logarithm. -/
  | sfuLn (v : Word)
  /-- SFU_SINPI (R167): sin(πx). -/
  | sfuSinpi (v : Word)
  /-- SFU_COSPI (R167): cos(πx). -/
  | sfuCospi (v : Word)
  /-- SFU_TANH (R167): Hyperbolic tangent. -/
  | sfuTanh (v : Word)
  /-- SFU_SIGM (R167): Logistic sigmoid. -/
  | sfuSigm (v : Word)
  /-- SFU_GELU (R167): GELU activation. -/
  | sfuGelu (v : Word)
  /-- SFU_SILU (R167): SiLU activation. -/
  | sfuSilu (v : Word)
  /-- SFU_ERF (R167): Error function. -/
  | sfuErf (v : Word)
  /-- LSU_LDB (R125): Loads a sign-extended byte. -/
  | lsuLdb (v : Word)
  /-- LSU_LDBU (R125): Loads a zero-extended byte. -/
  | lsuLdbu (v : Word)
  /-- LSU_LDH (R125): Loads a sign-extended halfword. -/
  | lsuLdh (v : Word)
  /-- LSU_LDHU (R125): Loads a zero-extended halfword. -/
  | lsuLdhu (v : Word)
  /-- LSU_LDW (R125): Loads a sign-extended word. -/
  | lsuLdw (v : Word)
  /-- LSU_LDWU (R125): Loads a zero-extended word. -/
  | lsuLdwu (v : Word)
  /-- LSU_LDD (R125): Loads 8 bytes. -/
  | lsuLdd (v : Word)
  /-- LSU_LDL (R125): Loads a 64-byte line into an own-pool near line and delivers its first 8 bytes. -/
  | lsuLdl (v : Word)
  /-- LSU_STB (R125): Stores a byte. -/
  | lsuStb (v : Word)
  /-- LSU_STH (R125): Stores a halfword. -/
  | lsuSth (v : Word)
  /-- LSU_STW (R125): Stores a word. -/
  | lsuStw (v : Word)
  /-- LSU_STD (R125): Stores 8 bytes. -/
  | lsuStd (v : Word)
  /-- LSU_STL (R125): Stores an own-pool near line as a 64-byte line to the far address. -/
  | lsuStl (v : Word)
  /-- LSU_LDACQ (R128): Acquire load of 8 bytes at the scope in lsu.c. -/
  | lsuLdacq (v : Word)
  /-- LSU_STREL (R128): Release store of 8 bytes at the scope in lsu.c. -/
  | lsuStrel (v : Word)
  /-- LSU_FENCE (R329): Orders earlier and later accesses by its order bits within its scope. -/
  | lsuFence (v : Word)
  /-- LSU_PF (R129): Prefetches the line holding a global address into the home L2, never trapping on a global address. -/
  | lsuPf (v : Word)
  /-- LSU_BLK (R109): Starts the deprecated expanded block copy of lsu.c bytes. -/
  | lsuBlk (v : Word)
  /-- ATM_ADDW (R232): 32-bit atomic add. -/
  | atmAddw (v : Word)
  /-- ATM_ADDD (R232): 64-bit atomic add. -/
  | atmAddd (v : Word)
  /-- ATM_ADDF (R232): FP32 atomic add, RNE. -/
  | atmAddf (v : Word)
  /-- ATM_MINW (R232): 32-bit signed atomic minimum. -/
  | atmMinw (v : Word)
  /-- ATM_MIND (R232): 64-bit signed atomic minimum. -/
  | atmMind (v : Word)
  /-- ATM_MINUW (R232): 32-bit unsigned atomic minimum. -/
  | atmMinuw (v : Word)
  /-- ATM_MINUD (R232): 64-bit unsigned atomic minimum. -/
  | atmMinud (v : Word)
  /-- ATM_MAXW (R232): 32-bit signed atomic maximum. -/
  | atmMaxw (v : Word)
  /-- ATM_MAXD (R232): 64-bit signed atomic maximum. -/
  | atmMaxd (v : Word)
  /-- ATM_MAXUW (R232): 32-bit unsigned atomic maximum. -/
  | atmMaxuw (v : Word)
  /-- ATM_MAXUD (R232): 64-bit unsigned atomic maximum. -/
  | atmMaxud (v : Word)
  /-- ATM_ANDW (R232): 32-bit atomic and. -/
  | atmAndw (v : Word)
  /-- ATM_ANDD (R232): 64-bit atomic and. -/
  | atmAndd (v : Word)
  /-- ATM_ORW (R232): 32-bit atomic or. -/
  | atmOrw (v : Word)
  /-- ATM_ORD (R232): 64-bit atomic or. -/
  | atmOrd (v : Word)
  /-- ATM_XORW (R232): 32-bit atomic exclusive or. -/
  | atmXorw (v : Word)
  /-- ATM_XORD (R232): 64-bit atomic exclusive or. -/
  | atmXord (v : Word)
  /-- ATM_SWPW (R232): 32-bit atomic swap. -/
  | atmSwpw (v : Word)
  /-- ATM_SWPD (R232): 64-bit atomic swap. -/
  | atmSwpd (v : Word)
  /-- ATM_CASW (R232): 32-bit compare-and-swap against atm.b. -/
  | atmCasw (v : Word)
  /-- ATM_CASD (R232): 64-bit compare-and-swap against atm.b. -/
  | atmCasd (v : Word)
  /-- ATM_LRW (R233): 32-bit load-reserved, replacing the strand's reservation. -/
  | atmLrw (v : Word)
  /-- ATM_LRD (R233): 64-bit load-reserved. -/
  | atmLrd (v : Word)
  /-- ATM_SCW (R233): 32-bit store-conditional, delivering 0 on success and 1 on failure. -/
  | atmScw (v : Word)
  /-- ATM_SCD (R233): 64-bit store-conditional. -/
  | atmScd (v : Word)
  /-- ATM_WRS (R234): Waits on the strand's reservation until lost, timed out or ended. -/
  | atmWrs (v : Word)
  /-- SEM_SIG (R335): Increments a local or remote semaphore once the release allows. -/
  | semSig (v : Word)
  /-- SEM_WAIT (R335): Holds the word until the semaphore meets the threshold or LIMIT ticks pass, then delivers status. -/
  | semWait (v : Word)
  /-- SEM_TRYWAIT (R335): Tests the semaphore against a threshold without waiting. -/
  | semTrywait (v : Word)
  /-- SEM_RD (R335): Delivers the semaphore's status. -/
  | semRd (v : Word)
  /-- SEM_SET (R335): Sets the semaphore value and clears ERR, delivering the old status. -/
  | semSet (v : Word)
  /-- SEM_ARM (R314): Arms a waiting-task table entry on a semaphore threshold. -/
  | semArm (v : Word)
  /-- SEM_DISARM (R314): Frees an armed or satisfied waiting-task entry. -/
  | semDisarm (v : Word)
  /-- NET_PUT (R243): Starts a put of bytes from the own pool to a pool or global address. -/
  | netPut (v : Word)
  /-- NET_GET (R243): Starts a get of bytes into the own pool. -/
  | netGet (v : Word)
  /-- NET_SEND (R246): Sends a 64-byte own-pool line to a tile's inbox as a release. -/
  | netSend (v : Word)
  /-- NET_RECV (R248): Dequeues the head inbox entry into a pool line, holding while empty. -/
  | netRecv (v : Word)
  /-- NET_TRYRECV (R248): Dequeues the head inbox entry without waiting. -/
  | netTryrecv (v : Word)
  /-- NET_GO (R251): Migrates the helper to the tile owning an address once its operations have drained. -/
  | netGo (v : Word)
  /-- NET_IPI (R256): Sends interrupt 0x36 with a payload to a strand of a logical tile. -/
  | netIpi (v : Word)
  /-- NET_ARRIVE (R339): Arrives at a barrier, delivering the phase token and contributing when the tile's count is reached. -/
  | netArrive (v : Word)
  /-- NET_BARWAIT (R340): Waits for the release of a token's barrier phase. -/
  | netBarwait (v : Word)
  /-- NET_TRYBARWAIT (R340): Tests whether a token's barrier phase has been released. -/
  | netTrybarwait (v : Word)
  /-- SEND (R266): net.chsend OP 0 sends a line into a channel or the own stream entry. -/
  | chSend (v : Word)
  /-- FREE (R267): net.chsend OP 1 returns credits for the oldest completed chunks to the sender. -/
  | chFree (v : Word)
  /-- CHCONF (R270): net.chsend OP 2 configures both sides of a channel. -/
  | chConf (v : Word)
  /-- STCONF (R275): net.chsend OP 3 configures a stream entry once idle and delivers status. -/
  | stConf (v : Word)
  /-- QUERY (R268): net.chsend OP 4 delivers a channel's state. -/
  | chQuery (v : Word)
  /-- DMA_COPY (R99): Captures a descriptor and queues a copy with no stream endpoint. -/
  | dmaCopy (v : Word)
  /-- DMA_BIND (R99): Queues a copy with one stream endpoint and binds its socket. -/
  | dmaBind (v : Word)
  /-- DMA_UNBIND (R104): Aborts the copy bound to a socket and discards its FIFO. -/
  | dmaUnbind (v : Word)
  /-- DMA_QUERY (R103): Delivers a copy's state and bytes written. -/
  | dmaQuery (v : Word)
  /-- DMA_ABORT (R104): Ends a copy at the next piece boundary and performs its completion with state 5. -/
  | dmaAbort (v : Word)
  /-- STK_W (R107): Appends an entry to an outbound stream socket's FIFO. -/
  | stkW (k : Fin 4) (v : Word)
  /-- VEC_SHAPE (R171): Requests a vector shape and delivers the negotiated grant. -/
  | vecShape (v : Word)
  /-- VEC_REL (R174): Gives up the strand's vector claim. -/
  | vecRel (v : Word)
  /-- VEC_EDGE (R186): Builds an edge mask from remaining row and column counts. -/
  | vecEdge (v : Word)
  /-- VEC_LD (R190): Loads active elements from a strided pool array. -/
  | vecLd (v : Word)
  /-- VEC_ST (R190): Stores active elements to a strided pool array. -/
  | vecSt (v : Word)
  /-- VEC_GATH (R190): Gathers active elements by per-element offsets. -/
  | vecGath (v : Word)
  /-- VEC_SCAT (R190): Scatters active elements by per-element offsets in container order. -/
  | vecScat (v : Word)
  /-- VEC_ADD (R182): Element-wise addition. -/
  | vecAdd (v : Word)
  /-- VEC_SUB (R182): Element-wise subtraction. -/
  | vecSub (v : Word)
  /-- VEC_MUL (R182): Element-wise multiplication. -/
  | vecMul (v : Word)
  /-- VEC_FMA (R182): Element-wise fused a × b + c. -/
  | vecFma (v : Word)
  /-- VEC_FMS (R182): Element-wise fused a × b − c. -/
  | vecFms (v : Word)
  /-- VEC_FNMA (R182): Element-wise fused −(a × b) + c. -/
  | vecFnma (v : Word)
  /-- VEC_MIN (R182): Element-wise minimum. -/
  | vecMin (v : Word)
  /-- VEC_MAX (R182): Element-wise maximum. -/
  | vecMax (v : Word)
  /-- VEC_ABS (R182): Element-wise absolute value. -/
  | vecAbs (v : Word)
  /-- VEC_NEG (R182): Element-wise negation. -/
  | vecNeg (v : Word)
  /-- VEC_AND (R182): Element-wise bitwise and. -/
  | vecAnd (v : Word)
  /-- VEC_OR (R182): Element-wise bitwise or. -/
  | vecOr (v : Word)
  /-- VEC_XOR (R182): Element-wise bitwise exclusive or. -/
  | vecXor (v : Word)
  /-- VEC_SHL (R182): Element-wise left shift. -/
  | vecShl (v : Word)
  /-- VEC_SHR (R182): Element-wise logical right shift. -/
  | vecShr (v : Word)
  /-- VEC_SAR (R182): Element-wise arithmetic right shift. -/
  | vecSar (v : Word)
  /-- VEC_CEQ (R185): Element-wise equality compare. -/
  | vecCeq (v : Word)
  /-- VEC_CNE (R185): Element-wise inequality compare. -/
  | vecCne (v : Word)
  /-- VEC_CLT (R185): Element-wise less-than compare. -/
  | vecClt (v : Word)
  /-- VEC_CLE (R185): Element-wise less-or-equal compare. -/
  | vecCle (v : Word)
  /-- VEC_SEL (R185): Selects a or b per element by bit 0 of c. -/
  | vecSel (v : Word)
  /-- VEC_CVT (R187): Converts elements from TYPE to TYPE2 in RM. -/
  | vecCvt (v : Word)
  /-- VEC_CVTSR (R187): Converts FP32 elements with stochastic rounding. -/
  | vecCvtsr (v : Word)
  /-- VEC_BCROW (R188): Broadcasts one row. -/
  | vecBcrow (v : Word)
  /-- VEC_BCCOL (R188): Broadcasts one column. -/
  | vecBccol (v : Word)
  /-- VEC_BCS (R188): Broadcasts a scalar. -/
  | vecBcs (v : Word)
  /-- VEC_RSUM (R189): Sums each row in a fixed pairwise tree. -/
  | vecRsum (v : Word)
  /-- VEC_RMAX (R189): Row maximum. -/
  | vecRmax (v : Word)
  /-- VEC_RMIN (R189): Row minimum. -/
  | vecRmin (v : Word)
  /-- VEC_RCP (R182): Element-wise reciprocal as the sfu gives it. -/
  | vecRcp (v : Word)
  /-- VEC_RSQRT (R182): Element-wise reciprocal square root. -/
  | vecRsqrt (v : Word)
  /-- VEC_EXP2 (R182): Element-wise power of two. -/
  | vecExp2 (v : Word)
  /-- VEC_MOV (R188): Copies whole containers. -/
  | vecMov (v : Word)
  /-- VEC_TOCR (R193): Writes active elements to common registers and delivers the count. -/
  | vecTocr (v : Word)
  /-- VEC_FROMCR (R193): Loads active elements from common registers. -/
  | vecFromcr (v : Word)
  /-- VEC_ADDS (R182): Saturating integer addition. -/
  | vecAdds (v : Word)
  /-- VEC_SUBS (R182): Saturating integer subtraction. -/
  | vecSubs (v : Word)
  /-- VEC_CLAMP (R182): Clamps elements between lo and hi. -/
  | vecClamp (v : Word)
  /-- VEC_IOTA (R188): Fills an integer index ramp. -/
  | vecIota (v : Word)
  /-- VEC_MSKAND (R185): Mask and. -/
  | vecMskand (v : Word)
  /-- VEC_MSKOR (R185): Mask or. -/
  | vecMskor (v : Word)
  /-- VEC_MSKNOT (R185): Mask not. -/
  | vecMsknot (v : Word)
  /-- VEC_ROTR (R188): Rotates each row right. -/
  | vecRotr (v : Word)
  /-- SYS_ERET (R350): Returns from a handler, re-firing latched operations and restoring mode and delay state. -/
  | sysEret (v : Word)
  /-- SYS_RDSR (R123): Reads a system register into sys.y. -/
  | sysRdsr (v : Word)
  /-- SYS_WRSR (R123): Writes sys.a to a system register. -/
  | sysWrsr (v : Word)
  /-- SYS_XRD (R389): Reads a device register by extended address. -/
  | sysXrd (v : Word)
  /-- SYS_XWR (R389): Writes a device register by extended address. -/
  | sysXwr (v : Word)
deriving DecidableEq, Repr

end Sys2Proof
end

