-- ==== Sys2Proof/Decode.lean ====
section
/-! DEFINITION. The decoder: parcels (R29 to R34), move slots (R13), transport words (R17) and the port map (R40 to R43),
and the encoder written from the same tables. -/
namespace Sys2Proof

/-! ## Parcels -/

/-- The parcel at the head of a list of parcels, or the reason of trap 0x01 (R27): 0 undefined form, 1 undefined
C subcode, 4 past the end, 5 inline with an argument. -/
def concatParcels (ps : List (BitVec 16)) : Nat :=
  match ps with
  | [] => 0
  | p :: r => p.toNat + 65536 * concatParcels r

/-- A C parcel by its subcode and argument (R32), with the parcels after it. -/
def decodeC (sub : Nat) (arg : BitVec 8) (rest : List (BitVec 16)) : Except Nat Instr :=
  match sub with
  | 0 => .ok (.idle arg)
  | 1 =>
    if arg ≠ 0 then .error 5
    else if rest.length < 16 then .error 4
    else .ok (.inline (BitVec.ofNat 256 (concatParcels (rest.take 16))))
  | 2 => .ok (.bank arg)
  | _ => .error 1

/-- The instruction that a list of parcels begins with (R29, R32). -/
def decodeParcels (ps : List (BitVec 16)) : Except Nat Instr :=
  match ps with
  | [] => .error 4
  | p :: rest =>
    if p.getLsbD 15 = false then
      .ok (.tParcel (p.extractLsb' 6 9) (p.extractLsb' 3 3) (p.extractLsb' 0 3))
    else if p.getLsbD 14 = false then .ok (.iParcel (p.extractLsb' 0 14))
    else if p.extractLsb' 12 2 = 0 then decodeC (p.extractLsb' 8 4).toNat (p.extractLsb' 0 8) rest
    else .error 0

/-- How many parcels an instruction takes from the stream (R32). -/
def parcelLength (i : Instr) : Nat :=
  match i with
  | .inline _ => 17
  | _ => 1

/-! ## Move slots and words -/

/-- A move slot (R13). -/
structure Slot where
  guard : BitVec 4
  src : BitVec 11
  dst : BitVec 10
  keep : Bool
  low : BitVec 2
deriving DecidableEq, Repr

/-- The slot held by 28 bits (R13). -/
def decodeSlot (v : BitVec 28) : Slot :=
  { guard := v.extractLsb' 24 4, src := v.extractLsb' 13 11, dst := v.extractLsb' 3 10, keep := v.getLsbD 2,
    low := v.extractLsb' 0 2 }

/-- The 28 bits of a slot (R13). -/
def encodeSlot (s : Slot) : BitVec 28 :=
  s.guard ++ s.src ++ s.dst ++ BitVec.ofBool s.keep ++ s.low

/-- A slot with guard 8 is empty (R16). -/
def Slot.empty (s : Slot) : Bool := s.guard == 8

/-- Reserved bits of a slot set: bits [1:0] of any slot, bits [23:0] of an empty one (R16). -/
def Slot.reserved (s : Slot) : Bool :=
  s.low != 0 || (s.empty && (s.src != 0 || s.dst != 0 || s.keep))

/-- A transport word (R17). -/
structure TWord where
  slots : List Slot
  limm : BitVec 24
  hwin : Bool
  syncpt : Bool
  flagRes : BitVec 6
deriving DecidableEq, Repr

/-- The transport word held by 256 bits (R17). -/
def decodeWord (w : BitVec 256) : TWord :=
  { slots := [0, 1, 2, 3, 4, 5, 6, 7].map fun k => decodeSlot (w.extractLsb' (28 * k) 28)
    limm := w.extractLsb' 224 24, hwin := w.getLsbD 248, syncpt := w.getLsbD 249,
    flagRes := w.extractLsb' 250 6 }

/-- The 256 bits of a word of eight slots, slot 0 first in the list (R17). -/
def encodeWord (w : TWord) : BitVec 256 :=
  BitVec.ofNat 256
    ((w.slots.map encodeSlot).foldr (fun s n => s.toNat + 2 ^ 28 * n) 0
      + w.limm.toNat * 2 ^ 224 + w.hwin.toNat * 2 ^ 248 + w.syncpt.toNat * 2 ^ 249 + w.flagRes.toNat * 2 ^ 250)

/-- The word of eight empty slots (R35). -/
def emptyWord : BitVec 256 := 0x80000008000000800000080000008000000800000080000008000000#256

/-! ## The port map -/

/-- The kinds of port (R19). -/
inductive PortKind where
  | register | constant | operand | trigger | result
deriving DecidableEq, Repr

/-- The base of an alu's ports (R41). -/
def Alu.base (u : Alu) : Nat :=
  match u with
  | .alu0 => 0x040
  | .alu1 => 0x080

/-- The unit of an alu. -/
def Alu.unit (u : Alu) : UnitId :=
  match u with
  | .alu0 => .alu0
  | .alu1 => .alu1

/-- One stretch of the port map: first and last id, kind, unit (none for registers, constants and sockets). -/
structure PortRange where
  lo : Nat
  hi : Nat
  kind : PortKind
  unit : Option UnitId
deriving DecidableEq, Repr

/-- The port map of R40 to R43. -/
def portMap : List PortRange :=
  [⟨0x000, 0x001, .operand, some .cu⟩, ⟨0x002, 0x002, .result, some .cu⟩, ⟨0x003, 0x010, .trigger, some .cu⟩,
   ⟨0x020, 0x02F, .register, none⟩, ⟨0x030, 0x039, .constant, none⟩, ⟨0x03A, 0x03B, .register, none⟩,
   ⟨0x03C, 0x03C, .constant, none⟩,
   ⟨0x040, 0x041, .operand, some .alu0⟩, ⟨0x042, 0x043, .result, some .alu0⟩, ⟨0x044, 0x075, .trigger, some .alu0⟩,
   ⟨0x080, 0x081, .operand, some .alu1⟩, ⟨0x082, 0x083, .result, some .alu1⟩, ⟨0x084, 0x0B5, .trigger, some .alu1⟩] ++
  [⟨0x0C0, 0x0C1, .operand, some .mdu⟩, ⟨0x0C2, 0x0C3, .result, some .mdu⟩, ⟨0x0C4, 0x0CD, .trigger, some .mdu⟩,
   ⟨0x0E0, 0x0E1, .operand, some .prd⟩, ⟨0x0E2, 0x0E2, .result, some .prd⟩, ⟨0x0E3, 0x0EB, .trigger, some .prd⟩,
   ⟨0x0F0, 0x0F0, .operand, some .crf⟩, ⟨0x0F1, 0x0F1, .result, some .crf⟩, ⟨0x0F2, 0x0F3, .trigger, some .crf⟩,
   ⟨0x100, 0x102, .operand, some .fpa⟩, ⟨0x103, 0x104, .result, some .fpa⟩, ⟨0x105, 0x12B, .trigger, some .fpa⟩,
   ⟨0x140, 0x140, .operand, some .sfu⟩, ⟨0x141, 0x141, .result, some .sfu⟩, ⟨0x142, 0x14F, .trigger, some .sfu⟩] ++
  [⟨0x160, 0x162, .operand, some .lsu⟩, ⟨0x163, 0x163, .result, some .lsu⟩, ⟨0x164, 0x175, .trigger, some .lsu⟩,
   ⟨0x1A0, 0x1A3, .operand, some .atm⟩, ⟨0x1A4, 0x1A4, .result, some .atm⟩, ⟨0x1A5, 0x1BE, .trigger, some .atm⟩,
   ⟨0x1C0, 0x1C2, .operand, some .sem⟩, ⟨0x1C3, 0x1C3, .result, some .sem⟩, ⟨0x1C4, 0x1CA, .trigger, some .sem⟩,
   ⟨0x1E0, 0x1E3, .operand, some .net⟩, ⟨0x1E4, 0x1E4, .result, some .net⟩, ⟨0x1E5, 0x1EF, .trigger, some .net⟩,
   ⟨0x200, 0x201, .operand, some .dma⟩, ⟨0x202, 0x202, .result, some .dma⟩, ⟨0x203, 0x207, .trigger, some .dma⟩] ++
  [⟨0x220, 0x220, .result, none⟩, ⟨0x221, 0x221, .trigger, none⟩, ⟨0x222, 0x222, .result, none⟩,
   ⟨0x223, 0x223, .trigger, none⟩, ⟨0x224, 0x224, .result, none⟩, ⟨0x225, 0x225, .trigger, none⟩,
   ⟨0x226, 0x226, .result, none⟩, ⟨0x227, 0x227, .trigger, none⟩,
   ⟨0x240, 0x241, .operand, some .vec⟩, ⟨0x242, 0x243, .result, some .vec⟩, ⟨0x244, 0x275, .trigger, some .vec⟩,
   ⟨0x2C0, 0x2C0, .operand, some .sys⟩, ⟨0x2C1, 0x2C1, .result, some .sys⟩, ⟨0x2C2, 0x2C6, .trigger, some .sys⟩,
   ⟨0x300, 0x3FF, .register, none⟩]

/-- The stretch a port id lies in. -/
def portRange (id : Nat) : Option PortRange :=
  portMap.find? fun r => decide (r.lo ≤ id ∧ id ≤ r.hi)

/-- The kind of a port; none: unassigned (R40). -/
def portKind (id : Nat) : Option PortKind := (portRange id).map PortRange.kind

/-- The unit a port belongs to. -/
def portUnit (id : Nat) : Option UnitId := (portRange id).bind PortRange.unit

/-- May be read as a source (R19). -/
def PortKind.readable (k : PortKind) : Bool :=
  match k with
  | .register | .constant | .result => true
  | .operand | .trigger => false

/-- May be written (R19). -/
def PortKind.writable (k : PortKind) : Bool :=
  match k with
  | .register | .operand | .trigger => true
  | .constant | .result => false

/-! ## Operations by trigger port -/

/-- The alu operations at offsets +0x04 to +0x35 of R41, in ascending order. -/
noncomputable def aluOps : List (Alu → Word → Instr) :=
  [
   .aluMov, .aluAdd, .aluSub, .aluAdds, .aluSubs, .aluAddus, .aluSubus, .aluAddw, .aluSubw, .aluNeg,
   .aluAbs, .aluMin, .aluMax, .aluMinu, .aluMaxu, .aluAnd, .aluOr, .aluXor, .aluAndn, .aluOrn, .aluNot,
   .aluShl, .aluShr, .aluSar, .aluRol, .aluRor, .aluShlw, .aluShrw, .aluSarw, .aluEq, .aluNe, .aluLt,
   .aluLe, .aluLtu, .aluLeu, .aluClz, .aluCtz, .aluPopc, .aluBswap, .aluSxb, .aluSxh, .aluSxw, .aluZxb,
   .aluZxh, .aluZxw, .aluExt, .aluExtu, .aluIns, .aluSel, .aluLea]

/-- The cu triggers from port 0x003 (R40); g is the branch condition of brl and brk (R288). -/
noncomputable def cuOps (g : Bool) : List (Word → Instr) :=
  [
   .cuJmp, .cuBr, .cuCall, .cuRet, .cuBrl g, .cuBrk g, .cuStart, .cuHalt, .cuYield, .cuMeet, .cuTrymeet,
   .cuTload, .cuScall, .cuBkpt]

/-- The mdu triggers from port 0x0C4 (R40 to R43). -/
noncomputable def mduOps : List (Word → Instr) :=
  [
   .mduMul, .mduMulh, .mduMulhu, .mduMulhsu, .mduMulw, .mduMac, .mduDiv, .mduDivu, .mduDivw, .mduDivuw]

/-- The prd triggers from port 0x0E3 (R40 to R43). -/
noncomputable def prdOps : List (Word → Instr) :=
  [
   .prdAnd, .prdOr, .prdXor, .prdAndn, .prdOrn, .prdNot, .prdNz, .prdEz, .prdBit]

/-- The crf triggers from port 0x0F2 (R40 to R43). -/
noncomputable def crfOps : List (Word → Instr) :=
  [
   .crfRd, .crfWr]

/-- The fpa triggers from port 0x105 (R40 to R43). -/
noncomputable def fpaOps : List (Word → Instr) :=
  [
   .fpaAddd, .fpaSubd, .fpaMuld, .fpaFmad, .fpaFmsd, .fpaFnmad, .fpaDivd, .fpaSqrtd, .fpaMind, .fpaMaxd,
   .fpaAbsd, .fpaNegd, .fpaCeqd, .fpaCltd, .fpaCled, .fpaCund, .fpaClassd, .fpaRintd, .fpaAddf, .fpaSubf,
   .fpaMulf, .fpaFmaf, .fpaMinf, .fpaMaxf, .fpaCeqf, .fpaCltf, .fpaClef, .fpaCvtfd, .fpaCvtdf, .fpaCvtdl,
   .fpaCvtld, .fpaCvtdlu, .fpaCvtlud, .fpaCvtfw, .fpaCvtwf, .fpaCvtdh, .fpaCvthd, .fpaCvtdb, .fpaCvtbd]

/-- The sfu triggers from port 0x142 (R40 to R43). -/
noncomputable def sfuOps : List (Word → Instr) :=
  [
   .sfuRcp, .sfuRsqrt, .sfuSqrt, .sfuExp2, .sfuExp, .sfuLog2, .sfuLn, .sfuSinpi, .sfuCospi, .sfuTanh,
   .sfuSigm, .sfuGelu, .sfuSilu, .sfuErf]

/-- The lsu triggers from port 0x164 (R40 to R43). -/
noncomputable def lsuOps : List (Word → Instr) :=
  [
   .lsuLdb, .lsuLdbu, .lsuLdh, .lsuLdhu, .lsuLdw, .lsuLdwu, .lsuLdd, .lsuLdl, .lsuStb, .lsuSth, .lsuStw,
   .lsuStd, .lsuStl, .lsuLdacq, .lsuStrel, .lsuFence, .lsuPf, .lsuBlk]

/-- The atm triggers from port 0x1A5 (R40 to R43). -/
noncomputable def atmOps : List (Word → Instr) :=
  [
   .atmAddw, .atmAddd, .atmAddf, .atmMinw, .atmMind, .atmMinuw, .atmMinud, .atmMaxw, .atmMaxd, .atmMaxuw,
   .atmMaxud, .atmAndw, .atmAndd, .atmOrw, .atmOrd, .atmXorw, .atmXord, .atmSwpw, .atmSwpd, .atmCasw,
   .atmCasd, .atmLrw, .atmLrd, .atmScw, .atmScd, .atmWrs]

/-- The sem triggers from port 0x1C4 (R40 to R43). -/
noncomputable def semOps : List (Word → Instr) :=
  [
   .semSig, .semWait, .semTrywait, .semRd, .semSet, .semArm, .semDisarm]

/-- net.chsend by its operation code (R263); the reserved codes are refused by the checks that
SEND makes first (R265, order 1). -/
noncomputable def netChsend (op : Nat) : Word → Instr :=
  match op with
  | 1 => .chFree
  | 2 => .chConf
  | 3 => .stConf
  | 4 => .chQuery
  | _ => .chSend

/-- The net triggers from port 0x1E5 (R42); op is net.c[2:0], which names the operation of chsend. -/
noncomputable def netOps (op : Nat) : List (Word → Instr) :=
  [
   .netPut, .netGet, .netSend, .netRecv, .netTryrecv, .netArrive, .netBarwait, .netTrybarwait, .netGo,
   netChsend op, .netIpi]

/-- The dma triggers from port 0x203 (R40 to R43). -/
noncomputable def dmaOps : List (Word → Instr) :=
  [
   .dmaCopy, .dmaBind, .dmaUnbind, .dmaQuery, .dmaAbort]

/-- The vec triggers from port 0x244 (R40 to R43). -/
noncomputable def vecOps : List (Word → Instr) :=
  [
   .vecShape, .vecEdge, .vecLd, .vecSt, .vecGath, .vecScat, .vecAdd, .vecSub, .vecMul, .vecFma, .vecFms,
   .vecFnma, .vecMin, .vecMax, .vecAbs, .vecNeg, .vecAnd, .vecOr, .vecXor, .vecShl, .vecShr, .vecSar,
   .vecCeq, .vecCne, .vecClt, .vecCle, .vecSel, .vecCvt, .vecCvtsr, .vecBcrow, .vecBccol, .vecBcs,
   .vecRsum, .vecRmax, .vecRmin, .vecRcp, .vecRsqrt, .vecExp2, .vecMov, .vecTocr, .vecFromcr, .vecAdds,
   .vecSubs, .vecClamp, .vecIota, .vecMskand, .vecMskor, .vecMsknot, .vecRotr, .vecRel]

/-- The sys triggers from port 0x2C2 (R40 to R43). -/
noncomputable def sysOps : List (Word → Instr) :=
  [
   .sysEret, .sysRdsr, .sysWrsr, .sysXrd, .sysXwr]
/-! An instruction beyond the 244th constructor cannot be built by compiled code (a limit of Lean's runtime), so the
definitions that build operations are marked noncomputable; the kernel evaluates them as any other. The machine
itself fires an operation through the same table of ports (Machine/Fire.lean), and a law ties the two together. -/

/-- The operation at offset i of a list of triggers, on value v. -/
noncomputable def opAt (l : List (Word → Instr)) (i : Nat) (v : Word) : Option Instr := l[i]?.map fun f => f v

/-- The operation that a move of v to a trigger port fires (R40 to R43). g is the branch condition of the slot's
guard (R288); chop is net.c[2:0] (R264). -/
noncomputable def decodeTrigger (port : Nat) (v : Word) (g : Bool) (chop : Nat) : Option Instr :=
  if port < 0x020 then (if 0x003 ≤ port then opAt (cuOps g) (port - 0x003) v else none)
  else if port < 0x080 then (if 0x044 ≤ port then aluOps[port - 0x044]?.map fun f => f .alu0 v else none)
  else if port < 0x0C0 then (if 0x084 ≤ port then aluOps[port - 0x084]?.map fun f => f .alu1 v else none)
  else if port < 0x0E0 then (if 0x0C4 ≤ port then opAt mduOps (port - 0x0C4) v else none)
  else if port < 0x0F0 then (if 0x0E3 ≤ port then opAt prdOps (port - 0x0E3) v else none)
  else if port < 0x100 then (if 0x0F2 ≤ port then opAt crfOps (port - 0x0F2) v else none)
  else if port < 0x140 then (if 0x105 ≤ port then opAt fpaOps (port - 0x105) v else none)
  else if port < 0x160 then (if 0x142 ≤ port then opAt sfuOps (port - 0x142) v else none)
  else if port < 0x1A0 then (if 0x164 ≤ port then opAt lsuOps (port - 0x164) v else none)
  else if port < 0x1C0 then (if 0x1A5 ≤ port then opAt atmOps (port - 0x1A5) v else none)
  else if port < 0x1E0 then (if 0x1C4 ≤ port then opAt semOps (port - 0x1C4) v else none)
  else if port < 0x200 then (if 0x1E5 ≤ port then opAt (netOps chop) (port - 0x1E5) v else none)
  else if port < 0x220 then (if 0x203 ≤ port then opAt dmaOps (port - 0x203) v else none)
  else if port < 0x240 then
    match port with
    | 0x221 => some (.stkW 0 v)
    | 0x223 => some (.stkW 1 v)
    | 0x225 => some (.stkW 2 v)
    | 0x227 => some (.stkW 3 v)
    | _ => none
  else if port < 0x2C0 then (if 0x244 ≤ port then opAt vecOps (port - 0x244) v else none)
  else if port < 0x300 then (if 0x2C2 ≤ port then opAt sysOps (port - 0x2C2) v else none)
  else none

/-- The matrix commands by opcode, in the order of R201; t is the tile whose queue holds the command. -/
def decodeMx (opc t : Nat) : Option Instr :=
  match opc with
  | 0x00 => some (.mxNop t)
  | 0x01 => some (.mxClaim t)
  | 0x02 => some (.mxRelease t)
  | 0x03 => some (.mxLoad t)
  | 0x04 => some (.mxScale t)
  | 0x05 => some (.mxMma t)
  | 0x06 => some (.mxMmat t)
  | 0x07 => some (.mxZero t)
  | 0x08 => some (.mxStore t)
  | 0x09 => some (.mxFence t)
  | _ => none

/-! ## The encoder -/

/-- What an instruction is written down as: parcels of the stream, a move to a trigger port, or a matrix command's
opcode. -/
inductive Code where
  | parcels (ps : List (BitVec 16))
  | move (port : Nat) (v : Word) (g : Bool) (chop : Nat)
  | command (opc t : Nat)
deriving DecidableEq, Repr

/-- Sixteen parcels of a literal word, parcel j holding bits [16j+15:16j] (R32). -/
def wordParcels (n : Nat) (w : Nat) : List (BitVec 16) :=
  match n with
  | 0 => []
  | n + 1 => BitVec.ofNat 16 w :: wordParcels n (w / 65536)

/-- The instruction a code stands for. -/
noncomputable def decodeCode (c : Code) : Option Instr :=
  match c with
  | .parcels ps =>
    match decodeParcels ps with
    | .ok i => some i
    | .error _ => none
  | .move port v g chop => decodeTrigger port v g chop
  | .command opc t => decodeMx opc t

/-- The code of an instruction; none for an event, which has no encoding, and for a repetition or an annulled issue,
which are issues of a parcel already fetched. -/
def encode (i : Instr) : Option Code :=
  match i with
  | .tParcel index nm1 g => some (.parcels [0#1 ++ index ++ nm1 ++ g])
  | .iParcel chunk => some (.parcels [0b10#2 ++ chunk])
  | .idle arg => some (.parcels [0xC0#8 ++ arg])
  | .inline w => some (.parcels (0xC100#16 :: wordParcels 16 w.toNat))
  | .bank n => some (.parcels [0xC2#8 ++ n])
  | .mxNop t => some (.command 0x00 t)
  | .mxClaim t => some (.command 0x01 t)
  | .mxRelease t => some (.command 0x02 t)
  | .mxLoad t => some (.command 0x03 t)
  | .mxScale t => some (.command 0x04 t)
  | .mxMma t => some (.command 0x05 t)
  | .mxMmat t => some (.command 0x06 t)
  | .mxZero t => some (.command 0x07 t)
  | .mxStore t => some (.command 0x08 t)
  | .mxFence t => some (.command 0x09 t)
  | .cuJmp v => some (.move 0x003 v false 0)
  | .cuBr v => some (.move 0x004 v false 0)
  | .cuCall v => some (.move 0x005 v false 0)
  | .cuRet v => some (.move 0x006 v false 0)
  | .cuBrl g v => some (.move 0x007 v g 0)
  | .cuBrk g v => some (.move 0x008 v g 0)
  | .cuStart v => some (.move 0x009 v false 0)
  | .cuHalt v => some (.move 0x00A v false 0)
  | .cuYield v => some (.move 0x00B v false 0)
  | .cuMeet v => some (.move 0x00C v false 0)
  | .cuTrymeet v => some (.move 0x00D v false 0)
  | .cuTload v => some (.move 0x00E v false 0)
  | .cuScall v => some (.move 0x00F v false 0)
  | .cuBkpt v => some (.move 0x010 v false 0)
  | .crfRd v => some (.move 0x0F2 v false 0)
  | .crfWr v => some (.move 0x0F3 v false 0)
  | .aluMov u v => some (.move (u.base + 0x04) v false 0)
  | .aluAdd u v => some (.move (u.base + 0x05) v false 0)
  | .aluSub u v => some (.move (u.base + 0x06) v false 0)
  | .aluAdds u v => some (.move (u.base + 0x07) v false 0)
  | .aluSubs u v => some (.move (u.base + 0x08) v false 0)
  | .aluAddus u v => some (.move (u.base + 0x09) v false 0)
  | .aluSubus u v => some (.move (u.base + 0x0A) v false 0)
  | .aluAddw u v => some (.move (u.base + 0x0B) v false 0)
  | .aluSubw u v => some (.move (u.base + 0x0C) v false 0)
  | .aluNeg u v => some (.move (u.base + 0x0D) v false 0)
  | .aluAbs u v => some (.move (u.base + 0x0E) v false 0)
  | .aluMin u v => some (.move (u.base + 0x0F) v false 0)
  | .aluMax u v => some (.move (u.base + 0x10) v false 0)
  | .aluMinu u v => some (.move (u.base + 0x11) v false 0)
  | .aluMaxu u v => some (.move (u.base + 0x12) v false 0)
  | .aluAnd u v => some (.move (u.base + 0x13) v false 0)
  | .aluOr u v => some (.move (u.base + 0x14) v false 0)
  | .aluXor u v => some (.move (u.base + 0x15) v false 0)
  | .aluAndn u v => some (.move (u.base + 0x16) v false 0)
  | .aluOrn u v => some (.move (u.base + 0x17) v false 0)
  | .aluNot u v => some (.move (u.base + 0x18) v false 0)
  | .aluShl u v => some (.move (u.base + 0x19) v false 0)
  | .aluShr u v => some (.move (u.base + 0x1A) v false 0)
  | .aluSar u v => some (.move (u.base + 0x1B) v false 0)
  | .aluRol u v => some (.move (u.base + 0x1C) v false 0)
  | .aluRor u v => some (.move (u.base + 0x1D) v false 0)
  | .aluShlw u v => some (.move (u.base + 0x1E) v false 0)
  | .aluShrw u v => some (.move (u.base + 0x1F) v false 0)
  | .aluSarw u v => some (.move (u.base + 0x20) v false 0)
  | .aluEq u v => some (.move (u.base + 0x21) v false 0)
  | .aluNe u v => some (.move (u.base + 0x22) v false 0)
  | .aluLt u v => some (.move (u.base + 0x23) v false 0)
  | .aluLe u v => some (.move (u.base + 0x24) v false 0)
  | .aluLtu u v => some (.move (u.base + 0x25) v false 0)
  | .aluLeu u v => some (.move (u.base + 0x26) v false 0)
  | .aluClz u v => some (.move (u.base + 0x27) v false 0)
  | .aluCtz u v => some (.move (u.base + 0x28) v false 0)
  | .aluPopc u v => some (.move (u.base + 0x29) v false 0)
  | .aluBswap u v => some (.move (u.base + 0x2A) v false 0)
  | .aluSxb u v => some (.move (u.base + 0x2B) v false 0)
  | .aluSxh u v => some (.move (u.base + 0x2C) v false 0)
  | .aluSxw u v => some (.move (u.base + 0x2D) v false 0)
  | .aluZxb u v => some (.move (u.base + 0x2E) v false 0)
  | .aluZxh u v => some (.move (u.base + 0x2F) v false 0)
  | .aluZxw u v => some (.move (u.base + 0x30) v false 0)
  | .aluExt u v => some (.move (u.base + 0x31) v false 0)
  | .aluExtu u v => some (.move (u.base + 0x32) v false 0)
  | .aluIns u v => some (.move (u.base + 0x33) v false 0)
  | .aluSel u v => some (.move (u.base + 0x34) v false 0)
  | .aluLea u v => some (.move (u.base + 0x35) v false 0)
  | .prdAnd v => some (.move 0x0E3 v false 0)
  | .prdOr v => some (.move 0x0E4 v false 0)
  | .prdXor v => some (.move 0x0E5 v false 0)
  | .prdAndn v => some (.move 0x0E6 v false 0)
  | .prdOrn v => some (.move 0x0E7 v false 0)
  | .prdNot v => some (.move 0x0E8 v false 0)
  | .prdNz v => some (.move 0x0E9 v false 0)
  | .prdEz v => some (.move 0x0EA v false 0)
  | .prdBit v => some (.move 0x0EB v false 0)
  | .mduMul v => some (.move 0x0C4 v false 0)
  | .mduMulh v => some (.move 0x0C5 v false 0)
  | .mduMulhu v => some (.move 0x0C6 v false 0)
  | .mduMulhsu v => some (.move 0x0C7 v false 0)
  | .mduMulw v => some (.move 0x0C8 v false 0)
  | .mduMac v => some (.move 0x0C9 v false 0)
  | .mduDiv v => some (.move 0x0CA v false 0)
  | .mduDivu v => some (.move 0x0CB v false 0)
  | .mduDivw v => some (.move 0x0CC v false 0)
  | .mduDivuw v => some (.move 0x0CD v false 0)
  | .fpaAddd v => some (.move 0x105 v false 0)
  | .fpaSubd v => some (.move 0x106 v false 0)
  | .fpaMuld v => some (.move 0x107 v false 0)
  | .fpaFmad v => some (.move 0x108 v false 0)
  | .fpaFmsd v => some (.move 0x109 v false 0)
  | .fpaFnmad v => some (.move 0x10A v false 0)
  | .fpaDivd v => some (.move 0x10B v false 0)
  | .fpaSqrtd v => some (.move 0x10C v false 0)
  | .fpaMind v => some (.move 0x10D v false 0)
  | .fpaMaxd v => some (.move 0x10E v false 0)
  | .fpaAbsd v => some (.move 0x10F v false 0)
  | .fpaNegd v => some (.move 0x110 v false 0)
  | .fpaCeqd v => some (.move 0x111 v false 0)
  | .fpaCltd v => some (.move 0x112 v false 0)
  | .fpaCled v => some (.move 0x113 v false 0)
  | .fpaCund v => some (.move 0x114 v false 0)
  | .fpaClassd v => some (.move 0x115 v false 0)
  | .fpaRintd v => some (.move 0x116 v false 0)
  | .fpaAddf v => some (.move 0x117 v false 0)
  | .fpaSubf v => some (.move 0x118 v false 0)
  | .fpaMulf v => some (.move 0x119 v false 0)
  | .fpaFmaf v => some (.move 0x11A v false 0)
  | .fpaMinf v => some (.move 0x11B v false 0)
  | .fpaMaxf v => some (.move 0x11C v false 0)
  | .fpaCeqf v => some (.move 0x11D v false 0)
  | .fpaCltf v => some (.move 0x11E v false 0)
  | .fpaClef v => some (.move 0x11F v false 0)
  | .fpaCvtfd v => some (.move 0x120 v false 0)
  | .fpaCvtdf v => some (.move 0x121 v false 0)
  | .fpaCvtdl v => some (.move 0x122 v false 0)
  | .fpaCvtld v => some (.move 0x123 v false 0)
  | .fpaCvtdlu v => some (.move 0x124 v false 0)
  | .fpaCvtlud v => some (.move 0x125 v false 0)
  | .fpaCvtfw v => some (.move 0x126 v false 0)
  | .fpaCvtwf v => some (.move 0x127 v false 0)
  | .fpaCvtdh v => some (.move 0x128 v false 0)
  | .fpaCvthd v => some (.move 0x129 v false 0)
  | .fpaCvtdb v => some (.move 0x12A v false 0)
  | .fpaCvtbd v => some (.move 0x12B v false 0)
  | .sfuRcp v => some (.move 0x142 v false 0)
  | .sfuRsqrt v => some (.move 0x143 v false 0)
  | .sfuSqrt v => some (.move 0x144 v false 0)
  | .sfuExp2 v => some (.move 0x145 v false 0)
  | .sfuExp v => some (.move 0x146 v false 0)
  | .sfuLog2 v => some (.move 0x147 v false 0)
  | .sfuLn v => some (.move 0x148 v false 0)
  | .sfuSinpi v => some (.move 0x149 v false 0)
  | .sfuCospi v => some (.move 0x14A v false 0)
  | .sfuTanh v => some (.move 0x14B v false 0)
  | .sfuSigm v => some (.move 0x14C v false 0)
  | .sfuGelu v => some (.move 0x14D v false 0)
  | .sfuSilu v => some (.move 0x14E v false 0)
  | .sfuErf v => some (.move 0x14F v false 0)
  | .lsuLdb v => some (.move 0x164 v false 0)
  | .lsuLdbu v => some (.move 0x165 v false 0)
  | .lsuLdh v => some (.move 0x166 v false 0)
  | .lsuLdhu v => some (.move 0x167 v false 0)
  | .lsuLdw v => some (.move 0x168 v false 0)
  | .lsuLdwu v => some (.move 0x169 v false 0)
  | .lsuLdd v => some (.move 0x16A v false 0)
  | .lsuLdl v => some (.move 0x16B v false 0)
  | .lsuStb v => some (.move 0x16C v false 0)
  | .lsuSth v => some (.move 0x16D v false 0)
  | .lsuStw v => some (.move 0x16E v false 0)
  | .lsuStd v => some (.move 0x16F v false 0)
  | .lsuStl v => some (.move 0x170 v false 0)
  | .lsuLdacq v => some (.move 0x171 v false 0)
  | .lsuStrel v => some (.move 0x172 v false 0)
  | .lsuFence v => some (.move 0x173 v false 0)
  | .lsuPf v => some (.move 0x174 v false 0)
  | .lsuBlk v => some (.move 0x175 v false 0)
  | .atmAddw v => some (.move 0x1A5 v false 0)
  | .atmAddd v => some (.move 0x1A6 v false 0)
  | .atmAddf v => some (.move 0x1A7 v false 0)
  | .atmMinw v => some (.move 0x1A8 v false 0)
  | .atmMind v => some (.move 0x1A9 v false 0)
  | .atmMinuw v => some (.move 0x1AA v false 0)
  | .atmMinud v => some (.move 0x1AB v false 0)
  | .atmMaxw v => some (.move 0x1AC v false 0)
  | .atmMaxd v => some (.move 0x1AD v false 0)
  | .atmMaxuw v => some (.move 0x1AE v false 0)
  | .atmMaxud v => some (.move 0x1AF v false 0)
  | .atmAndw v => some (.move 0x1B0 v false 0)
  | .atmAndd v => some (.move 0x1B1 v false 0)
  | .atmOrw v => some (.move 0x1B2 v false 0)
  | .atmOrd v => some (.move 0x1B3 v false 0)
  | .atmXorw v => some (.move 0x1B4 v false 0)
  | .atmXord v => some (.move 0x1B5 v false 0)
  | .atmSwpw v => some (.move 0x1B6 v false 0)
  | .atmSwpd v => some (.move 0x1B7 v false 0)
  | .atmCasw v => some (.move 0x1B8 v false 0)
  | .atmCasd v => some (.move 0x1B9 v false 0)
  | .atmLrw v => some (.move 0x1BA v false 0)
  | .atmLrd v => some (.move 0x1BB v false 0)
  | .atmScw v => some (.move 0x1BC v false 0)
  | .atmScd v => some (.move 0x1BD v false 0)
  | .atmWrs v => some (.move 0x1BE v false 0)
  | .semSig v => some (.move 0x1C4 v false 0)
  | .semWait v => some (.move 0x1C5 v false 0)
  | .semTrywait v => some (.move 0x1C6 v false 0)
  | .semRd v => some (.move 0x1C7 v false 0)
  | .semSet v => some (.move 0x1C8 v false 0)
  | .semArm v => some (.move 0x1C9 v false 0)
  | .semDisarm v => some (.move 0x1CA v false 0)
  | .netPut v => some (.move 0x1E5 v false 0)
  | .netGet v => some (.move 0x1E6 v false 0)
  | .netSend v => some (.move 0x1E7 v false 0)
  | .netRecv v => some (.move 0x1E8 v false 0)
  | .netTryrecv v => some (.move 0x1E9 v false 0)
  | .netGo v => some (.move 0x1ED v false 0)
  | .netIpi v => some (.move 0x1EF v false 0)
  | .netArrive v => some (.move 0x1EA v false 0)
  | .netBarwait v => some (.move 0x1EB v false 0)
  | .netTrybarwait v => some (.move 0x1EC v false 0)
  | .chSend v => some (.move 0x1EE v false 0)
  | .chFree v => some (.move 0x1EE v false 1)
  | .chConf v => some (.move 0x1EE v false 2)
  | .stConf v => some (.move 0x1EE v false 3)
  | .chQuery v => some (.move 0x1EE v false 4)
  | .dmaCopy v => some (.move 0x203 v false 0)
  | .dmaBind v => some (.move 0x204 v false 0)
  | .dmaUnbind v => some (.move 0x205 v false 0)
  | .dmaQuery v => some (.move 0x206 v false 0)
  | .dmaAbort v => some (.move 0x207 v false 0)
  | .stkW k v => some (.move (0x221 + 2 * k.val) v false 0)
  | .vecShape v => some (.move 0x244 v false 0)
  | .vecRel v => some (.move 0x275 v false 0)
  | .vecEdge v => some (.move 0x245 v false 0)
  | .vecLd v => some (.move 0x246 v false 0)
  | .vecSt v => some (.move 0x247 v false 0)
  | .vecGath v => some (.move 0x248 v false 0)
  | .vecScat v => some (.move 0x249 v false 0)
  | .vecAdd v => some (.move 0x24A v false 0)
  | .vecSub v => some (.move 0x24B v false 0)
  | .vecMul v => some (.move 0x24C v false 0)
  | .vecFma v => some (.move 0x24D v false 0)
  | .vecFms v => some (.move 0x24E v false 0)
  | .vecFnma v => some (.move 0x24F v false 0)
  | .vecMin v => some (.move 0x250 v false 0)
  | .vecMax v => some (.move 0x251 v false 0)
  | .vecAbs v => some (.move 0x252 v false 0)
  | .vecNeg v => some (.move 0x253 v false 0)
  | .vecAnd v => some (.move 0x254 v false 0)
  | .vecOr v => some (.move 0x255 v false 0)
  | .vecXor v => some (.move 0x256 v false 0)
  | .vecShl v => some (.move 0x257 v false 0)
  | .vecShr v => some (.move 0x258 v false 0)
  | .vecSar v => some (.move 0x259 v false 0)
  | .vecCeq v => some (.move 0x25A v false 0)
  | .vecCne v => some (.move 0x25B v false 0)
  | .vecClt v => some (.move 0x25C v false 0)
  | .vecCle v => some (.move 0x25D v false 0)
  | .vecSel v => some (.move 0x25E v false 0)
  | .vecCvt v => some (.move 0x25F v false 0)
  | .vecCvtsr v => some (.move 0x260 v false 0)
  | .vecBcrow v => some (.move 0x261 v false 0)
  | .vecBccol v => some (.move 0x262 v false 0)
  | .vecBcs v => some (.move 0x263 v false 0)
  | .vecRsum v => some (.move 0x264 v false 0)
  | .vecRmax v => some (.move 0x265 v false 0)
  | .vecRmin v => some (.move 0x266 v false 0)
  | .vecRcp v => some (.move 0x267 v false 0)
  | .vecRsqrt v => some (.move 0x268 v false 0)
  | .vecExp2 v => some (.move 0x269 v false 0)
  | .vecMov v => some (.move 0x26A v false 0)
  | .vecTocr v => some (.move 0x26B v false 0)
  | .vecFromcr v => some (.move 0x26C v false 0)
  | .vecAdds v => some (.move 0x26D v false 0)
  | .vecSubs v => some (.move 0x26E v false 0)
  | .vecClamp v => some (.move 0x26F v false 0)
  | .vecIota v => some (.move 0x270 v false 0)
  | .vecMskand v => some (.move 0x271 v false 0)
  | .vecMskor v => some (.move 0x272 v false 0)
  | .vecMsknot v => some (.move 0x273 v false 0)
  | .vecRotr v => some (.move 0x274 v false 0)
  | .sysEret v => some (.move 0x2C2 v false 0)
  | .sysRdsr v => some (.move 0x2C3 v false 0)
  | .sysWrsr v => some (.move 0x2C4 v false 0)
  | .sysXrd v => some (.move 0x2C5 v false 0)
  | .sysXwr v => some (.move 0x2C6 v false 0)
  | _ => none

/-- The parcels that nbits of a row's word stand for, zeros above them up to the longest instruction (17 parcels). -/
def tableParcels (nbits w : Nat) : List (BitVec 16) := wordParcels 17 (w % 2 ^ nbits)

/-- The instruction the decoder reads from a row's word. -/
def decodeTableWord (nbits w : Nat) : Option Instr :=
  match decodeParcels (tableParcels nbits w) with
  | .ok i => some i
  | .error _ => none

end Sys2Proof
end

