-- ==== Sys2Proof/Machine/State.lean ====
section
/-! DEFINITION. The state of the device as plain data: everything the manual names, from a strand's latches to the
host's answers. Reset values the manual does not give are 0 or empty (log entry 2). -/
namespace Sys2Proof.Machine

/-! ## A strand -/

/-- A result of a unit on its way to, or standing in, the strand's result latches (R22, R23, R137). -/
structure Res where
  unit : UnitId
  y : Option Word
  z : Option Word
  /-- the issue of the bank at which it is due; none: not yet delivered -/
  due : Option Nat
  /-- the tile cycle from which it may be delivered (R432) -/
  ready : Nat
  /-- the value is still on its way (memory, divider, expansion) -/
  wait : Bool
  /-- data-locked whatever MODE says: the result of a sem.wait (R23, R333) -/
  lock : Bool
deriving DecidableEq, Repr

/-- One bank of unit latches (R349, R363). -/
structure Bank where
  /-- issues made with this bank selected (log entry 9) -/
  clock : Nat
  /-- operand latches by port id; unlisted 0 (R134) -/
  ops : Map Word
  /-- port id and value of each unit's latest trigger, by unit (R363) -/
  trig : List (UnitId × Nat × Word)
  res : List Res
  /-- the result ports that are full -/
  full : List Nat
deriving DecidableEq, Repr

def Bank.reset : Bank := { clock := 0, ops := [], trig := [], res := [], full := [] }

/-- Delay issues outstanding (R289, R293). -/
structure Delay where
  cnt : Nat
  annul : Bool
  taken : Bool
  target : BitVec 24
deriving DecidableEq, Repr

/-- A sem.wait being held: what it waits for and the change that met it (R337). -/
structure SemHold where
  sem : Nat
  thr : Nat
  limit : Nat
  met : Option (Nat × Bool)
  /-- the limit has passed before the threshold was met -/
  tout : Bool
deriving DecidableEq, Repr

/-- A word held (R25): when it first attempted to issue, its place among all first attempts, and the port it names
for the watchdog (R353). -/
structure Hold where
  since : Nat
  /-- TIME at the word's first attempt to issue (R335) -/
  first : Nat
  /-- the word has been held, at its first attempt or since -/
  held : Bool
  seq : Nat
  port : Nat
  sem : Option SemHold
  /-- the word holds a net.recv (R248); a net.barwait whose phase was not yet released (R340) -/
  recv : Bool
  bar : Bool
  /-- the trigger ports its enabled moves name -/
  want : List Nat
  /-- nothing holds it any more, and it has not issued yet -/
  clear : Bool
deriving DecidableEq, Repr

/-- What holds a strand after its word has proceeded. -/
inductive Block where
  /-- cu.tload n until the overlay is resident (R300) -/
  | tload (n : Nat)
  /-- atm.wrs since a time, with a limit (R234) -/
  | wrs (tile granule since limit : Nat)
  /-- a migration offered to its target, neither accepted nor refused yet (R253) -/
  | going (v : Word)
deriving DecidableEq, Repr

/-- The expanded operations (R109, R162). -/
inductive ExpOp where
  | divd | sqrtd | blk
deriving DecidableEq, Repr

/-- An expanded operation under way on its copies (R109, R162). -/
structure Exp where
  id : Nat
  op : ExpOp
  v : Word
  a : Word
  b : Word
  c : Word
  step : Nat
  trap : Bool
  /-- the issue address and repetition of the triggering word, and the delay state that ended with it -/
  ia : BitVec 24
  rep : Nat
  last : Option Delay
  /-- the expansion was interrupted: fetch goes on past the word at SPC when it ends -/
  resumed : Bool
  /-- its step has failed: the inner cause and SINFO of the trap 0x37 that is to be taken (R345) -/
  fault : Option (Nat × Word)
deriving DecidableEq, Repr

/-- A move to a trigger port, latched (R165): the port, its value, the branch condition and net.c[2:0]. -/
structure Fired where
  port : Nat
  v : Word
  g : Bool
  chop : Nat
deriving DecidableEq, Repr

/-- An operation that failed its checks after its word proceeded: its trap, or a re-fire still to come (R165). -/
structure Latched where
  op : Fired
  cause : Nat
  info : Word
  /-- its word fired a cu trigger, or was one of a repeated parcel (R252) -/
  wgo : Bool
deriving DecidableEq, Repr

/-- The kinds of lsu request to a global address or another tile of the sorus (R85, R131). -/
inductive LsuKind where
  | load (bytes : Nat) (signed : Bool)
  | store (bytes : Nat) (data : Word)
  | ldl (near : Nat)
  | stl (line : List Byte)
  | pf
deriving DecidableEq, Repr

/-- An entry of the request window (R85). -/
structure WinEnt where
  id : Nat
  kind : LsuKind
  far : Word
  trap : Bool
  /-- 0 sent, 1 the faulting request, 2 dropped -/
  state : Nat
  after : List Nat
deriving DecidableEq, Repr

/-- A fence or acquire in force: later accesses of these kinds within the scope wait for these operations (R329). -/
structure Order where
  qld : Bool
  qst : Bool
  scope : Nat
  ids : List Nat
  /-- an acquire: every later access waits, those of pool registers and semaphores too (R330) -/
  acq : Bool
deriving DecidableEq, Repr

/-- A reservation (R233). -/
structure Resv where
  tile : Nat
  granule : Nat
deriving DecidableEq, Repr

/-- What a repeated parcel keeps between its issues (R30, R39): its word and guard, the parcel's address, whether its
word is an overlay's, and whether the entry is to be read again after a trap. -/
structure RepSave where
  word : BitVec 256
  guard : Bool
  pc : BitVec 24
  overlaid : Bool
  reread : Bool
deriving DecidableEq, Repr

/-- What a word writes with effect from the strand's next issue (R118, R123, R173, R347). -/
structure Next where
  mode : Option (BitVec 24)
  fmt : Option (BitVec 16)
  sstat : Option (BitVec 16)
  key : Option Word
  grant : Option (Nat × Nat)
  tbank : Option (BitVec 8)
deriving DecidableEq, Repr

def Next.none : Next :=
  { mode := .none, fmt := .none, sstat := .none, key := .none, grant := .none, tbank := .none }

inductive Status where
  | free | live | stopped
deriving DecidableEq, Repr

/-- A strand slot (R116, R311, R363). -/
structure Strand where
  status : Status
  /-- s0 to s9 -/
  regs : Map Word
  pw : BitVec 8
  /-- the parcel to be decoded next, and the first parcel of its issue (R34) -/
  pc : BitVec 24
  ia : BitVec 24
  pim : Word
  pimRun : Nat
  /-- the index of the next repetition or idle issue of the parcel at pc (R39) -/
  rep : Nat
  /-- the repetition or idle index of the issue being made -/
  wrep : Nat
  next : Next
  /-- cu.halt has fired: the strand ends once its word's operations are performed (R297) -/
  ending : Bool
  /-- net.go has fired: its trigger value -/
  going : Option Word
  /-- the two, as they stood when a trap was taken before the strand left -/
  savedEnding : Bool
  savedGoing : Option Word
  /-- the word being issued fires a cu trigger, or is one of a repeated parcel (R252) -/
  wgo : Bool
  rword : Option RepSave
  savedRep : Option RepSave
  tbank : BitVec 8
  delay : Option Delay
  /-- the return store, newest first (R294) -/
  ret : List (BitVec 24)
  sdepth : Nat
  mode : BitVec 24
  fmt : BitVec 16
  srkey : Word
  mxs : BitVec 32
  issue : Nat
  sstat : BitVec 16
  spc : Word
  scause : Word
  sinfo : Word
  sds : Word
  xstep : Word
  user : Bank
  trap : Bank
  latched : List Latched
  /-- those that failed in the handler itself: a double trap -/
  latchedT : List Latched
  /-- the first latched operation's trap is still to be taken -/
  latchedDue : Bool
  /-- sys.eret has issued and waits for the trap bank's operations (R350) -/
  ereting : Bool
  /-- sys.eret is re-firing and a hold stopped it -/
  refire : Bool
  /-- faults reported after a word (R85, R105, R209, R228, R245), by the operation's identity, which rises in trigger
  order: cause and SINFO -/
  pend : Map (Nat × Word)
  /-- the least identity of an operation fired since the last trap entry -/
  trapId : Nat
  stepPend : Bool
  window : List WinEnt
  hold : Option Hold
  block : Option Block
  exp : Option Exp
  savedExp : Option Exp
  /-- the vector request and grant: rows and row length, 0 rows for none (R171) -/
  vreq : Nat × Nat
  vgrant : Nat × Nat
  acct : Int
  resv : Option Resv
  /-- the granules at which this strand's sc has failed, with no lr to them since (R235) -/
  scFailed : List Resv
  /-- open arrivals: meet point or barrier, with its generation or phase; a cu.meet's own arrival stands at its meet
  point plus 8 -/
  meets : List (Nat × Nat)
  bars : List (Nat × Nat)
  order : List Order
  scSeq : Nat
  wait : Nat
  last : Nat
  yielded : Bool
  attempts : Nat
  /-- 0x34 pending with its SINFO, 0x35 pending with its payload, the queue of 0x36 (R352) -/
  irq34 : Option Word
  irq35 : Option (BitVec 32)
  irq36 : List Word
  /-- double trap: the second cause's fields, once stopped -/
  twice : Nat
  /-- registers and latches with an uncorrectable, a correctable error (R379): by port, 0x1000 more in the trap bank -/
  bad : List Nat
  weak : List Nat
deriving DecidableEq, Repr

def Strand.reset : Strand :=
  { status := .free, regs := [], pw := 1, pc := 0, ia := 0, pim := 0, pimRun := 0, rep := 0, wrep := 0, next := Next.none,
    ending := false, going := none, savedEnding := false, savedGoing := none, wgo := false, rword := none,
    savedRep := none, tbank := 0, delay := none, ret := [], sdepth := 0, mode := 0, fmt := 0, srkey := 0, mxs := 0,
    issue := 0, sstat := 0x1A02, spc := 0, scause := 0, sinfo := 0, sds := 0, xstep := 0, user := Bank.reset,
    trap := Bank.reset, latched := [], latchedT := [], latchedDue := false, ereting := false, refire := false, pend := [], trapId := 0, stepPend := false,
    window := [], hold := none, block := none, exp := none, savedExp := none, vreq := (0, 0), vgrant := (0, 0), acct := 0,
    resv := none, scFailed := [], meets := [], bars := [], order := [], scSeq := 0, wait := 0, last := 0,
    yielded := false, attempts := 0, irq34 := none, irq35 := none, irq36 := [], twice := 0, bad := [], weak := [] }

/-! ## A tile -/

/-- A semaphore (R332). -/
structure Sem where
  s : Nat
  err : Bool
deriving DecidableEq, Repr

/-- A copy endpoint kind with its address (R95). -/
structure CopyDesc where
  src : Word
  dst : Word
  n0 : Nat
  n1 : Nat
  n2 : Nat
  sstr1 : Int
  sstr2 : Int
  dstr1 : Int
  dstr2 : Int
  sem : Nat
  inbox : Bool
  inc : Nat
  tag : Word
  itile : Nat
  skind : Nat
  dkind : Nat
deriving DecidableEq, Repr

/-- An entry of the copy queue (R101, R103). gen is the count of times it was taken, mod 2^11. -/
structure CopyEnt where
  gen : Nat
  /-- 0 free, else the state codes of R103 -/
  state : Nat
  owner : Nat
  desc : CopyDesc
  /-- bytes written so far, in copy order -/
  done : Nat
  id : Nat
  after : List Nat
  /-- an abort has been asked for -/
  abort : Bool
  /-- the bytes of the next piece, read and not yet written -/
  buf : Option (List Byte)
  /-- how often the result of the piece being moved has failed its check (R354) -/
  fails : Nat
deriving DecidableEq, Repr

/-- A stream socket (R107). -/
structure Sock where
  owner : Option Nat
  outbound : Bool
  fifo : List Word
  /-- bytes of an entry that a copy has not yet completed (R96) -/
  part : List Byte
  copy : Nat
  /-- entries appended by stk.w since the bind -/
  appended : Nat
  total : Nat
  /-- the inbound copy has put in its last entry -/
  last : Bool
  /-- the strand whose inbound bind ended last (REASON 10 of R108) -/
  ended : Option Nat
deriving DecidableEq, Repr

/-- A put or get under way (R243). -/
structure NetOp where
  id : Nat
  slot : Nat
  get : Bool
  far : Word
  near : Nat
  n : Nat
  /-- the pieces not yet read: offset of the first byte and length; those read and not yet written -/
  left : List (Nat × Nat)
  got : List (Nat × List Byte)
  inc : Nat
  lsem : Nat
  sem : Nat
  after : List Nat
  suspended : Bool
deriving DecidableEq, Repr

/-- A 0x36 interrupt that waits for its strand's queue (R352): the slot it is for, SINFO, and the packet's identity, sending
tile and slot. -/
structure Irq36 where
  slot : Nat
  info : Word
  id : Nat
  src : Nat
  from_ : Nat
deriving DecidableEq, Repr

/-- An inbox entry: its line and its sideband without COUNT (R247, R249). -/
structure InMsg where
  data : List Byte
  kind : Nat
  slot : Nat
  src : Nat
deriving DecidableEq, Repr

/-- A piece of a host write in the ingress buffer (R91). -/
structure Piece where
  off : Nat
  data : List Byte
  /-- the I/O die whose port received it; it is to be applied as soon as no locked reservation holds it (R235) -/
  port : Nat
  due : Bool
deriving DecidableEq, Repr

/-- A meet point (R299). -/
structure Meet where
  count : Nat
  parties : Nat
  gen : Nat
deriving DecidableEq, Repr

/-- A waiting-task entry (R313). state: 0 free, 1 armed, 2 satisfied. -/
structure Wtt where
  state : Nat
  sem : Nat
  thr : Nat
  pc : BitVec 24
  arg : Word
  pri : Bool
  mode : BitVec 24
  fmt : BitVec 16
  stamp : Nat
  val : Nat
deriving DecidableEq, Repr

/-- The packet of a migrating strand, with the order in which its return entries lie (R254). -/
structure MigPkt where
  regs : List Word
  pw : BitVec 8
  pc : BitVec 24
  mode : BitVec 24
  ret : List (BitVec 24)
  fmt : BitVec 16
  src : Nat
  slot : Nat
  tbank : BitVec 8
  lid : Word
deriving DecidableEq, Repr

/-- A reservation recorded at its target (R233, R235). -/
structure ResvEnt where
  tile : Nat
  slot : Nat
  granule : Nat
  /-- the cycle at which a locked reservation was granted -/
  locked : Option Nat
deriving DecidableEq, Repr

/-- A barrier's state in the tile's router (R338). -/
structure Bar where
  ph : BitVec 16
  acnt : Nat
  tpart : Nat
  cont : Bool
  /-- logical tiles, the tile itself among them, that have reported for the phase the router is in -/
  reports : List Nat
  /-- operations before the contribution that must be performed first (R342) -/
  after : List Nat
  /-- a release held back until this TIME (R375) -/
  delayed : Option Nat
deriving DecidableEq, Repr

/-- A channel: send side and receive side (R266 to R273). -/
structure Chan where
  base : Nat
  depth : Nat
  lines : Nat
  rsem : Nat
  src : Nat
  peer : Nat
  pch : Nat
  ssem : Nat
  pdepth : Nat
  plines : Nat
  seqS : Nat
  lineS : Nat
  cred : Nat
  rseq : Nat
  rline : Nat
  done : Nat
  resync : Bool
  /-- pending errors: cause and the SINFO of the first (R265) -/
  errs : Map Word
deriving DecidableEq, Repr

/-- A line on its way or in a buffer: 56 payload bytes, KIND, CNT and value format (R257, R259). -/
structure Line where
  data : List Byte
  kind : Nat
  cnt : Nat
  fmt : Nat
  /-- a line entered by the local strand: it takes the entry's VFMT (R266) -/
  loc : Bool
deriving DecidableEq, Repr

/-- A stream entry (R274 to R283). -/
structure Ent where
  nsets : Nat
  vfmt : Nat
  k : Nat
  f : Nat
  dch : Nat
  esem : Nat
  ins : List Nat
  outs : List Nat
  uport : Nat
  udev : Nat
  utile : Nat
  uent : Nat
  set : Nat
  /-- buffered lines by input port -/
  bufs : Map (List Line)
  /-- records of each input's head line already taken -/
  taken : Map Nat
  /-- last index of each input since its last terminator -/
  prev : Map Nat
  /-- records of the open span, index and value, ascending -/
  span : List (Nat × Nat)
  /-- the partly filled sparse line -/
  part : List (Nat × Nat)
  flags : Nat
  /-- inputs discarding up to their next terminator -/
  discard : List Nat
  out : List (Nat × Line)
deriving DecidableEq, Repr

/-- A matrix command in the queue (R199). -/
structure MxCmd where
  id : Nat
  line : List Byte
  fmt : BitVec 16
  satf : Bool
  slot : Nat
  after : List Nat
  /-- 0 queued, 1 running, 2 completed -/
  phase : Nat
  /-- rows or lines done, and the bytes and key carried between lines -/
  row : Nat
  buf : List Byte
  /-- the memory lines that rows still to come have bytes in, as they were read: address, from its first byte that the
  command uses, and bytes -/
  seen : List (Word × List Byte)
  key : Word
  flags : Nat
  suspended : Bool
  /-- its wait has been met, when it came to the head of the starting order or at a change since (R337) -/
  met : Bool
  /-- how often the result being computed has failed its check (R354) -/
  fails : Nat
deriving DecidableEq, Repr

/-- A log ring (R383): entries newest first, entries written, entries lost. -/
structure LogEnt where
  time : Nat
  kind : Nat
  level : Nat
  src : Nat
  count : Nat
  addr : Word
  synd : Word
  read : Bool
deriving DecidableEq, Repr

structure Log where
  ents : List LogEnt
  lhead : Nat
  lost : Nat
deriving DecidableEq, Repr

/-- A fault record waiting for the ring (R351). -/
structure FaultRec where
  cause : Nat
  first : Nat
  ltile : Nat
  slot : Nat
  sup : Bool
  spc : Word
  sinfo : Word
  xstep : Word
  sds : Word
  time : Nat
  lid : Word
deriving DecidableEq, Repr

/-- A tile (R3, R110 to R133). -/
structure Tile where
  loaded : Bool
  done : Bool
  launch : Nat
  ltile : Nat
  ctx : BitVec 16
  partword : Word
  hwin : Bool
  pool : Memory
  /-- offsets of 64-bit words that hold an uncorrectable, a correctable error (R379) -/
  poolBad : List Nat
  poolWeak : List Nat
  opmem : Memory
  opBad : List Nat
  opWeak : List Nat
  scale : Memory
  scaleBad : List Nat
  scaleWeak : List Nat
  /-- entries 0 to 511; unlisted: the word of eight empty slots (R35) -/
  table : Map (BitVec 256)
  overlay : Option Nat
  loading : Option Nat
  sems : Map Sem
  strands : Map Strand
  cycle : Nat
  q : Nat
  mq : Nat
  wsum : Nat
  mbudget : Int
  refillAt : Nat
  divOwner : Option (Nat × Nat)
  fpaOwner : Option Nat
  /-- each strand's issues on its two banks when the expansion that occupies the fpa began (R154) -/
  fpaAt : Map (Nat × Nat)
  /-- owner of each operand slot: slot k of a strand, or 16 + its age while a release waits to retire -/
  slotOwner : Map Nat
  mxq : List MxCmd
  lastFmt : Option (BitVec 16)
  copies : Map CopyEnt
  socks : Map Sock
  gets : List NetOp
  inbox : List InMsg
  ingress : List Piece
  /-- a host piece has been applied since the last issue (R91) -/
  pieced : Bool
  meets : Map Meet
  wtt : Map Wtt
  arrq : List MigPkt
  resv : List ResvEnt
  bars : Map Bar
  chans : Map Chan
  ents : Map Ent
  /-- the trains running (R319): the members still to issue, with the issue address and TBANK of the train's word -/
  trains : List (List Nat × (BitVec 24 × BitVec 8))
  /-- the strand whose turn it is follows another in a train: its issue counts in FUSED (R390) -/
  fusing : Bool
  counters : Map Word
  watched : Bool
  bal : Bool
  rf : Nat
  scPend : List (Nat × Nat)
  wait36 : List Irq36
  faultq : List FaultRec
  sent : Nat
  rcvd : Nat
  issues : Nat
  stopped : Bool
  halted : Bool
  /-- the parcel cache (R3): 64-byte lines of the kernel object, by number, at most 256 -/
  pcache : List Nat
  /-- semaphores, inbox entries, table entries and parcel-cache lines with an uncorrectable, a correctable error (R379) -/
  cellBad : List ScrubLoc
  cellWeak : List ScrubLoc
deriving DecidableEq, Repr

def Tile.reset : Tile :=
  { loaded := false, done := false, launch := 0, ltile := 0, ctx := 0, partword := 1, hwin := false, pool := [],
    poolBad := [], poolWeak := [], opmem := [], opBad := [], opWeak := [], scale := [], scaleBad := [],
    scaleWeak := [], table := [], overlay := none, loading := none, sems := [], strands := [], cycle := 0, q := 0,
    mq := 0, wsum := 0, mbudget := 0, refillAt := 0, divOwner := none, fpaOwner := none, fpaAt := [], slotOwner := [], mxq := [],
    lastFmt := none, copies := [], socks := [], gets := [], inbox := [], ingress := [], pieced := false, meets := [], wtt := [],
    arrq := [], resv := [], bars := [], chans := [], ents := [], trains := [], fusing := false, counters := [],
    watched := true, bal := false, rf := 8, scPend := [], wait36 := [], faultq := [], sent := 0, rcvd := 0,
    issues := 0, stopped := false, halted := false, pcache := [], cellBad := [], cellWeak := [] }

/-! ## Packets in flight -/

/-- The atomic operations (R232, R233). -/
inductive RmwOp where
  | add | addf | min | minu | max | maxu | and | or | xor | swp | cas | lr | sc
deriving DecidableEq, Repr

/-- What an atomic does at its target (R232, R233): the operation on k bytes at a pool offset. -/
structure AtmReq where
  op : RmwOp
  k : Nat
  addr : Nat
  v : Word
  cmp : Word
  nr : Bool
  trap : Bool
  /-- window, logical tile, slot and sequence of an SC atomic (R236) -/
  sc : Option (Nat × Nat × Nat × Nat)
deriving DecidableEq, Repr

/-- A row of a vec.ld or vec.st (R190): the tile and offset of its first active element, its active elements (how many
elements after the first, byte offset in the register), and what a store writes. -/
structure VecRow where
  tile : Nat
  off : Nat
  lanes : List (Nat × Nat)
  data : List Byte
deriving DecidableEq, Repr

/-- A vec.ld or vec.st under way in the sorus (R192): element bytes, register, the byte offsets of the elements that ZM
zeroes, its rows, how many have been performed, what these brought, and the bank it was fired from. -/
structure VecOp where
  load : Bool
  w : Nat
  vd : Nat
  zero : List Nat
  rows : List VecRow
  pos : Nat
  got : List (List Byte)
  trap : Bool
deriving DecidableEq, Repr

/-- What a packet carries. -/
inductive Payload where
  /-- a global lsu request at its station (R84); pa once translated -/
  | lsu (kind : LsuKind) (va : Word) (trap : Bool) (pa : Option Nat)
  /-- an access to a sorus member's pool (R131); a vec.ld or vec.st with rows there (R192) -/
  | pool (kind : LsuKind) (off : Nat) (trap : Bool)
  | vmem (op : VecOp)
  | atomic (req : AtmReq)
  | sem (idx inc : Nat) (err : Bool)
  | msg (m : InMsg)
  | migrate (m : MigPkt)
  /-- a refusal on its way back to the source slot (R253) -/
  | refused
  | ipi (slot : Nat) (info : Word)
  /-- a tile's or child's report, and the release with the TIME and PHREL of its sending (R338, R375) -/
  | barReport (bar child : Nat)
  | barRelease (bar stamp : Nat) (phrel : Word)
  /-- a channel line, with the number of its channel at the sender and that channel's PDEPTH -/
  | chLine (ch seq line : Nat) (l : Line) (num pdepth : Nat)
  /-- returned credits; loc: to the local stream entry -/
  | credit (ch n : Nat) (loc : Bool)
  | stLine (ent port : Nat) (l : Line)
  /-- in the spill ring only: a piece of a put or get that was read and not yet written, with its far address or pool
  offset and its signal word; and the host's interrupt 0x35 (R359, R360) -/
  | piece (op off : Nat) (data : List Byte) (last : Bool) (addr sig : Word)
  | irq35 (slot : Nat) (pay : BitVec 32)
deriving DecidableEq, Repr

/-- A packet or request in flight (R250). src and dst are TILEIDs. -/
structure Packet where
  id : Nat
  src : Nat
  slot : Nat
  dst : Nat
  body : Payload
  /-- operations that must be performed before this one -/
  after : List Nat
  /-- suspended by an error until its strand's sys.eret (R228) -/
  stop : Bool
deriving DecidableEq, Repr

/-- A cached translation (R84): size is 16, 21 or 30 bits. -/
structure Xlate where
  station : Nat
  ctx : Nat
  page : Nat
  size : Nat
  pa : Nat
  r : Bool
  w : Bool
deriving DecidableEq, Repr

/-- What a walk finds (R82): a page (PA, size in bits, R, W), a fault (REASON, LEVEL), or an entry that cannot be read (the level
of R380, its PA). -/
inductive WalkRes where
  | page (pa size : Nat) (r w : Bool)
  | fault (reason level : Nat)
  | bad (level pa : Nat)
deriving DecidableEq, Repr

/-- A station's answer to a request of an engine's operation: the operation, the address it asked for, what the walk
found (R84). -/
structure XAns where
  id : Nat
  va : Word
  res : WalkRes
deriving DecidableEq, Repr

/-- A walk in progress (R84), the requests that joined it in order of arrival (a packet or an engine's operation, with its
address), and whether an invalidation discards its result (R86). -/
structure Walk where
  id : Nat
  station : Nat
  ctx : Nat
  va : Word
  joined : List (Nat × Word)
  stale : Bool
deriving DecidableEq, Repr

/-- An access of an engine's operation to another device's HBM, between its frame and the answer (R393). -/
structure FarReq where
  id : Nat
  dev : Nat
  pa : Nat
  n : Nat
  write : Bool
  /-- what the operation writes, or what the frame of kind 0x04 brought; performed -/
  data : List Byte
  done : Bool
deriving DecidableEq, Repr

/-! ## Launches, partitions, the host's side -/

/-- A kernel object as igelink leaves it in HBM (log entry 6). -/
structure KObj where
  ctx : Nat
  va : Word
  /-- bytes of the object in HBM -/
  size : Nat
  hash : List Byte
  parcels : Map (BitVec 16)
  len : Nat
  table : List (BitVec 256)
  /-- overlay number and its words -/
  overlays : List (Nat × List (BitVec 256))
  data : List Byte
  constOff : Nat
  entry : BitVec 24
  torus : Option (Nat × Nat)
  partword : Word
  strands : Nat
  cls : Nat
  fmt : BitVec 16
  lock : BitVec 12
  hwin : Bool
  handlers : Map (BitVec 24)
  /-- malformed in a field that checks 4 to 6 read, or in another (R303) -/
  badHead : Bool
  badBody : Bool
deriving DecidableEq, Repr

/-- A launch record as read (R302). -/
structure Record where
  va : Word
  queue : Nat
  ver : Nat
  pri : Nat
  pclass : Nat
  hint : Bool
  msiv : Nat
  obj : Word
  hash : List Byte
  arg : Word
  lid : Word
  partword : Word
  x : Nat
  y : Nat
  /-- the PA of the record, of each DEP with its threshold, and of CSEM -/
  pa : Nat
  deps : List (Nat × Nat)
  csem : Option Nat
  cinc : Nat
  tnote : Nat
  snote : Nat
  reserved : Bool
deriving DecidableEq, Repr

/-- A launch. phase: 0 waiting to be placed, 1 loaded, 2 running, 3 complete and waiting for a checkpoint (R381). -/
structure Launch where
  record : Record
  ctx : Nat
  part : Nat
  phase : Nat
  status : Nat
  /-- logical sorus to physical sorus -/
  sori : List Nat
  /-- logical tile to TILEID -/
  tiles : List Nat
  doneTiles : List Nat
  doneSori : List Nat
  doneAt : Nat
  objIdx : Nat
deriving DecidableEq, Repr

structure Queue where
  head : Nat
  tail : Nat
deriving DecidableEq, Repr

/-- The arbiter's place on a partition (R307). -/
structure Arb where
  queue : Nat
  used : Nat
  cand : Option Nat
deriving DecidableEq, Repr

/-- An entry of the spill ring (R360). -/
structure SpillEnt where
  pkt : Packet
  /-- logical tiles of source and target -/
  lsrc : Nat
  ldst : Nat
  /-- the value of SPTAIL at which it was written; none: it lies with its strand's saved context, not in the ring -/
  ring : Option Nat
deriving DecidableEq, Repr

/-- A tile as saved (R362), the sorus mapping is by logical tile. -/
structure Saved where
  ltile : Nat
  tileid : Nat
  tile : Tile
deriving DecidableEq, Repr

/-- A saved image (R362): time, the PA of its areas, tiles, launches, the ring; and launches placed after it that are to
be loaded again from their records (R381). -/
structure Image where
  ts : Nat
  base : Nat
  tiles : List Saved
  launches : List (Nat × Launch)
  spill : List SpillEnt
  late : List (Nat × Launch)
deriving DecidableEq, Repr

/-- A partition (R356, R357, R388). phase: 0 none, 1 armed, 2 stop, 3 spill, 4 save, 5 restore waiting, 6 start. -/
structure Part where
  state : Nat
  sori : List Nat
  cmd : Nat
  /-- TILE and SLOT of PSCTL, as written -/
  tgt : Nat × Nat
  res : Nat
  busy : Bool
  phrel : Word
  phase : Nat
  ts : Nat
  ckpt : Bool
  image : Option Image
  last : Option Image
  cksel : Nat
  ckts : Nat
  nextCk : Option Nat
  sphead : Nat
  sptail : Nat
  spill : List SpillEnt
  ftail : Nat
  /-- tiles, slots and causes whose default Recover is wanted (R381) -/
  recov : List (Nat × Nat × Nat)
deriving DecidableEq, Repr

def Part.reset : Part :=
  { state := 0, sori := [], cmd := 0, tgt := (0, 0), res := 0, busy := false, phrel := 0, phase := 0, ts := 0, ckpt := false,
    image := none, last := none, cksel := 0, ckts := 0, nextCk := none, sphead := 0, sptail := 0,
    spill := [], ftail := 0, recov := [] }

/-- Partition 0 with every sorus of the package: the manual does not say how sori are given to partitions (log entry 6). -/
def Part.whole : Part := { Part.reset with sori := List.range 288 }

/-- A stipe's controller (R368, R369). -/
structure Stipe where
  str : Nat
  devs : List Int
  hist : List Nat
  next : Nat
  /-- consecutive imbalance logs at STR = 8 (R384) -/
  hot : Nat
deriving DecidableEq, Repr

/-- A channel of an HBM stack (R421 to R427). -/
structure HbmCh where
  ctl : BitVec 2
  /-- CHCTL as written with TRAIN = 1, waiting to take effect -/
  trainTo : Option (BitVec 2)
  rdly : BitVec 6
  wdly : BitVec 6
  repair : BitVec 9
  dir : Bool
  busy : Bool
  done : Bool
  tout : Bool
  pterr : Word
  started : Nat
  hmode : Map (BitVec 8)
deriving DecidableEq, Repr

def HbmCh.reset : HbmCh :=
  { ctl := 0, trainTo := none, rdly := 32, wdly := 32, repair := 0, dir := false, busy := false, done := false,
    tout := false, pterr := 0, started := 0, hmode := [] }

/-- What leaves the device towards the host. -/
inductive HostOut where
  | readData (data : List Byte) (poison : Bool)
  | unsupported
  /-- a vector of a function's MSI-X table (R391) -/
  | intr (function vector : Nat)
  | faultIntr (part : Nat)
  | retryStatus
  | config (data : List Byte)
  | spdm (data : List Byte)
  | frame (port : Nat) (data : List Byte)
deriving DecidableEq, Repr

/-! ## The device -/

/-- The device. The last five fields are the model's own (log entries 1, 11, 12). -/
structure State where
  time : Nat
  hbm : Memory
  hostMem : Memory
  /-- HBM of the other devices of the domain, by device and PA (R393) -/
  far : Memory
  hbmBad : List Nat
  hbmWeak : List Nat
  /-- PAs of 64-bit words of the die L2s that hold an uncorrectable error in a dirty line, a correctable one (R379) -/
  l2Bad : List Nat
  l2Weak : List Nat
  /-- the lines that the die L2s hold, by PA / 64, and whether each is dirty (R87) -/
  l2 : List (Nat × Bool)
  /-- places of the tiles' storage where an uncorrectable error has stood, and tiles where one stands again after its
  word was rewritten (R384) -/
  hadBad : List ScrubLoc
  recurs : List Nat
  /-- at how many scrubs on end a word of a tile has shown a correctable error (R384) -/
  weakRun : List (ScrubLoc × Nat)
  tiles : Map Tile
  flight : List Packet
  xcache : List Xlate
  walks : List Walk
  answers : List XAns
  farReqs : List FarReq
  xlbase : Word
  xlinv : Word
  xlinva : Word
  psbase : Word
  qtbase : Word
  irqv : Word
  ltol : Word
  pwrst : Nat
  idleSince : Nat
  scrub : Map Word
  suap : Map Word
  bootst : Word
  flash : List Byte
  rollback : Nat
  windows : Map Word
  hostOut : List HostOut
  queues : Map Queue
  objects : List KObj
  launches : Map Launch
  arb : Map Arb
  parts : Map Part
  stipes : Map Stipe
  spares : Map Nat
  outSori : List Nat
  dieClk : Map Nat
  dieNext : Map Nat
  dieShare : Nat
  htemp : Map Nat
  tempNext : Nat
  hbmCh : Map HbmCh
  /-- channels whose training the start-up has begun (R428; log entry 75) -/
  trainNext : Nat
  logs : Map Log
  linksDown : List Nat
  oracle : Nat
  turn : Option (Nat × Nat)
  inputs : List Instr
  cur : Nat × Nat
  nextId : Nat
deriving DecidableEq, Repr

/-- The machine right after reset: every field at the value the manual states, else as log entry 2 names it. -/
def State.reset : State :=
  { time := 0, hbm := [], hostMem := [], far := [], hbmBad := [], hbmWeak := [], l2Bad := [], l2Weak := [], l2 := [],
    hadBad := [], recurs := [], weakRun := [], tiles := [], flight := [], xcache := [],
    walks := [], answers := [], farReqs := [], xlbase := 0, xlinv := 0, xlinva := 0, psbase := 0, qtbase := 0, irqv := 0, ltol := 0, pwrst := 0,
    idleSince := 0, scrub := [(0, 1000), (1, 10000), (2, 28800000)], suap := [], bootst := 0, flash := [],
    rollback := 0, windows := [], hostOut := [], queues := [], objects := [], launches := [], arb := [], parts := [(0, Part.whole)],
    stipes := [], spares := [], outSori := [], dieClk := [], dieNext := [], dieShare := 268125, htemp := [],
    tempNext := 0, hbmCh := [], trainNext := 0, logs := [], linksDown := [], oracle := 0, turn := none, inputs := [], cur := (0, 0),
    nextId := 1 }

/-- Why the machine can stop. -/
inductive Fault where
  /-- Raised by step when the list of outside events holds an instruction that WellFormed refuses. Safe: the list is
  the model's own, and no hardware behaviour is lost. -/
  | illFormed
deriving DecidableEq, Repr

/-- Why an instruction can be refused. -/
inductive Refusal where
  /-- Raised by Dispatch.lean for an instruction that has no meaning yet. Safe. -/
  | notModelled (mnemonic : String)
deriving DecidableEq, Repr

end Sys2Proof.Machine
end

