-- ==== Sys2Proof/Machine/Ops.lean ====
section
/-! DEFINITION. The named operations over tiles, strands, latches, results, pools, semaphores, logs, and taking and
returning from a trap. -/
namespace Sys2Proof.Machine

/-- What a meaning answers. -/
abbrev Out := Host.Outcome State Fault Refusal

/-! ## Tiles and strands -/

/-- The tile with TILEID t (R122). -/
def State.tile (s : State) (t : Nat) : Tile := Map.find Tile.reset s.tiles t

/-- Set the tile with TILEID t. -/
def State.setTile (s : State) (t : Nat) (x : Tile) : State := { s with tiles := Map.set s.tiles t x }

/-- The strand in slot k of a tile. -/
def Tile.strand (x : Tile) (k : Nat) : Strand := Map.find Strand.reset x.strands k

/-- Set the strand in slot k of a tile. -/
def Tile.setStrand (x : Tile) (k : Nat) (st : Strand) : Tile := { x with strands := Map.set x.strands k st }

/-- The strand in slot k of tile t. -/
def State.strand (s : State) (t k : Nat) : Strand := (s.tile t).strand k

/-- Set the strand in slot k of tile t. -/
def State.setStrand (s : State) (t k : Nat) (st : Strand) : State := s.setTile t ((s.tile t).setStrand k st)

/-- The issuing strand's tile. -/
def State.here (s : State) : Tile := s.tile s.cur.1

/-- Set the issuing strand's tile. -/
def State.setHere (s : State) (x : Tile) : State := s.setTile s.cur.1 x

/-- The issuing strand. -/
def State.me (s : State) : Strand := s.strand s.cur.1 s.cur.2

/-- Set the issuing strand. -/
def State.setMe (s : State) (st : Strand) : State := s.setStrand s.cur.1 s.cur.2 st

/-- A service tile (R122). -/
def isService (t : Nat) : Bool := decide (8192 ≤ t)

/-- The compute die of a tile, or the I/O die of a service tile (R122). -/
def dieOf (t : Nat) : Nat := t / 1024 % 8

/-- The physical column and row of a tile (R122). -/
def colOf (t : Nat) : Nat := t / 32 % 32

def rowOf (t : Nat) : Nat := t % 32

/-- The sixteen slots of a tile (R311). -/
def slots : List Nat := [0, 1, 2, 3, 4, 5, 6, 7, 8, 9, 10, 11, 12, 13, 14, 15]

/-! ## SSTAT and MODE (R117, R347) -/

def Strand.sup (st : Strand) : Bool := st.sstat.getLsbD 0
def Strand.ie (st : Strand) : Bool := st.sstat.getLsbD 1
def Strand.tl (st : Strand) : Bool := st.sstat.getLsbD 2
def Strand.ss (st : Strand) : Bool := st.sstat.getLsbD 3
def Strand.norf (st : Strand) : Bool := st.sstat.getLsbD 4
def Strand.hnd (st : Strand) : Bool := st.sstat.getLsbD 5
def Strand.psup (st : Strand) : Bool := st.sstat.getLsbD 14
def Strand.pie (st : Strand) : Bool := st.sstat.getLsbD 15

/-- WDL, the watchdog limit (R347). -/
def Strand.wdl (st : Strand) : Nat := (st.sstat.extractLsb' 8 5).toNat

/-- SSTAT with bit i set to b. -/
def setBit16 (v : BitVec 16) (i : Nat) (b : Bool) : BitVec 16 :=
  if b then v ||| BitVec.ofNat 16 (2 ^ i) else v &&& ~~~ BitVec.ofNat 16 (2 ^ i)

def Strand.satf (st : Strand) : Bool := st.mode.getLsbD 16
def Strand.prio (st : Strand) : Bool := st.mode.getLsbD 17
def Strand.idze (st : Strand) : Bool := st.mode.getLsbD 18

/-- FPTE in the order of R152: bit 4 invalid to bit 0 inexact. -/
def Strand.fpte (st : Strand) : Nat := (st.mode.extractLsb' 19 5).toNat

/-- The bits of MODE that software can write (R117). -/
def modeMask : BitVec 24 := 0xFF0FFF

/-- The LOCK bit of a unit; none: data-locked whatever MODE says (R23, R117, R225). -/
def lockBit (u : UnitId) : Option Nat :=
  match u with
  | .cu => some 0
  | .alu0 => some 1
  | .alu1 => some 2
  | .mdu => some 3
  | .prd => some 4
  | .crf => some 5
  | .fpa => some 6
  | .sfu => some 7
  | .sem => some 9
  | .dma => some 10
  | .vec => some 11
  | .atm | .lsu | .net | .sys => none

/-- The unit is data-locked for the strand (R23, R117). -/
def Strand.locked (st : Strand) (u : UnitId) : Bool :=
  match lockBit u with
  | some i => st.mode.getLsbD i
  | none => true

/-! ## Latches and results (R22, R23, R134, R137) -/

/-- The selected bank: the trap bank in a trap handler (R349). -/
def Strand.bank (st : Strand) : Bank := if st.tl then st.trap else st.user

/-- Set the selected bank. -/
def Strand.setBank (st : Strand) (b : Bank) : Strand :=
  if st.tl then { st with trap := b } else { st with user := b }

/-- Bank b of a strand: the trap bank for true. -/
def Strand.bankAt (st : Strand) (trap : Bool) : Bank := if trap then st.trap else st.user

def Strand.setBankAt (st : Strand) (trap : Bool) (b : Bank) : Strand :=
  if trap then { st with trap := b } else { st with user := b }

/-- An operand latch of the selected bank (R134). -/
def Strand.opnd (st : Strand) (port : Nat) : Word := Map.find 0 st.bank.ops port

/-- The result port .y of a unit (R40 to R43). -/
def yPort (u : UnitId) : Nat :=
  match u with
  | .cu => 0x002
  | .alu0 => 0x042
  | .alu1 => 0x082
  | .mdu => 0x0C2
  | .prd => 0x0E2
  | .crf => 0x0F1
  | .fpa => 0x103
  | .sfu => 0x141
  | .lsu => 0x163
  | .atm => 0x1A4
  | .sem => 0x1C3
  | .net => 0x1E4
  | .dma => 0x202
  | .vec => 0x242
  | .sys => 0x2C1

/-- A result port is a .z port (R40 to R43). -/
def isZ (port : Nat) : Bool :=
  port == 0x043 || port == 0x083 || port == 0x0C3 || port == 0x104 || port == 0x243

/-- The result is due at or before issue m. -/
def Res.dueBy (r : Res) (m : Nat) : Bool :=
  match r.due with
  | some d => decide (d ≤ m)
  | none => false

/-- Of two results, the one R22 selects: the greatest due issue, the later-triggered of a tie. The list is in
trigger order. -/
def pickRes (best : Option Res) (r : Res) : Option Res :=
  match best with
  | none => some r
  | some b => if b.due.getD 0 ≤ r.due.getD 0 then some r else some b

/-- The result of unit u that a read at issue m is served from; forZ of the vector unit selects over all of the
strand's operations (R22, R180). -/
def Bank.select (b : Bank) (u : UnitId) (needY : Bool) : Option Res :=
  (b.res.filter fun r => r.unit == u && r.dueBy b.clock && (!needY || r.y.isSome)).foldl pickRes none

/-- What .y of a unit reads (R22). -/
def Bank.readY (b : Bank) (u : UnitId) : Word :=
  match b.select u true with
  | some r => r.y.getD 0
  | none => 0

/-- What .z of a unit reads: with .y for the integer units and the fpa, over all operations for vec (R137, R180). -/
def Bank.readZ (b : Bank) (u : UnitId) : Word :=
  match b.select u (u != .vec) with
  | some r => r.z.getD 0
  | none => 0

/-- A result of unit u is still to be delivered. -/
def Bank.pending (b : Bank) (u : UnitId) : Bool := b.res.any fun r => r.unit == u && r.due == none

/-- Drop the results that no read can select any more. -/
def Bank.prune (b : Bank) (u : UnitId) : Bank :=
  { b with
    res := b.res.filter fun r => r.unit != u || !(r.dueBy b.clock) || some r == b.select u true
      || some r == b.select u false }

/-- Add a result of latency L that unit u computes at cycle c; locked: to be delivered, else due L issues on. -/
def Bank.push (b : Bank) (u : UnitId) (y z : Option Word) (L c : Nat) (locked wait : Bool) : Bank :=
  { b with
    res := (b.prune u).res ++
      [{ unit := u, y := y, z := z, due := if locked || wait then none else some (b.clock + L), ready := c + L,
         wait := wait, lock := false }] }

/-- The issuing strand's unit u delivers y and z with latency L, in the mode of its LOCK bit (R135). -/
def State.result (s : State) (u : UnitId) (y : Word) (z : Option Word) (L : Nat) : State :=
  let st := s.me
  s.setMe (st.setBank (st.bank.push u (some y) z L s.here.cycle (st.locked u) false))

/-- A result of a unit that is data-locked whatever MODE says (R23). -/
def State.resultLocked (s : State) (u : UnitId) (y : Word) (L : Nat) : State :=
  let st := s.me
  s.setMe (st.setBank (st.bank.push u (some y) none L s.here.cycle true false))

/-- The outstanding result of a sem.wait is data-locked whatever MODE says (R23, R333). -/
def Bank.lockWait (b : Bank) : Bank :=
  { b with res := b.res.map fun r => if r.unit == .sem && r.due == none then { r with lock := true } else r }

/-- A result whose value is still on its way (memory, divider): it is held back until it arrives. -/
def State.resultWait (s : State) (u : UnitId) (y : Option Word) (z : Option Word) (L : Nat) : State :=
  let st := s.me
  s.setMe (st.setBank (st.bank.push u y z L s.here.cycle true true))

/-- A status that is still on its way and is due L issues on, or when it is delivered where the unit is data-locked (R180). -/
def State.resultLate (s : State) (u : UnitId) (z : Option Word) (L : Nat) : State :=
  let st := s.me
  let b := st.bank
  let due := if st.locked u then none else some (b.clock + L)
  s.setMe (st.setBank { b with
    res := (b.prune u).res ++
      [{ unit := u, y := none, z := z, due := due, ready := s.here.cycle + L, wait := true, lock := false }] })

/-- The value of unit u's outstanding result has come, in the given bank. -/
def Bank.arrive (b : Bank) (u : UnitId) (y : Option Word) : Bank :=
  { b with
    res := b.res.map fun r =>
      if r.unit == u && r.wait then { r with y := y.or r.y, wait := false } else r }

/-- Forget unit u's outstanding result (its operation will be made again). -/
def Bank.withdraw (b : Bank) (u : UnitId) : Bank :=
  { b with res := b.res.filter fun r => !(r.unit == u && r.wait) }

/-- Deliver unit u's outstanding results: they are due now, and a data-locked .y becomes full (R23). -/
def Bank.deliver (b : Bank) (u : UnitId) (locked : Bool) (c : Nat) : Bank :=
  let ok (r : Res) : Bool := r.unit == u && r.due == none && !r.wait && decide (r.ready ≤ c)
  let any := b.res.any fun r => ok r && r.y.isSome && (locked || r.lock)
  { b with
    res := b.res.map fun r => if ok r then { r with due := some b.clock } else r
    full := if any then yPort u :: b.full.filter (· != yPort u) else b.full }

/-- The protected word that holds what a port reads, as an error names it: PW holds p1 to p7 (R21); 0x1000 more for a latch
of the trap bank. -/
def Strand.cellPort (st : Strand) (port : Nat) : Nat :=
  if (0x02A ≤ port ∧ port ≤ 0x02F) ∨ port = 0x03A ∨ port = 0x03B then 0x02A
  else if (portUnit port).isSome && st.tl then port + 0x1000 else port

/-- System registers 0 to 9 (R123) and the entries of the return store (R294), as an error names them (log entry 22). -/
def sysCell (n : Nat) : Nat := 0x3000 + n
def retCell (n : Nat) : Nat := 0x3010 + n % 16

/-- The issuing strand's operand latch. -/
def State.opnd (s : State) (port : Nat) : Word := s.me.opnd port

/-- One more latched operation, of the user bank or of a handler (R165, R349). -/
def Strand.addLatched (st : Strand) (l : Latched) : Strand :=
  if st.tl then { st with latchedT := st.latchedT ++ [l], latchedDue := true }
  else { st with latched := st.latched ++ [l], latchedDue := true }

/-- The operation fails its checks after its word has proceeded: it stays latched with its trap (R165, R345). -/
def State.latch (s : State) (f : Fired) (cause : Nat) (info : Word) : State :=
  s.setMe (s.me.addLatched { op := f, cause := cause, info := info, wgo := s.me.wgo })

/-- Latch the operation that a move of v to a port fires. -/
def State.trapA (s : State) (port : Nat) (v : Word) (cause : Nat) (info : Word) : Out :=
  .next (s.latch { port := port, v := v, g := true, chop := (s.opnd 0x1E2).toNat % 8 } cause info)

/-! ## Free values, packets, time -/

/-- The next free choice among n (log entry 1). -/
def State.choice (s : State) (n : Nat) : Nat := Config.freeChoice s.oracle % n

/-- One more free value taken. -/
def State.tick (s : State) : State := { s with oracle := s.oracle + 1 }

/-- Send a packet. -/
def State.send (s : State) (src slot dst : Nat) (body : Payload) (after : List Nat) : State :=
  { s with
    flight := s.flight ++ [{ id := s.nextId, src := src, slot := slot, dst := dst, body := body, after := after,
                             stop := false }]
    nextId := s.nextId + 1 }

/-- The tile has sent one more message (R361). -/
def State.countSent (s : State) (t : Nat) : State := s.setTile t { (s.tile t) with sent := (s.tile t).sent + 1 }

/-- The tile has received one more message (R361). -/
def State.countRcvd (s : State) (t : Nat) : State := s.setTile t { (s.tile t) with rcvd := (s.tile t).rcvd + 1 }

/-- The packet with identity p. -/
def State.packet (s : State) (p : Nat) : Option Packet := s.flight.find? fun k => k.id == p

/-- The packet has been performed. -/
def State.drop (s : State) (p : Nat) : State := { s with flight := s.flight.filter fun k => k.id != p }

/-- Operations under way on a tile that a packet may have to wait for: puts, gets, copies and matrix commands. -/
def Tile.opIds (x : Tile) : List Nat :=
  x.gets.map NetOp.id ++ (x.copies.filter fun c => c.2.state != 0 && decide (c.2.state ≤ 3)).map (fun c => c.2.id)
    ++ x.mxq.map MxCmd.id

/-- Every operation not yet performed. -/
def State.outstanding (s : State) : List Nat :=
  s.flight.map Packet.id ++ s.tiles.flatMap fun e =>
    e.2.opIds ++ e.2.strands.flatMap fun k => k.2.window.map WinEnt.id

/-- None of these operations is outstanding. -/
def State.performed (s : State) (ids : List Nat) : Bool :=
  ids.all fun i => !(s.outstanding.contains i)

/-- The class of a packet on the fixed routes of R250; 0: none of them. -/
def Payload.route (b : Payload) : Nat :=
  match b with
  | .sem _ _ _ => 1
  | .msg _ => 2
  | .atomic _ => 3
  | .ipi _ _ => 4
  | .migrate _ => 5
  | .chLine _ _ _ _ _ _ => 6
  | .stLine _ _ _ => 7
  | .credit _ _ _ => 8
  | _ => 0

/-- A channel or stream line: these keep their order from tile to tile, each kind by itself (R266). -/
def Payload.isLine (b : Payload) : Bool := b.route == 6 || b.route == 7

/-- Two lines of one channel, or of one input of an entry. -/
def Payload.sameLane (a b : Payload) : Bool :=
  match a, b with
  | .chLine c _ _ _ _ _, .chLine d _ _ _ _ _ => c == d
  | .stLine e i _, .stLine f j _ => e == f && i == j
  | _, _ => false

/-- A packet that has reached its tile and waits there for room, a window, a configuration or an error's repair (R228,
R236, R247, R270, R277). -/
def State.waitsThere (s : State) (p : Packet) : Bool :=
  p.stop || s.performed p.after &&
    match p.body with
    | .msg _ => decide (64 ≤ (s.tile p.dst).inbox.length)
    | .atomic r => r.sc.isSome || (s.tile p.dst).resv.any fun e => e.locked.isSome && e.granule == r.addr / 64
    | .chLine c _ _ _ _ _ => ((Map.get? (s.tile p.dst).chans c).map Chan.depth).getD 0 == 0
    | .stLine e i _ =>
      decide (16 ≤ (((Map.get? (s.tile p.dst).ents e).bind fun n => Map.get? n.bufs i).getD []).length)
    | _ => false

/-- Packet q keeps the later packet p back: one strand's packets to one tile keep their order, and so does each kind of
line from tile to tile, but for what waits at its target (R229, R247, R250, R266, R277). -/
def State.keepsBehind (s : State) (q p : Packet) : Bool :=
  q.src == p.src && q.dst == p.dst && q.body.route != 0 && p.body.route != 0 &&
    if p.body.isLine || q.body.isLine then q.body.route == p.body.route && (q.body.sameLane p.body || !s.waitsThere q)
    else q.slot == p.slot && (q.body.route == p.body.route || !s.waitsThere q)

/-- An earlier packet on the fixed route comes first. -/
def State.routeAhead (s : State) (p : Packet) : Bool :=
  (s.flight.takeWhile fun q => q.id != p.id).any fun q => s.keepsBehind q p

/-! ## Launches, objects, logical tiles -/

/-- The launch a tile runs. -/
def State.launchOf (s : State) (t : Nat) : Option Launch :=
  if (s.tile t).loaded then Map.get? s.launches (s.tile t).launch else none

/-- The kernel object a tile runs. -/
def State.objOf (s : State) (t : Nat) : Option KObj :=
  match s.launchOf t with
  | some l => s.objects[l.objIdx]?
  | none => none

/-- The logical shape of the tile's launch (R302). -/
def State.shape (s : State) (t : Nat) : Nat × Nat :=
  match s.launchOf t with
  | some l => (l.record.x, l.record.y)
  | none => (0, 0)

/-- The physical tile of a logical tile of the launch t runs; none outside the shape (R76). -/
def State.physical (s : State) (t lt : Nat) : Option Nat :=
  match s.launchOf t with
  | some l => if lt < l.record.x * l.record.y then l.tiles[lt]? else none
  | none => none

/-- The logical tile at index i of a tile's sorus; none outside the shape (R131). -/
def State.sorusMember (s : State) (t i : Nat) : Option Nat :=
  let (x, y) := s.shape t
  let lt := (s.tile t).ltile
  let px := 4 * (lt % x / 4) + i % 4
  let py := 4 * (lt / x / 4) + i / 4
  if 0 < x ∧ px < x ∧ py < y then some (py * x + px) else none

/-- A tile's own index in its sorus (R131). -/
def State.sorusIndex (s : State) (t : Nat) : Nat :=
  let (x, _) := s.shape t
  let lt := (s.tile t).ltile
  if x = 0 then 0 else 4 * (lt / x % 4) + lt % x % 4

/-- The least scope of R327 that holds the locations of another tile, seen from tile t. -/
def State.tileScope (s : State) (t u : Nat) : Nat :=
  if u = t then 1
  else
    let (x, _) := s.shape t
    let (y, _) := s.shape u
    let a := (s.tile t).ltile
    let b := (s.tile u).ltile
    if 0 < x ∧ x = y ∧ (s.tile t).launch = (s.tile u).launch ∧ a % x / 4 = b % x / 4 ∧ a / x / 4 = b / x / 4 then 2
    else if dieOf t = dieOf u then 3
    else 4

/-- The least scope that holds what a packet accesses; an address in HBM counts as of the die (R327, R329). -/
def State.packetScope (s : State) (p : Packet) : Nat :=
  match p.body with
  | .lsu _ _ _ _ => 3
  | _ => s.tileScope p.src p.dst

/-- Strand k of tile t's accesses within a scope that are not yet performed (R329, R330). -/
def State.earlier (s : State) (t k scope : Nat) : List Nat :=
  if scope = 0 then []
  else
    ((s.flight.filter fun p => p.src == t && p.slot == k && decide (s.packetScope p ≤ scope)).map Packet.id)
      ++ ((s.strand t k).window.filter fun w => w.state != 0 && decide (3 ≤ scope)).map WinEnt.id
      ++ ((s.tile t).gets.filter fun g => g.slot == k).map NetOp.id

/-- The partition of the tile's launch. -/
def State.partOf (s : State) (t : Nat) : Nat :=
  match s.launchOf t with
  | some l => l.part
  | none => 288

/-- The partition p. -/
def State.part (s : State) (p : Nat) : Part := Map.find Part.reset s.parts p

def State.setPart (s : State) (p : Nat) (x : Part) : State := { s with parts := Map.set s.parts p x }

/-- The firmware is to retire the stipe of a loaded tile, and so to restore its partition (R384). -/
def State.askRetire (s : State) (t : Nat) : State :=
  let p := s.partOf t
  let x := s.part p
  if (s.launchOf t).isNone ∨ isService t ∨ x.recov.contains (t, 16, 0x32) then s
  else s.setPart p { x with recov := x.recov ++ [(t, 16, 0x32)] }

/-- The parcel at an address of a kernel object; none at or beyond its end (R34). -/
def KObj.parcel (o : KObj) (a : Nat) : Option (BitVec 16) :=
  if a < o.len then some (Map.find 0 o.parcels a) else none

/-- n parcels from an address, stopping at the end of the object. -/
def KObj.fetch (o : KObj) (a n : Nat) : List (BitVec 16) :=
  match n with
  | 0 => []
  | n + 1 =>
    match o.parcel a with
    | some p => p :: o.fetch (a + 1) n
    | none => []

/-- The parcels from an address of the object a tile runs (log entry 7). -/
def State.parcels (s : State) (t a n : Nat) : List (BitVec 16) :=
  match s.objOf t with
  | some o => o.fetch a n
  | none => []

/-! ## Logs (R383) -/

def Log.reset : Log := { ents := [], lhead := 0, lost := 0 }

/-- The key of a log: a tile by TILEID, else one of these. -/
def logL2 (d : Nat) : Nat := 16384 + d
def logStack (k : Nat) : Nat := 16400 + k
def logIod (d : Nat) : Nat := 16432 + d

/-- Write an entry, or count a repetition of the newest (R383). -/
def Log.add (l : Log) (e : LogEnt) : Log :=
  match l.ents with
  | n :: r =>
    if n.kind = e.kind ∧ n.addr = e.addr then { l with ents := { n with count := n.count + 1 } :: r }
    else
      { ents := (e :: l.ents).take 256, lhead := l.lhead + 1
        lost := l.lost + (match l.ents[255]? with
          | some o => if o.read then 0 else 1
          | none => 0) }
  | [] => { l with ents := [e], lhead := l.lhead + 1 }

/-- Log an event. -/
def State.log (s : State) (key kind level src : Nat) (addr synd : Word) : State :=
  { s with
    logs := Map.set s.logs key ((Map.find Log.reset s.logs key).add
      { time := s.time, kind := kind, level := level, src := src, count := 1, addr := addr, synd := synd,
        read := false }) }

/-- Raise a host interrupt (R324, R387). -/
def State.hostIntr (s : State) (fn v : Nat) : State := { s with hostOut := s.hostOut ++ [.intr fn v] }

/-- The error vector and the fault-ring vector of IRQV (R387). -/
def State.errIntr (s : State) : State := s.hostIntr 0 (s.irqv.bits 15 0)

def State.faultIntr (s : State) : State := s.hostIntr 0 (s.irqv.bits 31 16)

/-! ## Reservations and the pool (R132, R224, R233) -/

/-- Record that the wrs of a strand ends with a code (R234). -/
def wakeWrs (st : Strand) (code : Word) (c : Nat) : Strand :=
  match st.block with
  | some (.wrs _ _ _ _) =>
    let st := { st with block := none }
    st.setBank (st.bank.push .atm (some code) none 0 c true false)
  | _ => st

/-- A reservation recorded at tile t is lost; a waiting wrs ends with code 0. -/
def loseResv (s : State) (t : Nat) (e : ResvEnt) : State :=
  let st := s.strand e.tile e.slot
  if st.resv = some { tile := t, granule := e.granule } then
    s.setStrand e.tile e.slot (wakeWrs { st with resv := none } 0 (s.tile e.tile).cycle)
  else s

/-- Granules touched by n bytes at an offset. -/
def touches (off n g : Nat) : Bool := decide (off / 64 ≤ g ∧ 64 * g < off + n)

/-- A write of n bytes at an offset breaks the reservations on its granules (R233). -/
def State.breakResv (s : State) (t off n : Nat) : State :=
  let x := s.tile t
  let hit := x.resv.filter fun e => touches off n e.granule
  let s := hit.foldl (fun s e => loseResv s t e) s
  let x := s.tile t
  s.setTile t { x with resv := x.resv.filter fun e => !(touches off n e.granule) }

/-- The 64-bit words wholly inside n bytes at an offset lose their latent errors (R380). -/
def clearBad (bad : List Nat) (off n : Nat) : List Nat :=
  bad.filter fun b => !(decide (off ≤ b ∧ b + 8 ≤ off + n))

/-- One pool event: write bytes at an offset of tile t's pool. -/
def State.poolWrite (s : State) (t off : Nat) (bs : List Byte) : State :=
  let x := s.tile t
  let s := s.setTile t { x with pool := x.pool.writeBytes off bs, poolBad := clearBad x.poolBad off bs.length }
  if x.resv.isEmpty then s else s.breakResv t off bs.length

/-- One pool event: read n bytes at an offset of tile t's pool. -/
def State.poolRead (s : State) (t off n : Nat) : List Byte := (s.tile t).pool.readBytes off n

/-- A 64-bit word among these bytes holds an uncorrectable error (R380). -/
def hasBad (bad : List Nat) (off n : Nat) : Option Nat := bad.find? fun b => decide (b < off + n ∧ off < b + 8)

/-- A locked reservation of tile t holds writes to these bytes (R235). -/
def State.lockedOut (s : State) (t off n : Nat) : Bool :=
  (s.tile t).resv.any fun e => e.locked.isSome && touches off n e.granule

/-- A fault of an operation that has left its word waits for the strand's next boundary (R348). -/
def State.report (s : State) (t k id cause : Nat) (info : Word) : State :=
  let st := s.strand t k
  s.setStrand t k { st with pend := Map.set st.pend id (cause, info) }

/-- The words of a list that n bytes at an offset touch. -/
def wordsIn (bad : List Nat) (off n : Nat) : List Nat := bad.filter fun b => decide (b < off + n ∧ off < b + 8)

/-- A read that meets correctable errors corrects and logs them (R379, R380). -/
def State.poolScrub (s : State) (t off n : Nat) : State :=
  let hit := wordsIn (s.tile t).poolWeak off n
  if hit.isEmpty then s
  else
    let x := s.tile t
    hit.foldl (fun s b => s.log t 0 0 t (BitVec.ofNat 64 b) (Config.syndrome s.oracle))
      (s.setTile t { x with poolWeak := x.poolWeak.filter fun b => !hit.contains b })

/-- An uncorrectable error is found in a tile whose storage shows one again after its word was rewritten (R384). -/
def State.recurred (s : State) (t : Nat) : State := if s.recurs.contains t then s.askRetire t else s

/-- The log entry of an uncorrectable error in a tile's pool. -/
def State.poolLog (s : State) (t off : Nat) : State :=
  (s.log t 1 0 t (BitVec.ofNat 64 off) (Config.syndrome s.oracle)).recurred t

/-- A semaphore, an inbox entry, a table entry or a line of the parcel cache holds an uncorrectable error (R379). -/
def Tile.isBad (x : Tile) (l : ScrubLoc) : Bool := x.cellBad.contains l

/-- Such a cell is written anew, and holds no error. -/
def Tile.renew (x : Tile) (l : ScrubLoc) : Tile :=
  { x with cellBad := x.cellBad.filter (· != l), cellWeak := x.cellWeak.filter (· != l) }

/-- A read of such a cell corrects and logs a correctable error (R379). -/
def State.cellFix (s : State) (t : Nat) (l : ScrubLoc) : State :=
  let x := s.tile t
  if x.cellWeak.contains l then
    ((s.setTile t { x with cellWeak := x.cellWeak.filter (· != l) }).log t 0 0 t (Config.openWord s.oracle)
      (Config.syndrome s.oracle)).tick
  else s

/-- A table entry or a line of the parcel cache is read: one with an uncorrectable error is logged and loaded again from the
kernel object (R379). -/
def State.cellReload (s : State) (t : Nat) (l : ScrubLoc) : State :=
  if (s.tile t).isBad l then
    let s := s.poolLog t (Config.openWord s.oracle).toNat
    (s.setTile t ((s.tile t).renew l)).tick
  else s.cellFix t l

/-- A common register of a tile (R112, R119). -/
def State.creg (s : State) (t n : Nat) : Word := BitVec.ofNat 64 (leNat (s.poolRead t (8 * n) 8))

def State.setCreg (s : State) (t n : Nat) (v : Word) : State := s.poolWrite t (8 * n) (leBytes v.toNat 8)

/-- The strand gives up its reservation, here and at its target. -/
def State.endResv (s : State) (t k : Nat) : State :=
  let st := s.strand t k
  match st.resv with
  | none => s
  | some r =>
    let s := s.setStrand t k { st with resv := none }
    let x := s.tile r.tile
    s.setTile r.tile { x with resv := x.resv.filter fun e => !(e.tile == t && e.slot == k) }

/-! ## Starting strands in free slots (R253, R296, R311, R316) -/

/-- xs64 of R68. -/
def xs64 (k : Word) : Word :=
  let k := if k = 0 then 0x9E3779B97F4A7C15 else k
  let k := k ^^^ (k <<< 13)
  let k := k ^^^ (k >>> 7)
  k ^^^ (k <<< 17)

/-- Seed a new strand's SRKEY from the strand in slot k, which draws (R68). -/
def Tile.seed (x : Tile) (k : Nat) : Tile × Word :=
  let st := x.strand k
  let key := xs64 st.srkey
  (x.setStrand k { st with srkey := key }, key ^^^ 0xD1B54A32D192ED03)

/-- Slot k of a tile has a vector file (R112). -/
def Tile.hasVec (x : Tile) (k : Nat) : Bool := decide (k < 2 * (x.partword.bits 7 0 - 1))

/-- n zero bytes. -/
def zeros (n : Nat) : List Byte := List.replicate n 0

/-- Zero the vector file of slot k, where there is one (R177). -/
def Tile.zeroVec (x : Tile) (k : Nat) : Tile :=
  if x.hasVec k then
    let lo := 0x4000 + 0x2000 * k
    { x with pool := x.pool.filter fun c => decide (c.1 < lo ∨ lo + 0x2000 ≤ c.1) }
  else x

/-- A live strand at an address with s-registers, MODE, FMT and SRKEY given, all else as R116 and R296 give. -/
def Strand.fresh (pc : BitVec 24) (regs : List Word) (mode : BitVec 24) (fmt : BitVec 16) (key : Word)
    (cycle : Nat) (irq : Strand) : Strand :=
  { Strand.reset with
    status := .live, pc := pc, ia := pc, regs := (List.range 10).zip regs, mode := mode, fmt := fmt, srkey := key
    last := cycle, scSeq := irq.scSeq }

/-- A strand as it starts on tile t: a service tile runs supervisor code only (R397). -/
def Strand.startOn (st : Strand) (t : Nat) : Strand :=
  if isService t then { st with sstat := setBit16 st.sstat 0 true } else st

/-- A bank whose results still under way are discarded (R297). -/
def Bank.settled (b : Bank) : Bank := { b with res := b.res.filter fun r => r.due.isSome && !r.wait }

/-- A strand that has ended: what was under way is gone, and its registers, latches and saved trap registers stand as it
left them (R403, R408, R411), until the slot starts another strand (R116, R296). -/
def Strand.ended (st : Strand) : Strand :=
  { Strand.reset with
    regs := st.regs, pw := st.pw, pc := st.pc, ia := st.ia, tbank := st.tbank, ret := st.ret, sdepth := st.sdepth
    mode := st.mode, fmt := st.fmt, srkey := st.srkey, mxs := st.mxs, issue := st.issue, sstat := st.sstat, spc := st.spc
    scause := st.scause, sinfo := st.sinfo, sds := st.sds, xstep := st.xstep, user := st.user.settled
    trap := st.trap.settled, scSeq := st.scSeq }

/-- The slots that .strands lets the tile use (R310). -/
def State.slotLimit (s : State) (t : Nat) : Nat :=
  match s.objOf t with
  | some o => o.strands
  | none => 16

/-- The free helper slots of a tile, ascending (R311). -/
def State.freeSlots (s : State) (t : Nat) : List Nat :=
  slots.filter fun k => decide (0 < k ∧ k < s.slotLimit t) && (s.strand t k).status == .free

/-- The own-pool and sorus-pool bases (R116). -/
def ownBase : Word := 0xF000000000000000
def sorusBase : Word := 0xE100000000000000

/-- Start the handler of waiting-task entry e in slot k (R316). -/
def startHandler (s : State) (t k i : Nat) (e : Wtt) : State :=
  let x := s.tile t
  let (x, key) := x.seed 0
  let mode := if e.pri then e.mode ||| 0x020000 else e.mode &&& ~~~ 0x020000
  let st := Strand.fresh e.pc [BitVec.ofNat 64 x.ltile, e.arg, BitVec.ofNat 64 e.val, ownBase, sorusBase] mode e.fmt
    key x.cycle (x.strand k)
  let st := { st with sstat := setBit16 st.sstat 5 true }
  s.setTile t ({ x with wtt := Map.erase x.wtt i }.zeroVec k |>.setStrand k (st.startOn t))

/-- Start an arriving strand in slot k (R254, R255). One that waited in the arrival queue has its SRKEY seeded here, where it
takes the slot: the manual says at the time of its arrival (DESIGN CHOICE, log entry 73). -/
def startArrival (s : State) (t k : Nat) (m : MigPkt) : State :=
  let x := s.tile t
  let (x, key) := x.seed 0
  let st := Strand.fresh m.pc m.regs m.mode m.fmt key x.cycle (x.strand k)
  s.setTile t ((x.zeroVec k).setStrand k ({ st with pw := m.pw ||| 1, ret := m.ret, tbank := m.tbank }.startOn t))

/-- The satisfied entry that was armed first (R311). -/
def Tile.satisfied (x : Tile) : Option (Nat × Wtt) :=
  (x.wtt.filter fun e => e.2.state == 2).foldl
    (fun b e => match b with
      | none => some e
      | some c => if e.2.stamp < c.2.stamp then some e else some c) none

/-- Give free slots to satisfied entries, then to the arrival queue (R311). -/
def assignSlots (n : Nat) (s : State) (t : Nat) : State :=
  match n with
  | 0 => s
  | n + 1 =>
    match s.freeSlots t with
    | [] => s
    | k :: _ =>
      match (s.tile t).satisfied with
      | some (i, e) => assignSlots n (startHandler s t k i e) t
      | none =>
        match (s.tile t).arrq with
        | m :: r =>
          let x := s.tile t
          assignSlots n (startArrival (s.setTile t { x with arrq := r }) t k m) t
        | [] => s

/-! ## Semaphores (R332, R337) -/

/-- Test a held sem.wait against a change (R337). -/
def meetWait (idx v : Nat) (err : Bool) (st : Strand) : Strand :=
  match st.hold with
  | some h =>
    match h.sem with
    | some w =>
      if w.sem = idx ∧ w.met = none ∧ !w.tout ∧ serialGe v w.thr 32 then
        { st with hold := some { h with sem := some { w with met := some (v, err) } } }
      else st
    | none => st
  | none => st

/-- Test an armed entry against a change (R315). -/
def meetEntry (idx v : Nat) (e : Wtt) : Wtt :=
  if e.state = 1 ∧ e.sem = idx ∧ serialGe v e.thr 32 then { e with state := 2, val := v } else e

/-- A semaphore of a tile. -/
def Tile.sem (x : Tile) (i : Nat) : Sem := Map.find { s := 0, err := false } x.sems i

/-- The wait of a matrix command names semaphore idx, and a value meets its threshold (R200, R207). -/
def MxCmd.waitMet (c : MxCmd) (idx v : Nat) : Bool :=
  leNat ((c.line.drop 2).take 1) == idx && serialGe v (leNat ((c.line.drop 4).take 4)) 32

/-- Test the wait of the command at the head of the starting order against a change (R207, R337). -/
def meetMx (idx v : Nat) (q : List MxCmd) : List MxCmd :=
  match q with
  | [] => []
  | c :: r =>
    if c.phase = 2 then c :: meetMx idx v r
    else { c with met := c.met || c.phase == 0 && c.waitMet idx v } :: r

/-- One change of semaphore idx of tile t, tested by every wait (R332, R337). -/
def State.semChange (s : State) (t idx : Nat) (v : Sem) : State :=
  let x := s.tile t
  s.setTile t { x with
    sems := Map.set x.sems idx v
    strands := x.strands.map fun e => (e.1, meetWait idx v.s v.err e.2)
    wtt := x.wtt.map fun e => (e.1, meetEntry idx v.s e.2), mxq := meetMx idx v.s x.mxq }

/-- Free slots go to what waits for them (R311). -/
def State.settleSlots (s : State) (t : Nat) : State :=
  if (s.tile t).wtt.isEmpty && (s.tile t).arrq.isEmpty then s else assignSlots 32 s t

/-- An event reads and writes a semaphore: an error it meets is corrected, or logged with the error vector (R380). -/
def State.semFound (s : State) (t idx : Nat) : State :=
  if (s.tile t).isBad (.sem t idx) then ((s.poolLog t (Config.openWord s.oracle).toNat).errIntr).tick
  else s.cellFix t (.sem t idx)

/-- Add to a semaphore within a word: slots are assigned at the end of its cycle (R311, R332). -/
def State.semAddNow (s : State) (t idx inc : Nat) (err : Bool) : State :=
  if idx = 0xFF then s
  else
    let s := s.semFound t idx
    let v := (s.tile t).sem idx
    s.semChange t idx { s := (v.s + inc) % 2 ^ 32, err := v.err || err }

/-- Add to a semaphore, with error status when err; index 0xFF names none (R332). -/
def State.semAdd (s : State) (t idx inc : Nat) (err : Bool) : State := (s.semAddNow t idx inc err).settleSlots t

/-! ## Taking a trap and returning (R344 to R352) -/

/-- What a cause does where no handler is bound (R344). -/
inductive Default where
  | discard | stop | recover
deriving DecidableEq, Repr

def defaultOf (cause : Nat) : Default :=
  if cause = 0x2A ∨ cause = 0x2B ∨ cause = 0x2E ∨ cause = 0x34 ∨ cause = 0x35 ∨ cause = 0x36 then .discard
  else if cause = 0x31 ∨ cause = 0x32 then .recover
  else .stop

/-- SDS for a delay state (R293). -/
def encodeSds (d : Option Delay) : Word :=
  match d with
  | none => 0
  | some d =>
    0x8000000000000000 ||| (BitVec.ofNat 64 d.cnt <<< 28) ||| (Word.ofBool d.annul <<< 27)
      ||| (Word.ofBool d.taken <<< 26) ||| (if d.taken then d.target.zeroExtend 64 else 0)

/-- The delay state that SDS restores: CNT 3 acts as 2, CNT 0 is resolved at once by the caller (R293). -/
def decodeSds (v : Word) : Option Delay :=
  if v.bit 63 then
    some { cnt := min (v.bits 29 28) 2, annul := v.bit 27, taken := v.bit 26, target := v.truncate 24 }
  else none

/-- XSTEP (R345). -/
def encodeXstep (icause rep step : Nat) : Word :=
  BitVec.ofNat 64 (icause % 64 * 2 ^ 24 + rep % 256 * 2 ^ 16 + step % 65536)

/-- The address a kernel binds to a cause. -/
def State.vector (s : State) (t cause : Nat) : Option (BitVec 24) :=
  match s.objOf t with
  | some o => Map.get? o.handlers cause
  | none => none

/-- The launch id of a tile's launch. -/
def State.lidOf (s : State) (t : Nat) : Word :=
  match s.launchOf t with
  | some l => l.record.lid
  | none => 0

/-- A strand stops: its fault record waits in the tile, or on a service tile a log entry is written (R351). -/
def State.stopStrand (s : State) (t k cause first : Nat) (sup : Bool) (spc info xstep sds : Word) : State :=
  let st := s.strand t k
  let s := s.setStrand t k { st with status := .stopped, hold := none }
  if isService t then
    (s.log (logIod (dieOf t)) 10 0 t spc (BitVec.ofNat 64 (cause + 256 * first))).errIntr
  else
    let x := s.tile t
    s.setTile t { x with faultq := x.faultq ++
      [{ cause := cause, first := first, ltile := x.ltile, slot := k, sup := sup, spc := spc, sinfo := info,
         xstep := xstep, sds := sds, time := s.time, lid := s.lidOf t }] }

/-- The strand has fired a cu.halt or net.go that has not ended it yet. -/
def Strand.leaving (st : Strand) : Bool := st.ending || st.going.isSome

/-- An operation's fault has been reported and its trap is still to be taken (R105, R348). -/
def Strand.isPending (st : Strand) (id : Nat) : Bool := (Map.get? st.pend id).isSome

/-- The operation is suspended until its strand's trap has been taken and has returned. -/
def Strand.keepsBack (st : Strand) (k slot id : Nat) (now : Bool) : Bool := if slot = k then now && st.isPending id else now

/-- The window at a return: its requests are sent again, so the faults it has reported are reported anew (R85). -/
def Strand.rewind (st : Strand) : Strand :=
  { st with
    pend := st.pend.filter fun e => !(st.window.any fun w => w.state != 0 && w.id == e.1)
    window := st.window.map fun w => { w with state := 0 } }

/-- A vec.ld that met an uncorrectable error counts as a latched operation, which a return with NORF discards (R181, R350). -/
def dropLoads (s : State) (t k : Nat) : State :=
  let st := s.strand t k
  let gone (p : Packet) : Bool := p.src == t && p.slot == k && p.stop && !st.isPending p.id && match p.body with
    | .vmem _ => true
    | _ => false
  if !st.norf ∨ !s.flight.any gone then s
  else
    { s.setStrand t k { st with user := st.user.withdraw .vec, trap := st.trap.withdraw .vec } with
      flight := s.flight.filter fun p => !gone p }

/-- Resume the requests of the window in trigger order: each is sent again; suspended atomics and pool accesses whose
trap has been taken go on (R85, R228). -/
def resendWindow (s : State) (t k : Nat) : State :=
  let st := s.strand t k
  let again := st.window.filter fun w => w.state != 0
  let s := s.setStrand t k st.rewind
  { s with
    flight := (s.flight.map fun p => if p.src = t then { p with stop := st.keepsBack k p.slot p.id p.stop } else p)
      ++ again.map fun w =>
        { id := w.id, src := t, slot := k, dst := t, body := .lsu w.kind w.far w.trap none, after := w.after,
          stop := false } }

/-- Let the strand's suspended copies, puts, gets and matrix commands go on whose trap has been taken (R105, R209,
R245). -/
def Tile.resumeEngines (x : Tile) (k : Nat) : Tile :=
  let st := x.strand k
  { x with
    copies := x.copies.map fun e =>
      if e.2.owner = k ∧ e.2.state = 3 ∧ !e.2.abort ∧ st.isPending e.2.id = false then (e.1, { e.2 with state := 2 }) else e
    gets := x.gets.map fun g => { g with suspended := st.keepsBack k g.slot g.id g.suspended }
    mxq := x.mxq.map fun c => { c with suspended := st.keepsBack k c.slot c.id c.suspended } }

/-- SSTAT after a return: mode and enables from PSUP and PIE, the user bank, NORF clear (R350). -/
def eretSstat (ss : BitVec 16) : BitVec 16 :=
  setBit16 (setBit16 (setBit16 (setBit16 ss 0 (ss.getLsbD 14)) 1 (ss.getLsbD 15)) 2 false) 4 false

/-- The delay state that SDS restores is resolved at once: its last delay issue was the word that trapped (R293). -/
def eretNow (d : Option Delay) : Bool :=
  match d with
  | some d => d.cnt == 0
  | none => false

/-- Where fetch goes at a return: SPC, or the target of a taken delay that is resolved at once (R293, R350). -/
def Strand.eretPc (st : Strand) (d : Option Delay) : BitVec 24 :=
  match d with
  | some d => if d.cnt = 0 ∧ d.taken ∧ st.savedExp = none then d.target else st.spc.truncate 24
  | none => st.spc.truncate 24

/-- An expansion goes on at the step of XSTEP (R109, R162, R350). -/
def eretExp (xstep : Word) (last : Option Delay) (e : Exp) : Exp :=
  let step := match e.op with
    | .blk => xstep.bits 15 0
    | _ => min (xstep.bits 15 0) 5
  { e with step := step, last := last, resumed := true, fault := none }

/-- What a return to index rep of the parcel at go keeps of the interrupted repetition: its word guard, evaluated once
(R30), and for an overlay's entry its word; any other entry is read again (R39). An expansion of repetition 0 keeps it for
the repetitions that follow. A return to another parcel keeps nothing, so that its entry is read, with the TBANK check, and
its guard evaluated at the index of XSTEP (DESIGN CHOICE, log entry 73). -/
def keptRep (saved : Option RepSave) (go : BitVec 24) (rep : Nat) (exp : Bool) : Option RepSave :=
  match saved with
  | some r => if (rep = 0 && !exp) || r.pc != go then none else some { r with reread := !r.overlaid }
  | none => none

/-- The registers' part of a return: the user bank, pc, the delay state, the repetition of XSTEP. -/
def Strand.eretRegs (st : Strand) (d : Option Delay) : Strand :=
  let now := eretNow d
  let go := st.eretPc d
  let rep := if now && go != st.spc.truncate 24 then 0 else st.xstep.bits 23 16
  { st with
    sstat := setBit16 st.sstat 2 false, pc := go, ia := go, pim := 0, pimRun := 0, delay := if now then none else d
    rep := rep, rword := keptRep st.savedRep go rep st.savedExp.isSome, savedRep := none }

/-- The operations' part of a return; NORF drops the latched operations. -/
def Strand.eretOps (st : Strand) (norf : Bool) (last : Option Delay) : Strand :=
  let refire := !norf && !st.latched.isEmpty
  { st with
    ending := st.savedEnding, going := st.savedGoing, savedEnding := false, savedGoing := none
    latched := if norf then [] else st.latched, latchedT := [], latchedDue := false, ereting := false, refire := refire
    exp := st.savedExp.map (eretExp st.xstep last), savedExp := none, hold := none, attempts := 0 }

/-- The end of a return: SUP, IE and NORF (R350). -/
def Strand.eretEnd (st : Strand) : Strand := { st with sstat := eretSstat st.sstat, refire := false }

/-- The strand's part of sys.eret: bank, delay state, SPC and XSTEP; SUP, IE and NORF once nothing is left to re-fire
(R350, log entry 59). The latched operations are re-fired by the issue that carries the eret (Machine/Issue.lean). -/
def Strand.eret (st : Strand) : Strand :=
  let d := decodeSds st.sds
  let st := (st.eretRegs d).eretOps st.norf (if eretNow d then d else none)
  if st.refire then st else st.eretEnd

/-- The device's part of a return: the strand's window and suspended operations go on, then the strand's own part. -/
def State.eret (s : State) (t k : Nat) : State :=
  let s := resendWindow (dropLoads s t k) t k
  let x := s.tile t
  let s := s.setTile t (x.resumeEngines k)
  s.setStrand t k (s.strand t k).eret

/-- Trap entry writes the trap bank, SPC, SCAUSE, SINFO, SDS and XSTEP anew; an error elsewhere stays (R380). -/
def staysBad (cell : Nat) : Bool := decide (cell < 0x1000 ∨ cell = sysCell 0 ∨ sysCell 6 ≤ cell)

/-- Trap entry: the saved registers are written, the mode and bank change, the delay state moves to SDS and the
strand's reservation ends (R233, R348). -/
def Strand.enter (st : Strand) (cause : Nat) (info : Word) (spc : BitVec 24) (xstep : Word) (id : Nat) : Strand :=
  let ss := st.sstat
  let ss := setBit16 ss 14 st.sup
  let ss := setBit16 ss 15 st.ie
  let ss := setBit16 ss 0 true
  let ss := setBit16 ss 1 false
  let ss := setBit16 ss 2 true
  { st with
    scause := BitVec.ofNat 64 cause, sinfo := info, spc := spc.zeroExtend 64, xstep := xstep
    sds := encodeSds st.delay, delay := none, sstat := ss, trap := Bank.reset, savedRep := st.rword, rword := none
    rep := 0, pim := 0, pimRun := 0, hold := none, latchedT := [], latchedDue := false, ereting := false, refire := false
    attempts := 0, savedEnding := st.ending, savedGoing := st.going, ending := false, going := none
    savedExp := st.exp
    exp := none, trapId := id, bad := st.bad.filter staysBad, weak := st.weak.filter staysBad }

/-- The command of the partition ends: RES and the fault-ring vector. -/
def State.finish (s : State) (p cmd res : Nat) : State :=
  let x := s.part p
  if x.busy ∧ x.cmd = cmd then (s.setPart p { x with busy := false, res := res }).faultIntr else s

/-- A resumed strand has made its next issue, or traps again: the RESUME command ends (R388). -/
def State.resumed (s : State) (t k : Nat) : State :=
  let p := s.partOf t
  if (s.part p).tgt = ((s.tile t).ltile, k) then s.finish p 4 1 else s

/-- Take a trap: enter the handler, or the cause's default; a trap in a handler stops the strand, and a tile that raises
0x32 is retired then too (R348, R351, R384). -/
def enterTrap (s : State) (t k cause : Nat) (info : Word) (spc : BitVec 24) (xstep : Word) : State :=
  let s := (s.resumed t k).setStrand t k (wakeWrs (s.strand t k) 3 (s.tile t).cycle)
  let st := s.strand t k
  let s := s.endResv t k
  if st.tl then
    let s := if cause = 0x32 then s.askRetire t else s
    (s.setStrand t k { (s.strand t k) with twice := cause }).stopStrand t k cause st.scause.toNat st.sup
      (spc.zeroExtend 64) info xstep (encodeSds st.delay)
  else
    let s := s.setStrand t k ((s.strand t k).enter cause info spc xstep s.nextId)
    match s.vector t cause with
    | some pc => s.setStrand t k { (s.strand t k) with pc := pc, ia := pc }
    | none =>
      match defaultOf cause with
      | .discard => s.eret t k
      | .stop =>
        let e := s.strand t k
        s.stopStrand t k cause 0 st.sup e.spc e.sinfo e.xstep e.sds
      | .recover =>
        if isService t then
          let e := s.strand t k
          s.stopStrand t k cause 0 st.sup e.spc e.sinfo e.xstep e.sds
        else
          let e := s.strand t k
          let s := s.setStrand t k { e with status := .stopped }
          let p := s.partOf t
          s.setPart p { (s.part p) with recov := (s.part p).recov ++ [(t, k, cause)] }

/-- The state of a strand's next parcel as XSTEP gives it (R39). -/
def Strand.xrep (st : Strand) : Word := encodeXstep 0 st.rep 0

/-- Take a cause whose word has had no effect: SPC is that word (kind P, R345). -/
def trapP (s : State) (t k cause : Nat) (info : Word) : State :=
  let st := s.strand t k
  enterTrap s t k cause info st.ia st.xrep

/-- The next parcel is a table-bank select that the kernel allows: it acts before the next issue (R32, R33). -/
def State.bankAhead (s : State) (t : Nat) (pc : BitVec 24) : Option (BitVec 8) :=
  match s.objOf t with
  | some o =>
    match decodeParcels (o.fetch pc.toNat 1) with
    | .ok (.bank n) => if o.overlays.isEmpty then none else some n
    | _ => none
  | none => none

/-- The parcels of the object that a tile runs: no run of parcels is longer. -/
def State.objLen (s : State) (t : Nat) : Nat :=
  match s.objOf t with
  | some o => o.len
  | none => 0

/-- A strand past the table-bank selects before its next issue, at most n of them (R32 to R34). -/
def State.pastBanks (s : State) (t n : Nat) (st : Strand) : Strand :=
  match n with
  | 0 => st
  | n + 1 =>
    match s.bankAhead t st.pc with
    | some b => s.pastBanks t n { st with tbank := b, pc := st.pc + 1, ia := st.pc + 1 }
    | none => st

/-- A strand as its next issue finds it (R34). -/
def State.atIssue (s : State) (t : Nat) (st : Strand) : Strand :=
  if st.rep = 0 ∧ st.pimRun = 0 then s.pastBanks t (s.objLen t) st else st

/-- Let table-bank selects before the next issue act, so that SPC names the issue (R34). -/
def settle (s : State) (t k : Nat) : State := s.setStrand t k (s.atIssue t (s.strand t k))

/-- Take a cause between two issues: SPC is the next issue (kinds A and I, R345). -/
def trapNext (s : State) (t k cause : Nat) (info : Word) : State :=
  let st := s.strand t k
  match st.exp with
  | none => trapP (settle s t k) t k cause info
  | some e =>
    let d := match e.last with
      | some d => some { d with cnt := 0 }
      | none => st.delay
    let x := s.tile t
    let s := s.setTile t { x with fpaOwner := if x.fpaOwner = some k then none else x.fpaOwner }
    enterTrap (s.setStrand t k { st with delay := d }) t k cause info e.ia (encodeXstep 0 e.rep e.step)

/-- A step of an expansion has failed: its trap is taken at the strand's boundary (R345, R348). -/
def expFault (s : State) (t k : Nat) (e : Exp) (icause : Nat) (info : Word) : State :=
  s.setStrand t k { (s.strand t k) with exp := some { e with fault := some (icause, info) } }

/-- Take the fault of an expansion (kind X, R345): SPC is the triggering word and XSTEP records the step. -/
def trapExp (s : State) (t k : Nat) (e : Exp) (icause : Nat) (info : Word) : State :=
  let st := s.strand t k
  let d := match e.last with
    | some d => some { d with cnt := 0 }
    | none => st.delay
  enterTrap (s.setStrand t k { st with delay := d, exp := some e }) t k 0x37 info e.ia (encodeXstep icause e.rep e.step)

/-! ## Interrupts (R352) -/

/-- The slot can take an interrupt of this cause: its strand is live and its kernel binds the cause. -/
def State.takesIrq (s : State) (t k cause : Nat) : Bool :=
  (s.strand t k).status == .live && (s.vector t cause).isSome

/-- Let waiting 0x36 interrupts enter their queues in order, each holding back the later ones; one that enters, or is
discarded, has been received (R352, R361). -/
def enter36 (n : Nat) (s : State) (t : Nat) : State :=
  match n with
  | 0 => s
  | n + 1 =>
    match (s.tile t).wait36 with
    | [] => s
    | q :: r =>
      let x := s.tile t
      let st := x.strand q.slot
      if !(s.takesIrq t q.slot 0x36) then enter36 n ((s.setTile t { x with wait36 := r }).countRcvd t) t
      else if st.irq36.length < 4 then
        enter36 n ((s.setTile t ({ x with wait36 := r }.setStrand q.slot { st with irq36 := st.irq36 ++ [q.info] })).countRcvd t) t
      else s

/-- A 0x36 interrupt reaches its tile. -/
def State.irq36 (s : State) (t : Nat) (i : Irq36) : State :=
  let x := s.tile t
  enter36 (x.wait36.length + 1) (s.setTile t { x with wait36 := x.wait36 ++ [i] }) t

/-- A 0x35 interrupt reaches a slot: payloads merge (R352). -/
def State.irq35 (s : State) (t k : Nat) (pay : BitVec 32) : State :=
  if s.takesIrq t k 0x35 then
    let st := s.strand t k
    s.setStrand t k { st with irq35 := some (pay ||| st.irq35.getD 0) }
  else s

end Sys2Proof.Machine
end

