-- ==== Sys2Proof/Machine/Operands.lean ====
section
/-! DEFINITION. Operand forms: reading a source port, writing a register or operand port, 64-bit addresses by class, their
partition checks, SINFO of memory traps, and translation. -/
namespace Sys2Proof.Machine

/-! ## Sources (R15, R19, R21, R121) -/

/-- STIPEIMB for a tile (R368). -/
def stipeKey (t : Nat) : Nat := dieOf t * 150 + rowOf t / 4 * 25 + colOf t

def Stipe.reset : Stipe := { str := 0, devs := [0, 0, 0, 0], hist := [], next := 1000, hot := 0 }

/-- A signed deviation as its byte. -/
def devByte (d : Int) : Nat := (d % 256).toNat

def State.stipeimb (s : State) (t : Nat) : Word :=
  let p := Map.find Stipe.reset s.stipes (stipeKey t)
  let x := s.tile t
  BitVec.ofNat 64 (p.str * 2 ^ 40 + x.rf * 2 ^ 36 + x.bal.toNat * 2 ^ 35 + t % 4 * 2 ^ 32
    + devByte (p.devs.getD 3 0) * 2 ^ 24 + devByte (p.devs.getD 2 0) * 2 ^ 16 + devByte (p.devs.getD 1 0) * 2 ^ 8
    + devByte (p.devs.getD 0 0))

/-- BUDGET for a strand (R322). -/
def State.budget (s : State) (t k : Nat) : Word :=
  let x := s.tile t
  let st := x.strand k
  let share : Int := if st.vgrant.1 = 0 then 0 else st.acct
  BitVec.ofNat 64 ((share % 2 ^ 32).toNat * 2 ^ 32 + x.wsum * 2 ^ 24 + x.q)

/-- tim.obj: the VA of the object's constant image (R93). -/
def State.timObj (s : State) (t : Nat) : Word :=
  match s.objOf t with
  | some o => o.va + BitVec.ofNat 64 o.constOff
  | none => 0

/-- PW as it is read: bit 0 set, bits [63:8] zero (R21). -/
def Strand.pwWord (st : Strand) : Word := (st.pw ||| 1).zeroExtend 64

/-- Predicate k; p0 reads 1 (R14). -/
def Strand.pred (st : Strand) (k : Nat) : Bool := k == 0 || st.pw.getLsbD k

/-- The value of a register or constant port for the strand in slot k of tile t (R40); limm is the word's own. -/
def State.readPlain (s : State) (t k : Nat) (limm : BitVec 24) (port : Nat) : Word :=
  let st := s.strand t k
  if 0x300 ≤ port then s.creg t (port - 0x300)
  else if 0x020 ≤ port ∧ port < 0x02A then Map.find 0 st.regs (port - 0x020)
  else
    match port with
    | 0x02A => st.pwWord
    | 0x02B => Word.ofBool (st.pred 1)
    | 0x02C => Word.ofBool (st.pred 2)
    | 0x02D => Word.ofBool (st.pred 3)
    | 0x02E => Word.ofBool (st.pred 4)
    | 0x02F => Word.ofBool (st.pred 5)
    | 0x030 => limm.signExtend 64
    | 0x031 => st.pim
    | 0x033 => BitVec.ofNat 64 s.time
    | 0x034 => BitVec.ofNat 64 st.issue
    | 0x035 => BitVec.ofNat 64 (s.tile t).ltile
    | 0x036 => BitVec.ofNat 64 t
    | 0x037 => BitVec.ofNat 64 k
    | 0x038 => s.stipeimb t
    | 0x039 => s.budget t k
    | 0x03A => Word.ofBool (st.pred 6)
    | 0x03B => Word.ofBool (st.pred 7)
    | 0x03C => s.timObj t
    | _ => 0

/-- Set predicate k from bit 0 of a value (R21). -/
def setPred (pw : BitVec 8) (k : Nat) (v : Word) : BitVec 8 :=
  if v.bit 0 then pw ||| BitVec.ofNat 8 (2 ^ k) else pw &&& ~~~ BitVec.ofNat 8 (2 ^ k)

/-- Write a register or operand port of the strand in slot k of tile t (R19, R21, R134). -/
def State.writePlain (s : State) (t k port : Nat) (v : Word) : State :=
  let st := s.strand t k
  if 0x300 ≤ port then s.setCreg t (port - 0x300) v
  else if 0x020 ≤ port ∧ port < 0x02A then s.setStrand t k { st with regs := Map.set st.regs (port - 0x020) v }
  else if port = 0x02A then s.setStrand t k { st with pw := (v.truncate 8 : BitVec 8) ||| 1 }
  else if 0x02B ≤ port ∧ port ≤ 0x02F then s.setStrand t k { st with pw := setPred st.pw (port - 0x02A) v }
  else if port = 0x03A ∨ port = 0x03B then s.setStrand t k { st with pw := setPred st.pw (port - 0x034) v }
  else
    let b := st.bank
    s.setStrand t k (st.setBank { b with ops := Map.set b.ops port v })

/-! ## Addresses (R75 to R78, R110 to R113, R131) -/

/-- A 64-bit address by class. -/
inductive Addr where
  | global (va : Word)
  | remote (lt off : Nat)
  | sorus (i off : Nat)
  | own (off : Nat)
deriving DecidableEq, Repr

/-- The class of an address, or the REASON of trap 0x0F: 0 undefined class, 1 zero bits set (R75). -/
def classify (a : Word) : Except Nat Addr :=
  let top := a.bits 63 56
  let off := a.bits 19 0
  if top ≤ 0xDF then .ok (.global a)
  else if top = 0xE0 then
    if a.bits 55 48 = 0 ∧ a.bits 31 20 = 0 then .ok (.remote (a.bits 47 32) off) else .error 1
  else if top = 0xE1 then
    if a.bits 55 36 = 0 ∧ a.bits 31 20 = 0 then .ok (.sorus (a.bits 35 32) off) else .error 1
  else if top = 0xF0 then
    if a.bits 55 20 = 0 then .ok (.own off) else .error 1
  else .error 0

/-- A global address lies in the local window page (R198). -/
def inWindowPage (a : Word) : Bool := decide (a.bits 63 56 ≤ 0xDF) && a.bits 55 16 == 0

/-- The three partitions of the pool (R111). -/
inductive Region where
  | register | accumulator | scratchpad
deriving DecidableEq, Repr

/-- The partition a pool offset lies in (R111). -/
def region (partword : Word) (off : Nat) : Region :=
  let regs := partword.bits 7 0
  let acc := partword.bits 15 8
  if off < 0x4000 * regs then .register
  else if off < 0x4000 * (regs + acc) then .accumulator
  else .scratchpad

/-- The tile and offset a pool-class address names; none outside the shape (R76, R131). -/
def State.poolTarget (s : State) (t : Nat) (a : Addr) : Option (Nat × Nat) :=
  match a with
  | .own off => some (t, off)
  | .sorus i off =>
    match s.sorusMember t i with
    | some lt => (s.physical t lt).map fun p => (p, off)
    | none => none
  | .remote lt off => (s.physical t lt).map fun p => (p, off)
  | .global _ => none

/-- SINFO of memory traps (R78). -/
def sinfo78 (reason level access : Nat) (a : Word) : Word :=
  BitVec.ofNat 64 (reason % 16 * 2 ^ 60 + level % 4 * 2 ^ 58 + access % 16 * 2 ^ 54 + a.bits 51 0)

/-- SINFO with REASON in [63:56] and a port id in [9:0] (R241, R314, R336). -/
def sinfoOp (reason port : Nat) : Word := BitVec.ofNat 64 (reason % 256 * 2 ^ 56 + port % 1024)

/-! ## Translation (R72 to R74, R80 to R86) -/

/-- A physical address is a hole (R74). -/
def isHole (pa : Nat) : Bool :=
  pa / 2 ^ 51 % 2 == 0 && (pa / 2 ^ 40 % 2048 != 0 || decide (0xC00000000 ≤ pa % 2 ^ 36))

/-- A physical address is in host space (R72). -/
def isHost (pa : Nat) : Bool := pa / 2 ^ 51 % 2 == 1

/-- The home die of an HBM address (R73). -/
def homeDie (pa : Nat) : Nat := pa / 2 ^ 36 % 16 / 2

/-- The channel of an HBM address (R73). -/
def channelOf (pa : Nat) : Nat := Nat.xor (pa % 2 ^ 36 / 256 % 32) (pa % 2 ^ 36 / 8192 % 32)

/-- CHCTL of the channel of an HBM address: EN in bit 0, TRAIN in bit 1 (R422). -/
def State.chanCtl (s : State) (pa : Nat) : BitVec 2 :=
  (Map.find HbmCh.reset s.hbmCh (pa / 2 ^ 36 % 16 * 32 + channelOf pa)).ctl

/-- The die L2 holds the line of a physical address (R87). -/
def State.inL2 (s : State) (pa : Nat) : Bool := s.l2.any fun e => e.1 == pa / 64

/-- A request for HBM that its die L2 does not hold meets a channel out of traffic: it waits at its controller (R422). -/
def State.training (s : State) (pa : Nat) : Bool := !isHost pa && (s.chanCtl pa).getLsbD 1 && !s.inL2 pa

/-- A request for HBM that its die L2 does not hold meets a channel out of service: it completes as an uncorrectable error
(R422). -/
def State.chanDown (s : State) (pa : Nat) : Bool := !isHost pa && s.chanCtl pa == 0 && !s.inL2 pa

/-- The 64-byte lines of n bytes at a physical address. -/
def linesOf (pa n : Nat) : List Nat := (List.range ((pa + n + 63) / 64 - pa / 64)).map fun i => pa / 64 + i

/-- One line is allocated in its die L2, or found there (R87); a line whose HBM copy holds an uncorrectable error is not
(R380). -/
def touchLine (bad : List Nat) (l2 : List (Nat × Bool)) (dirty : Bool) (i : Nat) : List (Nat × Bool) :=
  match l2.find? fun e => e.1 == i with
  | some e => if dirty && !e.2 then (i, true) :: l2.filter fun f => f.1 != i else l2
  | none => if bad.any fun b => b / 64 == i then l2 else (i, dirty) :: l2

/-- The lines of n bytes at an HBM address are in their die L2, dirty after a write (R87; eviction: log entry 64). -/
def State.touchL2 (s : State) (pa n : Nat) (dirty : Bool) : State :=
  { s with l2 := (linesOf pa n).foldl (fun l i => touchLine s.hbmBad l dirty i) s.l2 }

/-- The device of the domain that SUAP names for a host-space address (R393). -/
def State.suapDev (s : State) (pa : Nat) : Option Nat :=
  ((List.range 16).map fun k => Map.find 0 s.suap k).findSome? fun v =>
    if v.bit 63 && v.bits 39 30 == pa / 2 ^ 40 % 1024 then some (v.bits 57 48) else none

/-- Where another device's HBM is listed in State.far. -/
def farAt (dev pa : Nat) : Nat := dev * 2 ^ 40 + pa % 2 ^ 40

/-- n bytes at a physical address; host space is the host's memory (R72), or another device's HBM (R393). -/
def State.paRead (s : State) (pa n : Nat) : List Byte :=
  if isHost pa then s.hostMem.readBytes (pa % 2 ^ 50) n
  else s.hbm.readBytes pa n

/-- Write bytes at a physical address; whole HBM lines, and whole words of a die L2, lose their latent errors (R380). -/
def State.paWrite (s : State) (pa : Nat) (bs : List Byte) : State :=
  if isHost pa then { s with hostMem := s.hostMem.writeBytes (pa % 2 ^ 50) bs }
  else
    { s with
      hbm := s.hbm.writeBytes pa bs
      hbmBad := s.hbmBad.filter fun b => !(decide (pa ≤ b ∧ b + 64 ≤ pa + bs.length))
      l2Bad := s.l2Bad.filter fun b => !(decide (pa ≤ b ∧ b + 8 ≤ pa + bs.length)) }.touchL2 pa bs.length true

/-- A 64-bit word of HBM. -/
def State.pa64 (s : State) (pa : Nat) : Word := BitVec.ofNat 64 (leNat (s.paRead pa 8))

/-- A word among these bytes is in a dirty line of its die L2 with an uncorrectable error (R379). -/
def State.l2Fault (s : State) (pa n : Nat) : Bool := !isHost pa && (hasBad s.l2Bad pa n).isSome

/-- A line of HBM among these bytes that the die L2 does not hold has an uncorrectable error (R379). -/
def State.lineFault (s : State) (pa n : Nat) : Bool :=
  !isHost pa && s.hbmBad.any fun b => decide (b / 64 ≤ (pa + n - 1) / 64 ∧ pa / 64 ≤ b / 64) && !s.inL2 b

/-- A read of HBM that completes as an uncorrectable error: a latent one among its bytes, in the die L2 or in HBM (R379), or
a channel out of service (R422). -/
def State.hbmFault (s : State) (pa n : Nat) : Bool := s.chanDown pa || s.l2Fault pa n || s.lineFault pa n

/-- The level a read of HBM finds its error at: 2 the die L2, 3 HBM (R380). -/
def State.errLevel (s : State) (pa n : Nat) : Nat := if s.l2Fault pa n then 2 else 3

/-- The log of a level for a physical address (R383). -/
def levelLog (level pa : Nat) : Nat := if level = 2 then logL2 (homeDie pa) else logStack (pa / 2 ^ 36 % 16)

/-- Log the words of a level that a read has corrected (R380). -/
def State.logFixed (s : State) (level : Nat) (bs : List Nat) : State :=
  bs.foldl (fun s b => s.log (levelLog level b) 0 level (b / 2 ^ 36 % 16) (BitVec.ofNat 64 b) (Config.syndrome s.oracle)) s

/-- A read of HBM corrects and logs what can be corrected, in HBM and in the die L2 (R379, R380), and its lines are then in
the die L2 (R87). -/
def State.hbmScrub (s : State) (pa n : Nat) : State :=
  if isHost pa then s
  else
    let h := s.hbmWeak.filter fun b => decide (b / 64 ≤ (pa + n - 1) / 64 ∧ pa / 64 ≤ b / 64) && !s.inL2 b
    let l := wordsIn s.l2Weak pa n
    let s := { s with hbmWeak := s.hbmWeak.filter fun b => !h.contains b }.logFixed 3 h
    { s with l2Weak := s.l2Weak.filter fun b => !l.contains b }.logFixed 2 l |>.touchL2 pa n false

/-- The log entry of an uncorrectable error at a level of HBM. -/
def State.hbmLog (s : State) (pa level : Nat) : State :=
  s.log (levelLog level pa) 1 level (pa / 2 ^ 36 % 16) (BitVec.ofNat 64 pa) (Config.syndrome s.oracle)

/-- The index bits of a table level: low bit and count (R81). -/
def levelBits (lvl : Nat) : Nat × Nat :=
  match lvl with
  | 0 => (43, 13)
  | 1 => (30, 13)
  | 2 => (21, 9)
  | _ => (16, 5)

/-- The size of the table at a level, in bytes (R81). -/
def tableSize (lvl : Nat) : Nat := 8 * 2 ^ (levelBits lvl).2

/-- A page-table entry of a level is malformed (R82). -/
def pteMalformed (p : Word) (lvl : Nat) : Bool :=
  let addr := p.bits 51 8 * 256
  let ptr := p.bit 1
  p.bits 63 52 != 0 || p.bits 7 4 != 0 || (!ptr && lvl == 0) || (ptr && lvl == 3)
    || (if ptr then addr % tableSize (lvl + 1) != 0 || isHost addr || isHole addr
        else addr % 2 ^ (levelBits lvl).1 != 0)

/-- Walk from a level down: the entries it reads, and what it finds (R82); an entry that cannot be read ends it (R380). -/
def walkFrom (s : State) (va : Word) (table lvl : Nat) (fuel : Nat) : List Nat × WalkRes :=
  match fuel with
  | 0 => ([], .fault 1 3)
  | fuel + 1 =>
    let (lo, n) := levelBits lvl
    let a := table + 8 * va.bits (lo + n - 1) lo
    let p := s.pa64 a
    if s.hbmFault a 8 then ([a], .bad (s.errLevel a 8) a)
    else if !p.bit 0 then ([a], .fault 0 lvl)
    else if pteMalformed p lvl then ([a], .fault 1 lvl)
    else if p.bit 1 then
      let r := walkFrom s va (p.bits 51 8 * 256) (lvl + 1) fuel
      (a :: r.1, r.2)
    else
      let pa := p.bits 51 8 * 256
      ([a], if isHole pa then .fault 2 lvl else .page pa lo (p.bit 2) (p.bit 3))

/-- The whole walk for a context, from its context-table entry (R80, R82). -/
def State.walk (s : State) (ctx : Nat) (va : Word) : List Nat × WalkRes :=
  let e := s.xlbase.bits 51 20 * 2 ^ 20 + 16 * ctx
  let lo := s.pa64 e
  let hi := s.pa64 (e + 8)
  let root := lo.bits 51 16 * 65536
  if s.hbmFault e 16 then ([e, e + 8], .bad (s.errLevel e 16) e)
  else if !lo.bit 0 then ([e, e + 8], .fault 0 0)
  else if lo.bits 63 52 != 0 || lo.bits 15 1 != 0 || hi != 0 || isHost root || isHole root then ([e, e + 8], .fault 1 0)
  else
    let r := walkFrom s va root 0 4
    (e :: (e + 8) :: r.1, r.2)

/-- What a walk finds. -/
def walkTables (s : State) (ctx : Nat) (va : Word) : WalkRes := (s.walk ctx va).2

/-- A walk meets a channel in training: it waits at the controller (R422). -/
def State.walkTrains (s : State) (ctx : Nat) (va : Word) : Bool := (s.walk ctx va).1.any s.training

/-- A walk reads its entries: they are corrected where they can be, and an error that cannot be is logged (R379, R380). -/
def State.walked (s : State) (ctx : Nat) (va : Word) : State :=
  let r := s.walk ctx va
  match r.2 with
  | .bad level pa => s.hbmLog pa level
  | _ => r.1.foldl (fun s a => s.hbmScrub a 8) s

/-- The level at which a page of this size was found. -/
def levelOfSize (size : Nat) : Nat := if size = 30 then 1 else if size = 21 then 2 else 3

/-- What a translation yields: a PA, or a fault with its cause, REASON, LEVEL and address (R78, R82). -/
inductive XlRes where
  | ok (pa : Nat)
  | fault (cause reason level : Nat) (addr : Word)
deriving DecidableEq, Repr

/-- Permission and address from a page (R82): read, write or both; 0x31 where an entry could not be read (R379). -/
def pageAccess (va : Word) (rd wr : Bool) (p : WalkRes) : XlRes :=
  match p with
  | .fault r l => .fault 0x10 r l va
  | .bad level pa => .fault 0x31 level 0 (BitVec.ofNat 64 pa)
  | .page pa size r w =>
    if rd && !r then .fault 0x11 0 (levelOfSize size) va
    else if wr && !w then .fault 0x11 1 (levelOfSize size) va
    else .ok (pa + va.bits 55 0 % 2 ^ size)

/-- The station that serves an address of a tile's die (R84); service tiles use their I/O die's number. -/
def stationOf (t : Nat) (va : Word) : Nat := (if isService t then 64 + dieOf t * 8 else dieOf t * 8) + va.bits 18 16

/-- The cached translation for an address, if any (R84). -/
def State.cached (s : State) (station ctx : Nat) (va : Word) : Option Xlate :=
  s.xcache.find? fun e => e.station == station && e.ctx == ctx && e.page == va.bits 55 0 / 2 ^ e.size

/-- Look a translation up: the manual gives the cache's size and no rule of replacement, so a free choice says whether
the station still holds it (R84, log entry 19). -/
def State.lookup (s : State) (station ctx : Nat) (va : Word) : Option Xlate × State :=
  match s.cached station ctx va with
  | none => (none, s)
  | some e => if s.choice 2 = 0 then (none, { s.tick with xcache := s.xcache.filter (· != e) }) else (some e, s.tick)

def Xlate.walk (e : Xlate) : WalkRes := .page e.pa e.size e.r e.w

/-- Cache what a walk found; a station holds at most 16,384 translations (R84, log entry 19). -/
def State.cache (s : State) (station ctx : Nat) (va : Word) (w : WalkRes) : State :=
  match w with
  | .page pa size r wr =>
    let e : Xlate := { station := station, ctx := ctx, page := va.bits 55 0 / 2 ^ size, size := size, pa := pa, r := r, w := wr }
    { s with
      xcache := (e :: s.xcache.filter (·.station == station)).take 16384 ++ s.xcache.filter (·.station != station) }
  | .fault _ _ | .bad _ _ => s

/-- The size of the page a walk leads to, in bits; 64 KiB where it finds none (R81, log entry 65). -/
def WalkRes.size (w : WalkRes) : Nat :=
  match w with
  | .page _ n _ _ => n
  | .fault _ _ | .bad _ _ => 16

/-- Two addresses of a context lie in one page, of the size that a walk for the first leads to. -/
def samePage (s : State) (ctx : Nat) (va vb : Word) : Bool :=
  let n := (walkTables s ctx va).size
  va.bits 55 0 / 2 ^ n == vb.bits 55 0 / 2 ^ n

/-- A walk in progress for a page at a station (R84). -/
def State.walkOn (s : State) (stn ctx : Nat) (va : Word) : Option Walk :=
  s.walks.find? fun w => w.station == stn && w.ctx == ctx && samePage s ctx w.va va

/-- A request joins a walk, once. -/
def joinWalk (s : State) (w : Walk) (i : Nat) (va : Word) : State :=
  { s with walks := s.walks.map fun v =>
      if v.id = w.id ∧ !v.joined.contains (i, va) then { v with joined := v.joined ++ [(i, va)] } else v }

/-- A request that misses starts a walk where its station has one free (R84). -/
def State.startWalk (s : State) (stn ctx i : Nat) (va : Word) : State :=
  if 4096 ≤ (s.walks.filter fun w => w.station == stn).length then s
  else
    { s with
      walks := s.walks ++ [{ id := s.nextId, station := stn, ctx := ctx, va := va, joined := [(i, va)], stale := false }]
      nextId := s.nextId + 1 }

/-- A request of operation i for a translation: an answer it has had, a hit, or nothing yet: it has joined or started a
walk, or waits for one (R84). -/
def State.ask (s : State) (t i : Nat) (va : Word) : Option WalkRes × State :=
  match s.answers.find? fun a => a.id == i && a.va == va with
  | some a => (some a.res, s)
  | none =>
    let ctx := (s.tile t).ctx.toNat
    let st := stationOf t va
    match s.walkOn st ctx va with
    | some w => (none, joinWalk s w i va)
    | none =>
      match s.lookup st ctx va with
      | (some e, s) => (some e.walk, { s with answers := s.answers ++ [{ id := i, va := va, res := e.walk }] })
      | (none, s) => (none, s.startWalk st ctx i va)

/-! ## Traps of storage errors (R379, R380) -/

/-- Own-pool bytes that cannot be read: trap 0x31 (R126, R380). -/
def poolBadTrap (s : State) (port : Nat) (v : Word) (off access : Nat) : Out :=
  (s.poolLog s.cur.1 off).trapA port v 0x31 (sinfo78 0 0 access (BitVec.ofNat 64 off))

/-- The pool offset that SINFO and the log name for a register, a semaphore or an inbox entry, which has none: open (log
entry 61). -/
def State.openOff (s : State) : Nat := (Config.openWord s.oracle).bits 51 0

/-- Trap 0x31 of a register or latch (R379; log entry 61). -/
def regTrap (s : State) : Nat × Word := (0x31, sinfo78 0 0 0 (BitVec.ofNat 64 s.openOff))

/-- The issuing strand's protected words are corrected where they can be, each with a log entry (R379). -/
def State.fixCells (s : State) (cells : List Nat) : State :=
  let st := s.me
  if st.weak.any cells.contains then
    (st.weak.filter cells.contains).foldl
      (fun s _ => (s.log s.cur.1 0 0 s.cur.1 (Config.openWord s.oracle) (Config.syndrome s.oracle)).tick)
      (s.setMe { st with weak := st.weak.filter fun w => !cells.contains w })
  else s

/-- The issuing strand's protected words are written whole: they hold no error (R380). -/
def State.renewCells (s : State) (cells : List Nat) : State :=
  let st := s.me
  if (st.bad ++ st.weak).any cells.contains then
    s.setMe { st with bad := st.bad.filter fun w => !cells.contains w, weak := st.weak.filter fun w => !cells.contains w }
  else s

/-- The trigger of v at a port reads protected words of its strand: trap 0x31 where one cannot be read; else they are
corrected, and it goes on (R379, R380). -/
def State.readCells (s : State) (port : Nat) (v : Word) (cells : List Nat) (go : State → Out) : Out :=
  if s.me.bad.any cells.contains then s.trapA port v (regTrap s).1 (regTrap s).2 else go (s.fixCells cells)

/-- Operation i has used its answers. -/
def State.forget (s : State) (i : Nat) : State :=
  { s with
    answers := s.answers.filter fun a => a.id != i
    farReqs := s.farReqs.filter fun r => r.id != i || !r.done }

/-- Translate an address of operation i; none: not answered yet (pieces of copies, puts, gets, blocks and matrix lines). -/
def State.translate (s : State) (t i : Nat) (va : Word) (rd wr : Bool) : Option XlRes × State :=
  let r := s.ask t i va
  (r.1.map (pageAccess va rd wr), r.2)

end Sys2Proof.Machine
end

