-- ==== Sys2Proof/Machine/Alu.lean ====
section
/-! DEFINITION. The integer ALUs (R134, R135, R140 to R143). -/
namespace Sys2Proof.Machine

/-- Operand a of an alu: the latch .a as the word leaves it (R134). -/
def aluA (u : Alu) (s : State) : Word := s.opnd u.base

/-- Operand b of an alu. -/
def aluB (u : Alu) (s : State) : Word := s.opnd (u.base + 1)

/-- An alu delivers y and z one issue on (R135). -/
def aluOut (u : Alu) (y z : Word) (s : State) : Out := .next (s.result u.unit y (some z) 1)

/-- The operation with operands a and v. -/
def aluBin (u : Alu) (f : Word → Word → Word × Word) (v : Word) (s : State) : Out :=
  let r := f (aluA u s) v
  aluOut u r.1 r.2 s

/-- The operation with the one operand v and z = 0. -/
def aluUn (u : Alu) (y : Word) (s : State) : Out := aluOut u y 0 s

/-- add: C is the carry out of bit 63, V signed overflow (R140). -/
def aluAddF (a v : Word) : Word × Word :=
  (a + v, aluZ (decide (2 ^ 64 ≤ a.toNat + v.toNat)) (!fitsSigned (a.toInt + v.toInt) 64) false)

/-- sub: C is the borrow (R140). -/
def aluSubF (a v : Word) : Word × Word :=
  (a - v, aluZ (decide (a.toNat < v.toNat)) (!fitsSigned (a.toInt - v.toInt) 64) false)

/-- The exact signed result clamped to INT64; V and S when it was (R140). -/
def aluSatS (x : Int) : Word × Word :=
  let y := satInt x (-(2 ^ 63)) (2 ^ 63 - 1)
  (Word.ofInt y, aluZ false (x != y) (x != y))

/-- The exact unsigned result clamped to 64 bits; C and S when it was (R140). -/
def aluSatU (x : Int) : Word × Word :=
  let y := satInt x 0 (2 ^ 64 - 1)
  (Word.ofInt y, aluZ (x != y) false (x != y))

/-- addw: C at bit 31, V INT32 overflow (R140). -/
def aluAddwF (a v : Word) : Word × Word :=
  (Word.sx (a + v) 32,
   aluZ (decide (2 ^ 32 ≤ a.toNat % 2 ^ 32 + v.toNat % 2 ^ 32))
     (!fitsSigned ((a.sx 32).toInt + (v.sx 32).toInt) 32) false)

/-- subw: C the borrow at bit 31, V INT32 overflow (R140). -/
def aluSubwF (a v : Word) : Word × Word :=
  (Word.sx (a - v) 32,
   aluZ (decide (a.toNat % 2 ^ 32 < v.toNat % 2 ^ 32))
     (!fitsSigned ((a.sx 32).toInt - (v.sx 32).toInt) 32) false)

def minInt64 : Word := 0x8000000000000000

def execAluMov (u : Alu) (v : Word) (s : State) : Out := aluUn u v s
def execAluAdd (u : Alu) (v : Word) (s : State) : Out := aluBin u aluAddF v s
def execAluSub (u : Alu) (v : Word) (s : State) : Out := aluBin u aluSubF v s
def execAluAdds (u : Alu) (v : Word) (s : State) : Out := aluBin u (fun a v => aluSatS (a.toInt + v.toInt)) v s
def execAluSubs (u : Alu) (v : Word) (s : State) : Out := aluBin u (fun a v => aluSatS (a.toInt - v.toInt)) v s
def execAluAddus (u : Alu) (v : Word) (s : State) : Out :=
  aluBin u (fun a v => aluSatU ((a.toNat : Int) + v.toNat)) v s
def execAluSubus (u : Alu) (v : Word) (s : State) : Out :=
  aluBin u (fun a v => aluSatU ((a.toNat : Int) - v.toNat)) v s
def execAluAddw (u : Alu) (v : Word) (s : State) : Out := aluBin u aluAddwF v s
def execAluSubw (u : Alu) (v : Word) (s : State) : Out := aluBin u aluSubwF v s
def execAluNeg (u : Alu) (v : Word) (s : State) : Out := aluOut u (0 - v) (aluZ false (v == minInt64) false) s
def execAluAbs (u : Alu) (v : Word) (s : State) : Out :=
  aluOut u (if v.toInt < 0 then 0 - v else v) (aluZ false (v == minInt64) false) s
def execAluMin (u : Alu) (v : Word) (s : State) : Out :=
  aluBin u (fun a v => (if v.toInt < a.toInt then v else a, 0)) v s
def execAluMax (u : Alu) (v : Word) (s : State) : Out :=
  aluBin u (fun a v => (if a.toInt < v.toInt then v else a, 0)) v s
def execAluMinu (u : Alu) (v : Word) (s : State) : Out :=
  aluBin u (fun a v => (if v.toNat < a.toNat then v else a, 0)) v s
def execAluMaxu (u : Alu) (v : Word) (s : State) : Out :=
  aluBin u (fun a v => (if a.toNat < v.toNat then v else a, 0)) v s
def execAluAnd (u : Alu) (v : Word) (s : State) : Out := aluBin u (fun a v => (a &&& v, 0)) v s
def execAluOr (u : Alu) (v : Word) (s : State) : Out := aluBin u (fun a v => (a ||| v, 0)) v s
def execAluXor (u : Alu) (v : Word) (s : State) : Out := aluBin u (fun a v => (a ^^^ v, 0)) v s
def execAluAndn (u : Alu) (v : Word) (s : State) : Out := aluBin u (fun a v => (a &&& ~~~v, 0)) v s
def execAluOrn (u : Alu) (v : Word) (s : State) : Out := aluBin u (fun a v => (a ||| ~~~v, 0)) v s
def execAluNot (u : Alu) (v : Word) (s : State) : Out := aluUn u (~~~v) s

/-- The count of a 64-bit shift, bits(v, 5, 0) (R140). -/
def shift6 (v : Word) : Nat := v.bits 5 0

/-- The count of a 32-bit shift, bits(v, 4, 0) (R140). -/
def shift5 (v : Word) : Nat := v.bits 4 0

def execAluShl (u : Alu) (v : Word) (s : State) : Out := aluBin u (fun a v => (a <<< shift6 v, 0)) v s
def execAluShr (u : Alu) (v : Word) (s : State) : Out := aluBin u (fun a v => (a >>> shift6 v, 0)) v s
def execAluSar (u : Alu) (v : Word) (s : State) : Out := aluBin u (fun a v => (a.sshiftRight (shift6 v), 0)) v s
def execAluRol (u : Alu) (v : Word) (s : State) : Out := aluBin u (fun a v => (a.rotateLeft (shift6 v), 0)) v s
def execAluRor (u : Alu) (v : Word) (s : State) : Out := aluBin u (fun a v => (a.rotateRight (shift6 v), 0)) v s
def execAluShlw (u : Alu) (v : Word) (s : State) : Out :=
  aluBin u (fun a v => (Word.sx (a.zx 32 <<< shift5 v) 32, 0)) v s
def execAluShrw (u : Alu) (v : Word) (s : State) : Out :=
  aluBin u (fun a v => (Word.sx (a.zx 32 >>> shift5 v) 32, 0)) v s
def execAluSarw (u : Alu) (v : Word) (s : State) : Out :=
  aluBin u (fun a v => (Word.sx ((a.sx 32).sshiftRight (shift5 v)) 32, 0)) v s
def execAluEq (u : Alu) (v : Word) (s : State) : Out := aluBin u (fun a v => (Word.ofBool (a == v), 0)) v s
def execAluNe (u : Alu) (v : Word) (s : State) : Out := aluBin u (fun a v => (Word.ofBool (a != v), 0)) v s
def execAluLt (u : Alu) (v : Word) (s : State) : Out := aluBin u (fun a v => (Word.ofBool (a.slt v), 0)) v s
def execAluLe (u : Alu) (v : Word) (s : State) : Out := aluBin u (fun a v => (Word.ofBool (a.sle v), 0)) v s
def execAluLtu (u : Alu) (v : Word) (s : State) : Out := aluBin u (fun a v => (Word.ofBool (a.ult v), 0)) v s
def execAluLeu (u : Alu) (v : Word) (s : State) : Out := aluBin u (fun a v => (Word.ofBool (a.ule v), 0)) v s

/-- The number of low bits below the first set bit, from bit i up, at most n (R140). -/
def trailing (v : Word) (n i : Nat) : Nat :=
  match n with
  | 0 => 0
  | n + 1 => if v.bit i then 0 else 1 + trailing v n (i + 1)

/-- The number of clear bits from the top down (R140). -/
def leading (v : Word) (n : Nat) : Nat :=
  match n with
  | 0 => 0
  | n + 1 => if v.bit n then 0 else 1 + leading v n

/-- The number of set bits below bit n (R140). -/
def popCount (v : Word) (n : Nat) : Nat :=
  match n with
  | 0 => 0
  | n + 1 => (if v.bit n then 1 else 0) + popCount v n

def execAluClz (u : Alu) (v : Word) (s : State) : Out := aluUn u (BitVec.ofNat 64 (leading v 64)) s
def execAluCtz (u : Alu) (v : Word) (s : State) : Out := aluUn u (BitVec.ofNat 64 (trailing v 64 0)) s
def execAluPopc (u : Alu) (v : Word) (s : State) : Out := aluUn u (BitVec.ofNat 64 (popCount v 64)) s

/-- v with byte j moved to byte 7 − j (R140). -/
def byteSwap (v : Word) : Word :=
  v.extractLsb' 0 8 ++ v.extractLsb' 8 8 ++ v.extractLsb' 16 8 ++ v.extractLsb' 24 8 ++ v.extractLsb' 32 8
    ++ v.extractLsb' 40 8 ++ v.extractLsb' 48 8 ++ v.extractLsb' 56 8

def execAluBswap (u : Alu) (v : Word) (s : State) : Out := aluUn u (byteSwap v) s
def execAluSxb (u : Alu) (v : Word) (s : State) : Out := aluUn u (v.sx 8) s
def execAluSxh (u : Alu) (v : Word) (s : State) : Out := aluUn u (v.sx 16) s
def execAluSxw (u : Alu) (v : Word) (s : State) : Out := aluUn u (v.sx 32) s
def execAluZxb (u : Alu) (v : Word) (s : State) : Out := aluUn u (v.zx 8) s
def execAluZxh (u : Alu) (v : Word) (s : State) : Out := aluUn u (v.zx 16) s
def execAluZxw (u : Alu) (v : Word) (s : State) : Out := aluUn u (v.zx 32) s

/-- The position, the length asked for and the length used of the field that v names (R141). -/
def fieldOf (v : Word) : Nat × Nat × Nat :=
  let pos := v.bits 5 0
  let len := v.bits 11 6 + 1
  (pos, len, min len (64 - pos))

def execAluExt (u : Alu) (v : Word) (s : State) : Out :=
  let (pos, _, n) := fieldOf v
  aluBin u (fun a _ => (Word.sx (a >>> pos) n, 0)) v s

def execAluExtu (u : Alu) (v : Word) (s : State) : Out :=
  let (pos, _, n) := fieldOf v
  aluBin u (fun a _ => (Word.zx (a >>> pos) n, 0)) v s

/-- b supplies the field; z[0] marks a field that was cut at bit 63 (R141). -/
def execAluIns (u : Alu) (v : Word) (s : State) : Out :=
  let (pos, len, n) := fieldOf v
  let m : Word := BitVec.ofNat 64 ((2 ^ n - 1) * 2 ^ pos)
  let b := aluB u s
  aluBin u (fun a _ => ((a &&& ~~~m) ||| ((b <<< pos) &&& m), Word.ofBool (decide (n < len)))) v s

/-- y is a when bit 0 of v is 1, else b (R142). -/
def execAluSel (u : Alu) (v : Word) (s : State) : Out := aluUn u (if v.bit 0 then aluA u s else aluB u s) s

/-- lea keeps the class byte of a; C is the carry past bit 55 (R143). -/
def leaF (a b v : Word) : Word × Word :=
  let x : Word := BitVec.ofNat 64 (a.bits 55 0) + (v <<< b.bits 2 0)
  let exact := a.bits 55 0 + (v <<< b.bits 2 0).toNat
  (BitVec.ofNat 64 (a.bits 63 56 * 2 ^ 56 + x.bits 55 0), Word.ofBool (exact / 2 ^ 56 % 256 != 0))

def execAluLea (u : Alu) (v : Word) (s : State) : Out :=
  let b := aluB u s
  aluBin u (fun a v => leaF a b v) v s

end Sys2Proof.Machine
end

