-- ==== Sys2Proof/Machine/Float.lean ====
section
/-! DEFINITION. Number formats (R50 to R71): a code read as an exact value, an exact value rounded once to a format, exact
sums, products, quotients and roots. -/
namespace Sys2Proof.Machine

/-- What the all-ones codes of a format are: IEEE infinities and NaNs, one NaN code, or finite values (R50, R53). -/
inductive Special where
  | ieee | nanOnly | none
deriving DecidableEq, Repr

/-- A binary float format: exponent bits, mantissa bits, bias. -/
structure FFmt where
  eb : Nat
  mb : Nat
  bias : Nat
  special : Special
deriving DecidableEq, Repr

def fp64 : FFmt := ⟨11, 52, 1023, .ieee⟩
def fp32 : FFmt := ⟨8, 23, 127, .ieee⟩
def fp19 : FFmt := ⟨8, 10, 127, .ieee⟩
def bf16 : FFmt := ⟨8, 7, 127, .ieee⟩
def fp16 : FFmt := ⟨5, 10, 15, .ieee⟩
def e4m3 : FFmt := ⟨4, 3, 7, .nanOnly⟩
def e5m2 : FFmt := ⟨5, 2, 15, .ieee⟩
def e3m4 : FFmt := ⟨3, 4, 3, .nanOnly⟩
def e3m2 : FFmt := ⟨3, 2, 3, .none⟩
def e2m3 : FFmt := ⟨2, 3, 1, .none⟩
def e2m1 : FFmt := ⟨2, 1, 1, .none⟩

/-- The width of a format in bits. -/
def FFmt.width (f : FFmt) : Nat := 1 + f.eb + f.mb

/-- An exact value: m × 2^e with a sign, an infinity, or NaN. A zero keeps its sign. -/
inductive FVal where
  | nan
  | inf (neg : Bool)
  | fin (neg : Bool) (m : Nat) (e : Int)
deriving DecidableEq, Repr

/-- Rounding modes (R65); sr carries its 16-bit draw (R67). -/
inductive Rnd where
  | rne | rtz | rdn | rup
  | sr (r : Nat)
deriving DecidableEq, Repr

/-- The mode of a 2-bit code (R65). -/
def rndOf (c : Nat) : Rnd :=
  match c % 4 with
  | 0 => .rne
  | 1 => .rtz
  | 2 => .rdn
  | _ => .rup

/-- The value of a code (R50, R53). -/
def FFmt.decode (f : FFmt) (b : Nat) : FVal :=
  let m := b % 2 ^ f.mb
  let e := b / 2 ^ f.mb % 2 ^ f.eb
  let neg := b / 2 ^ (f.mb + f.eb) % 2 == 1
  let ones := e == 2 ^ f.eb - 1
  let special := match f.special with
    | .ieee => ones
    | .nanOnly => ones && m == 2 ^ f.mb - 1
    | .none => false
  if special then
    if f.special = .ieee ∧ m = 0 then .inf neg else .nan
  else if e = 0 then .fin neg m (1 - f.bias - f.mb)
  else .fin neg (2 ^ f.mb + m) ((e : Int) - f.bias - f.mb)

/-- The code of a sign and a magnitude code. -/
def FFmt.signed (f : FFmt) (neg : Bool) (mag : Nat) : Nat := mag + neg.toNat * 2 ^ (f.mb + f.eb)

/-- The magnitude code of the largest finite value. -/
def FFmt.maxCode (f : FFmt) : Nat :=
  match f.special with
  | .ieee => (2 ^ f.eb - 1) * 2 ^ f.mb - 1
  | .nanOnly => 2 ^ (f.eb + f.mb) - 2
  | .none => 2 ^ (f.eb + f.mb) - 1

/-- The canonical NaN (R64); 0 where the format has none (R66). -/
def FFmt.nanCode (f : FFmt) : Nat :=
  match f.special with
  | .ieee => (2 ^ f.eb - 1) * 2 ^ f.mb + 2 ^ (f.mb - 1)
  | .nanOnly => 2 ^ (f.eb + f.mb) - 1
  | .none => 0

/-- The code of an infinity. -/
def FFmt.infCode (f : FFmt) (neg : Bool) : Nat := f.signed neg ((2 ^ f.eb - 1) * 2 ^ f.mb)

/-- A rounded result: its code, the conditions of R71, and whether an overflow was delivered as ±max. -/
structure RRes where
  code : Nat
  flags : Nat
  sat : Bool
deriving DecidableEq, Repr

/-- Scale a natural number by 2^k, as numerator and denominator. -/
def scale2 (m : Nat) (k : Int) : Nat × Nat :=
  match k with
  | .ofNat n => (m * 2 ^ n, 1)
  | .negSucc n => (m, 2 ^ (n + 1))

/-- floor(log2(n / d)) for n, d > 0. -/
def floorLog2 (n d : Nat) : Int :=
  let k : Int := (Nat.log2 n : Int) - Nat.log2 d
  let (a, b) := scale2 n (-k)
  if d * b ≤ a then k else k - 1

/-- Round q + r/d (r < d) to an integer (R65, R67's draw applied by the caller). -/
def roundInt (mode : Rnd) (neg : Bool) (q r d : Nat) : Nat :=
  match mode with
  | .rne => if d < 2 * r ∨ (2 * r = d ∧ q % 2 = 1) then q + 1 else q
  | .rtz => q
  | .rdn => if neg && r != 0 then q + 1 else q
  | .rup => if !neg && r != 0 then q + 1 else q
  | .sr draw => q + (r * 65536 / d + draw) / 65536

/-- What an overflow delivers (R66): the code, and whether it is ±max. -/
def FFmt.overflow (f : FFmt) (mode : Rnd) (satf neg : Bool) : Nat × Bool :=
  let max := f.signed neg f.maxCode
  let big := match f.special with
    | .ieee => f.infCode neg
    | .nanOnly => f.nanCode
    | .none => max
  if f.special = .none ∨ (satf ∧ f.width ≤ 8) then (max, true)
  else
    match mode with
    | .rne | .sr _ => (big, false)
    | .rtz => (max, true)
    | .rdn => if neg then (big, false) else (max, true)
    | .rup => if neg then (max, true) else (big, false)

/-- The exponent of the weight of the lowest kept bit at a binade. -/
def FFmt.ulpExp (f : FFmt) (binade : Int) : Int := max binade (1 - f.bias) - f.mb

/-- The magnitude (n / d) × 2^e rounded at weight 2^u: the integer multiple and whether it is inexact. -/
def roundAt (mode : Rnd) (neg : Bool) (n d : Nat) (e u : Int) : Nat × Bool :=
  let (a, b) := scale2 n (e - u)
  let den := d * b
  (roundInt mode neg (a / den) (a % den) den, a % den != 0)

/-- Round the exact value ± (n / d) × 2^e, n > 0, once to a format (R65 to R67, R71). -/
def FFmt.round (f : FFmt) (mode : Rnd) (satf neg : Bool) (n d : Nat) (e : Int) : RRes :=
  let binade := floorLog2 n d + e
  let u := f.ulpExp binade
  let (m, inexact) := roundAt mode neg n d e u
  let (mu, _) := roundAt mode neg n d e (binade - f.mb)
  -- the magnitude code: m × 2^u with m at most 2^(mb+1)
  let exp : Int := u + f.mb + f.bias
  let code := if m < 2 ^ f.mb then m else (exp.toNat - 1) * 2 ^ f.mb + m
  if f.maxCode < code then
    let (c, sat) := f.overflow mode satf neg
    { code := c, flags := flOverflow + flInexact, sat := sat }
  else
    -- magnitude after rounding with unbounded exponent below the smallest normal, and inexact
    let (a, b) := scale2 mu (binade - f.mb - (1 - f.bias))
    let tiny := decide (a < b) && mu != 0
    { code := f.signed neg code, flags := flagIf inexact flInexact + flagIf (inexact && tiny) flUnderflow, sat := false }

/-- Round an exact value to a format; infinite inputs and NaN as R66 and R69 give. -/
def FFmt.convert (f : FFmt) (mode : Rnd) (satf : Bool) (v : FVal) : RRes :=
  match v with
  | .nan => { code := f.nanCode, flags := flagIf (f.special == .none) flInvalid, sat := false }
  | .inf neg =>
    if f.special = .ieee ∧ !(satf && decide (f.width ≤ 8)) then { code := f.infCode neg, flags := 0, sat := false }
    else
      let (c, sat) := f.overflow mode satf neg
      { code := c, flags := flOverflow + flInexact, sat := sat }
  | .fin neg m e =>
    if m = 0 then { code := f.signed neg 0, flags := 0, sat := false } else f.round mode satf neg m 1 e

/-- A float to an integer of range lo to hi (R70): the integer, the conditions, and whether it was clamped. -/
def toInteger (mode : Rnd) (lo hi : Int) (v : FVal) : Int × Nat × Bool :=
  match v with
  | .nan => (0, flInvalid, false)
  | .inf neg => (if neg then lo else hi, flInvalid, true)
  | .fin neg m e =>
    let (q, inexact) := roundAt mode neg m 1 e 0
    let x : Int := if neg then -(q : Int) else q
    if x < lo then (lo, flInvalid, true)
    else if hi < x then (hi, flInvalid, true)
    else (x, flagIf inexact flInexact, false)

/-- An integer as an exact value. -/
def ofInteger (x : Int) : FVal := .fin (decide (x < 0)) x.natAbs 0

/-! ## Exact arithmetic (R155, R156, R161) -/

/-- An exact value as signed mantissa at exponent e (e not above its own). -/
def signedAt (neg : Bool) (m : Nat) (ex e : Int) : Int :=
  let a : Int := m * 2 ^ (ex - e).toNat
  if neg then -a else a

/-- Negate. -/
def FVal.neg (v : FVal) : FVal :=
  match v with
  | .nan => .nan
  | .inf n => .inf !n
  | .fin n m e => .fin (!n) m e

/-- The sum with the sign rule of zero sums (R156), and whether it is an invalid operation. -/
def FVal.add (mode : Rnd) (x y : FVal) : FVal × Bool :=
  match x, y with
  | .nan, _ => (.nan, false)
  | _, .nan => (.nan, false)
  | .inf a, .inf b => if a = b then (.inf a, false) else (.nan, true)
  | .inf a, .fin _ _ _ => (.inf a, false)
  | .fin _ _ _, .inf b => (.inf b, false)
  | .fin a m d, .fin b n e =>
    let lo := min d e
    let s := signedAt a m d lo + signedAt b n e lo
    if s = 0 then
      if m = 0 ∧ n = 0 ∧ a = b then (.fin a 0 0, false) else (.fin (mode == .rdn) 0 0, false)
    else (.fin (decide (s < 0)) s.natAbs lo, false)

/-- The product (R156). A zero takes the sign that the factors' signs give, also where a factor was an integer, which the
manual does not say for the sums of R215 (DESIGN CHOICE, log entry 73). -/
def FVal.mul (x y : FVal) : FVal × Bool :=
  match x, y with
  | .nan, _ => (.nan, false)
  | _, .nan => (.nan, false)
  | .inf a, .inf b => (.inf (a != b), false)
  | .inf a, .fin b n _ => if n = 0 then (.nan, true) else (.inf (a != b), false)
  | .fin a m _, .inf b => if m = 0 then (.nan, true) else (.inf (a != b), false)
  | .fin a m d, .fin b n e => (.fin (a != b) (m * n) (d + e), false)

/-- x × y + z, invalid even with a NaN addend when the product is (R156). -/
def FVal.fma (mode : Rnd) (x y z : FVal) : FVal × Bool :=
  let (p, bad) := x.mul y
  if bad then (.nan, true) else FVal.add mode p z

/-- Round an exact result, adding invalid (R155). -/
def FFmt.finish (f : FFmt) (mode : Rnd) (r : FVal × Bool) : RRes :=
  let q := f.convert mode false r.1
  { q with flags := q.flags + flagIf r.2 flInvalid }

/-- A quotient rounded once (R161). -/
def FFmt.divide (f : FFmt) (mode : Rnd) (x y : FVal) : RRes :=
  match x, y with
  | .nan, _ => { code := f.nanCode, flags := 0, sat := false }
  | _, .nan => { code := f.nanCode, flags := 0, sat := false }
  | .inf _, .inf _ => { code := f.nanCode, flags := flInvalid, sat := false }
  | .inf a, .fin b _ _ => { code := f.infCode (a != b), flags := 0, sat := false }
  | .fin a _ _, .inf b => { code := f.signed (a != b) 0, flags := 0, sat := false }
  | .fin a m d, .fin b n e =>
    if n = 0 then
      if m = 0 then { code := f.nanCode, flags := flInvalid, sat := false }
      else { code := f.infCode (a != b), flags := flDivZero, sat := false }
    else if m = 0 then { code := f.signed (a != b) 0, flags := 0, sat := false }
    else f.round mode false (a != b) m n (d - e)

/-- Bit by bit from bit i down, the largest r with r × r ≤ n. -/
def isqrtFrom (n : Nat) (i r : Nat) : Nat :=
  match i with
  | 0 => r
  | i + 1 =>
    let c := r + 2 ^ i
    isqrtFrom n i (if c * c ≤ n then c else r)

/-- The integer square root. -/
def isqrt (n : Nat) : Nat := isqrtFrom n (Nat.log2 n / 2 + 1) 0

/-- √(m × 2^e) to at least 64 bits with a sticky bit below: mantissa and exponent. -/
def rootOf (m : Nat) (e : Int) : Nat × Int :=
  let k : Int := if e % 2 = 0 then 160 else 161
  let n := m * 2 ^ k.toNat
  let r := isqrt n
  (2 * r + (if r * r = n then 0 else 1), (e - k) / 2 - 1)

/-- A square root rounded once (R161). -/
def FFmt.squareRoot (f : FFmt) (mode : Rnd) (x : FVal) : RRes :=
  match x with
  | .nan => { code := f.nanCode, flags := 0, sat := false }
  | .inf true => { code := f.nanCode, flags := flInvalid, sat := false }
  | .inf false => { code := f.infCode false, flags := 0, sat := false }
  | .fin neg m e =>
    if m = 0 then { code := f.signed neg 0, flags := 0, sat := false }
    else if neg then { code := f.nanCode, flags := flInvalid, sat := false }
    else
      let (r, k) := rootOf m e
      f.round mode false false r 1 k

/-! ## Comparisons (R157, R158) -/

/-- x < y on values that are not NaN; zeros of either sign are equal. -/
def FVal.lt (x y : FVal) : Bool :=
  match x, y with
  | .nan, _ => false
  | _, .nan => false
  | .inf a, .inf b => a && !b
  | .inf a, .fin _ _ _ => a
  | .fin _ _ _, .inf b => !b
  | .fin a m d, .fin b n e =>
    let lo := min d e
    decide (signedAt a m d lo < signedAt b n e lo)

/-- x = y on values that are not NaN. -/
def FVal.eq (x y : FVal) : Bool :=
  match x, y with
  | .nan, _ => false
  | _, .nan => false
  | x, y => !(x.lt y) && !(y.lt x)

def FVal.le (x y : FVal) : Bool :=
  match x, y with
  | .nan, _ => false
  | _, .nan => false
  | x, y => !(y.lt x)

def FVal.isNan (x : FVal) : Bool := x == .nan

/-- The sign bit of a value that is not NaN. -/
def FVal.sign (x : FVal) : Bool :=
  match x with
  | .nan => false
  | .inf n => n
  | .fin n _ _ => n

/-- x below y, taking −0 as less than +0 (R157). -/
def FVal.below (x y : FVal) : Bool := x.lt y || (x.eq y && x.sign && !y.sign)

/-- Minimum or maximum of two codes, "number" (R157). -/
def FFmt.pick (f : FFmt) (wantMax : Bool) (a v : Nat) : Nat :=
  let x := f.decode a
  let y := f.decode v
  if x.isNan && y.isNan then f.nanCode
  else if x.isNan then v
  else if y.isNan then a
  else if (if wantMax then x.below y else y.below x) then v
  else a

/-- An integral value in a mode (R159). -/
def FFmt.integral (f : FFmt) (mode : Rnd) (b : Nat) : RRes :=
  match f.decode b with
  | .nan => { code := f.nanCode, flags := 0, sat := false }
  | .inf neg => { code := f.infCode neg, flags := 0, sat := false }
  | .fin neg m e =>
    if 0 ≤ e ∨ m = 0 then { code := b % 2 ^ f.width, flags := 0, sat := false }
    else
      let (q, inexact) := roundAt mode neg m 1 e 0
      if q = 0 then { code := f.signed neg 0, flags := flagIf inexact flInexact, sat := false }
      else { (f.round mode false neg q 1 0) with flags := flagIf inexact flInexact }

end Sys2Proof.Machine
end

