-- ==== Sys2Proof/Machine/Fpa.lean ====
section
/-! DEFINITION. The scalar float unit (R150 to R164). -/
namespace Sys2Proof.Machine

def fpaA (s : State) : Nat := (s.opnd 0x100).toNat
def fpaB (s : State) : Nat := (s.opnd 0x101).toNat

/-- RM of fpa.c (R151). -/
def fpaRm (s : State) : Rnd := rndOf ((s.opnd 0x102).bits 1 0)

/-- SINFO of trap 0x28: conditions in [14:10], port in [9:0] (R164). -/
def fpInfo (flags port : Nat) : Word := BitVec.ofNat 64 (flags % 32 * 1024 + port)

/-- A raised condition that FPTE enables (R164). -/
def fpTraps (st : Strand) (flags : Nat) : Bool := Nat.land (flags % 32) st.fpte != 0

/-- Deliver y and the conditions, or take the float trap (R152, R164). -/
def fpaOut (port : Nat) (v : Word) (L : Nat) (y : Nat) (flags : Nat) (s : State) : Out :=
  if fpTraps s.me flags then s.trapA port v 0x28 (fpInfo flags port)
  else .next (s.result .fpa (BitVec.ofNat 64 y) (some (BitVec.ofNat 64 flags)) L)

/-- A rounded result. -/
def fpaRes (port : Nat) (v : Word) (L : Nat) (r : RRes) (s : State) : Out := fpaOut port v L r.code r.flags s

/-- The operands as values of a format: the low bits of each port (R150). -/
def FFmt.of (f : FFmt) (w : Nat) : FVal := f.decode (w % 2 ^ f.width)

/-- A two-operand arithmetic operation (R155). -/
def fpaArith (f : FFmt) (port L : Nat) (g : Rnd → FVal → FVal → FVal × Bool) (v : Word) (s : State) : Out :=
  let rm := fpaRm s
  fpaRes port v L (f.finish rm (g rm (f.of (fpaA s)) (f.of v.toNat))) s

def execFpaAddd (v : Word) (s : State) : Out := fpaArith fp64 0x105 4 FVal.add v s
def execFpaSubd (v : Word) (s : State) : Out := fpaArith fp64 0x106 4 (fun m x y => FVal.add m x y.neg) v s
def execFpaMuld (v : Word) (s : State) : Out := fpaArith fp64 0x107 4 (fun _ x y => FVal.mul x y) v s
def execFpaFmad (v : Word) (s : State) : Out :=
  let b := fp64.of (fpaB s)
  fpaArith fp64 0x108 4 (fun m x y => FVal.fma m x b y) v s
def execFpaFmsd (v : Word) (s : State) : Out :=
  let b := fp64.of (fpaB s)
  fpaArith fp64 0x109 4 (fun m x y => FVal.fma m x b y.neg) v s
def execFpaFnmad (v : Word) (s : State) : Out :=
  let b := fp64.of (fpaB s)
  fpaArith fp64 0x10A 4 (fun m x y => FVal.fma m x.neg b y) v s
def execFpaAddf (v : Word) (s : State) : Out := fpaArith fp32 0x117 3 FVal.add v s
def execFpaSubf (v : Word) (s : State) : Out := fpaArith fp32 0x118 3 (fun m x y => FVal.add m x y.neg) v s
def execFpaMulf (v : Word) (s : State) : Out := fpaArith fp32 0x119 3 (fun _ x y => FVal.mul x y) v s
def execFpaFmaf (v : Word) (s : State) : Out :=
  let b := fp32.of (fpaB s)
  fpaArith fp32 0x11A 3 (fun m x y => FVal.fma m x b y) v s

/-- The operations that raise nothing and never round (R157, R158). -/
def fpaPlain (port : Nat) (v : Word) (y : Nat) (s : State) : Out := fpaOut port v 1 y 0 s

def execFpaMind (v : Word) (s : State) : Out := fpaPlain 0x10D v (fp64.pick false (fpaA s) v.toNat) s
def execFpaMaxd (v : Word) (s : State) : Out := fpaPlain 0x10E v (fp64.pick true (fpaA s) v.toNat) s
def execFpaMinf (v : Word) (s : State) : Out :=
  fpaPlain 0x11B v (fp32.pick false (fpaA s % 2 ^ 32) (v.toNat % 2 ^ 32)) s
def execFpaMaxf (v : Word) (s : State) : Out :=
  fpaPlain 0x11C v (fp32.pick true (fpaA s % 2 ^ 32) (v.toNat % 2 ^ 32)) s

/-- A sign operation on v; a NaN gives the canonical NaN (R157). -/
def fpaSign (f : Nat → Nat) (v : Word) : Nat :=
  if (fp64.of v.toNat).isNan then fp64.nanCode else f v.toNat

def execFpaAbsd (v : Word) (s : State) : Out := fpaPlain 0x10F v (fpaSign (fun x => x % 2 ^ 63) v) s
def execFpaNegd (v : Word) (s : State) : Out :=
  fpaPlain 0x110 v (fpaSign (fun x => (x + 2 ^ 63) % 2 ^ 64) v) s

/-- A comparison of a and v (R158). -/
def fpaCmp (f : FFmt) (port : Nat) (g : FVal → FVal → Bool) (v : Word) (s : State) : Out :=
  fpaPlain port v (g (f.of (fpaA s)) (f.of v.toNat)).toNat s

def execFpaCeqd (v : Word) (s : State) : Out := fpaCmp fp64 0x111 FVal.eq v s
def execFpaCltd (v : Word) (s : State) : Out := fpaCmp fp64 0x112 FVal.lt v s
def execFpaCled (v : Word) (s : State) : Out := fpaCmp fp64 0x113 FVal.le v s
def execFpaCund (v : Word) (s : State) : Out := fpaCmp fp64 0x114 (fun x y => x.isNan || y.isNan) v s
def execFpaCeqf (v : Word) (s : State) : Out := fpaCmp fp32 0x11D FVal.eq v s
def execFpaCltf (v : Word) (s : State) : Out := fpaCmp fp32 0x11E FVal.lt v s
def execFpaClef (v : Word) (s : State) : Out := fpaCmp fp32 0x11F FVal.le v s

/-- The class bit of an FP64 value (R158). -/
def classOf (w : Nat) : Nat :=
  match fp64.of w with
  | .nan => 8
  | .inf neg => if neg then 0 else 7
  | .fin neg m _ =>
    if m = 0 then (if neg then 3 else 4)
    else if m < 2 ^ 52 then (if neg then 2 else 5)
    else if neg then 1
    else 6

def execFpaClassd (v : Word) (s : State) : Out := fpaPlain 0x115 v (2 ^ classOf v.toNat) s
def execFpaRintd (v : Word) (s : State) : Out := fpaRes 0x116 v 2 (fp64.integral (fpaRm s) v.toNat) s

/-- A conversion between float formats (R160). -/
def fpaCvt (src dst : FFmt) (port : Nat) (v : Word) (s : State) : Out :=
  fpaRes port v 2 (let r := dst.convert (fpaRm s) false (src.of v.toNat); r) s

/-- A conversion to an integer of range lo to hi, delivered mod 2^64 (R70, R160). -/
def fpaToInt (src : FFmt) (lo hi : Int) (port : Nat) (v : Word) (s : State) : Out :=
  let (x, fl, _) := toInteger (fpaRm s) lo hi (src.of v.toNat)
  fpaOut port v 2 (Word.ofInt x).toNat fl s

/-- A conversion from an integer (R69, R160). -/
def fpaFromInt (dst : FFmt) (x : Int) (port : Nat) (v : Word) (s : State) : Out :=
  fpaRes port v 2 (dst.convert (fpaRm s) false (ofInteger x)) s

def execFpaCvtfd (v : Word) (s : State) : Out := fpaCvt fp32 fp64 0x120 v s
def execFpaCvtdf (v : Word) (s : State) : Out := fpaCvt fp64 fp32 0x121 v s
def execFpaCvtdl (v : Word) (s : State) : Out := fpaToInt fp64 (-(2 ^ 63)) (2 ^ 63 - 1) 0x122 v s
def execFpaCvtld (v : Word) (s : State) : Out := fpaFromInt fp64 v.toInt 0x123 v s
def execFpaCvtdlu (v : Word) (s : State) : Out := fpaToInt fp64 0 (2 ^ 64 - 1) 0x124 v s
def execFpaCvtlud (v : Word) (s : State) : Out := fpaFromInt fp64 v.toNat 0x125 v s
def execFpaCvtfw (v : Word) (s : State) : Out := fpaToInt fp32 (-(2 ^ 31)) (2 ^ 31 - 1) 0x126 v s
def execFpaCvtwf (v : Word) (s : State) : Out := fpaFromInt fp32 (v.sx 32).toInt 0x127 v s
def execFpaCvtdh (v : Word) (s : State) : Out := fpaCvt fp64 fp16 0x128 v s
def execFpaCvthd (v : Word) (s : State) : Out := fpaCvt fp16 fp64 0x129 v s
def execFpaCvtdb (v : Word) (s : State) : Out := fpaCvt fp64 bf16 0x12A v s
def execFpaCvtbd (v : Word) (s : State) : Out := fpaCvt bf16 fp64 0x12B v s

/-- The place an expansion's triggering word leaves for SPC: its issue address and repetition (R163). -/
def startExp (op : ExpOp) (a b c v : Word) (s : State) : State :=
  let st := s.me
  let last := match st.delay with
    | some d => if d.cnt ≤ 1 then some d else none
    | none => none
  let s := { s with nextId := s.nextId + 1 }
  s.setMe { st with
    exp := some { id := s.nextId - 1, op := op, v := v, a := a, b := b, c := c, step := 0, trap := st.tl, ia := st.ia, rep := st.wrep,
                  last := last, resumed := false, fault := none } }

/-- Strand k's expansion occupies the fpa; what other strands' results in its pipeline are still to come is told by the
issues these strands have made (R154). -/
def Tile.takeFpa (x : Tile) (k : Nat) : Tile :=
  if x.fpaOwner = some k then x
  else { x with fpaOwner := some k, fpaAt := x.strands.map fun e => (e.1, (e.2.user.clock, e.2.trap.clock)) }

/-- divd and sqrtd start an expansion of six steps on copies of a, v and RM (R162). -/
def fpaExpand (op : ExpOp) (v : Word) (s : State) : Out :=
  let s := startExp op (s.opnd 0x100) 0 (s.opnd 0x102) v s
  .next (s.setHere (s.here.takeFpa s.cur.2))

def execFpaDivd (v : Word) (s : State) : Out := fpaExpand .divd v s
def execFpaSqrtd (v : Word) (s : State) : Out := fpaExpand .sqrtd v s

/-- The result of an expansion's last step (R161). -/
def expResult (e : Exp) : RRes :=
  let rm := rndOf (e.c.bits 1 0)
  match e.op with
  | .sqrtd => fp64.squareRoot rm (fp64.of e.v.toNat)
  | _ => fp64.divide rm (fp64.of e.a.toNat) (fp64.of e.v.toNat)

/-- The trigger port of an expansion. -/
def expPort (e : Exp) : Nat :=
  match e.op with
  | .divd => 0x10B
  | .sqrtd => 0x10C
  | .blk => 0x175

/-- What follows repetition rep of the word whose parcels begin at a: the next repetition, 0 for none, and the parcel after
the word (R30, R32). -/
def pastWord (ps : List (BitVec 16)) (a : BitVec 24) (rep : Nat) (fuel : Nat) : Nat × BitVec 24 :=
  match fuel, ps with
  | fuel + 1, p :: r =>
    match decodeParcels (p :: r) with
    | .ok (.iParcel _) => pastWord r (a + 1) rep fuel
    | .ok (.tParcel _ nm1 _) => (if rep < nm1.toNat then rep + 1 else 0, a + 1)
    | .ok (.idle n) => (if rep < n.toNat then rep + 1 else 0, a + 1)
    | .ok (.inline _) => (0, a + 17)
    | _ => (0, a + 1)
  | _, _ => (0, a + 1)

/-- A resumed expansion has ended: fetch goes on with the issue after the word at SPC (R350); a next repetition is fetched from
SPC again, which rebuilds its PIM (R39). -/
def State.passExp (s : State) (t k : Nat) (e : Exp) : State :=
  if !e.resumed then s
  else
    let st := s.pastBanks t (s.objLen t) (s.strand t k)
    let (rep, after) := pastWord (s.parcels t st.pc.toNat 21) st.pc st.rep 5
    let (pc, rep) := match e.last with
      | some d => (if d.taken then d.target else after, 0)
      | none => (if rep = 0 then after else st.pc, rep)
    s.setStrand t k { st with pc := pc, ia := pc, rep := rep, pim := 0, pimRun := 0,
                              rword := if rep = 0 then none else st.rword }

/-- EXPANSION_STEP: one step of the strand's divide or root; step 5 checks the conditions and delivers (R162, R163). -/
def execExpansionStep (t k : Nat) (s : State) : Out :=
  let st := s.strand t k
  match st.exp with
  | none => .next s
  | some e =>
    let x := s.tile t
    if e.op = .blk ∨ e.fault.isSome ∨ st.status ≠ .live ∨ x.stopped ∨ !(x.fpaOwner.all (· == k)) then .next s
    else if e.step < 5 then
      .next (s.setTile t ((x.takeFpa k).setStrand k { st with exp := some { e with step := e.step + 1 } }))
    else
      let r := expResult e
      let free (s : State) : State := s.setTile t { (s.tile t) with fpaOwner := none }
      if fpTraps st r.flags then .next (free (expFault s t k e 0x28 (fpInfo r.flags (expPort e))))
      else
        let c := (s.tile t).cycle
        let b := st.bankAt e.trap
        let b := b.push .fpa (some (BitVec.ofNat 64 r.code)) (some (BitVec.ofNat 64 r.flags)) 0 c (st.locked .fpa) false
        let b := b.deliver .fpa (st.locked .fpa) c
        .next (free ((s.setStrand t k { (st.setBankAt e.trap b) with exp := none }).passExp t k e))

end Sys2Proof.Machine
end

