-- ==== Sys2Proof/Machine/Engine.lean ====
section
/-! DEFINITION. Bytes as the engines move them: an endpoint address of any class (R77), checked at trigger (R75, R76, R113)
and accessed line by line. -/
namespace Sys2Proof.Machine

/-- The address checks of an engine's endpoint for one byte: cause 0x0F with this REASON (R75, R76, R113, R198). -/
def engCheck1 (s : State) (t : Nat) (a : Word) : Option Nat :=
  match classify a with
  | .error r => some r
  | .ok (.global _) => if inWindowPage a then some 0 else none
  | .ok p =>
    match s.poolTarget t p with
    | none => some 2
    | some (_, off) => if region (s.tile t).partword off = .register then some 3 else none

/-- The bytes at which a check can first fail in a run: its first, and each that begins a 64-byte line. -/
def lineStarts (a : Word) (n : Nat) : List Word :=
  a :: ((List.range (n / 64 + 1)).map fun i => BitVec.ofNat 64 (a.toNat / 64 * 64 + 64 * (i + 1))).filter
    fun b => decide ((b - a).toNat < n) && b != a

/-- The first failing byte of a run, with its REASON. -/
def engCheck (s : State) (t : Nat) (a : Word) (n : Nat) : Option (Word × Nat) :=
  (lineStarts a n).findSome? fun b => (engCheck1 s t b).map fun r => (b, r)

/-- A fault of an engine's access: cause, REASON, LEVEL and address. -/
structure EngFault where
  cause : Nat
  reason : Nat
  level : Nat
  addr : Word
deriving DecidableEq, Repr

/-- What an engine's access answers. -/
inductive EngRes (α : Type) where
  | ok (v : α) (s : State)
  | fault (f : EngFault) (s : State)
  /-- not now: a walk is under way (R84), the channel is in training (R422), or another device has still to answer (R393) -/
  | wait (s : State)

/-! ## Another device's HBM (R393) -/

/-- A frame under the header of R284 to a device: its kind, the PA there, and what follows (log entry 66). -/
def farFrame (dev kind pa : Nat) (rest : List Byte) : List Byte :=
  leBytes (dev % 1024) 2 ++ zeros 3 ++ [BitVec.ofNat 8 kind] ++ leBytes Config.deviceNumber 2 ++ zeros 8
    ++ leBytes (pa % 2 ^ 40) 8 ++ rest

/-- Send a frame on a port that the manual leaves open. -/
def State.sendFrame (s : State) (data : List Byte) : State :=
  State.tick { s with hostOut := s.hostOut ++ [.frame ((Config.openWord s.oracle).toNat % 72) data] }

/-- The request of operation i for these bytes of another device, if it has been sent. -/
def State.farReq (s : State) (i dev pa n : Nat) (write : Bool) : Option FarReq :=
  s.farReqs.find? fun r => r.id == i && r.dev == dev && r.pa == pa && r.n == n && r.write == write

/-- Send operation i's request: a write piece (0x02) or a read request (0x03). -/
def State.farSend (s : State) (i dev pa n : Nat) (write : Bool) (bs : List Byte) : State :=
  let r : FarReq := { id := i, dev := dev, pa := pa, n := n, write := write, data := bs, done := false }
  State.sendFrame { s with farReqs := s.farReqs ++ [r] } (farFrame dev (if write then 2 else 3) pa (if write then bs else leBytes n 8))

/-- Read another device's bytes: the request is sent once, and a frame of kind 0x04 answers it. -/
def farRead (s : State) (i dev pa n : Nat) : EngRes (List Byte) :=
  match s.farReq i dev pa n false with
  | some r => if r.done then .ok r.data s else .wait s
  | none => .wait (s.farSend i dev pa n false [])

/-- The far home L2 acknowledges a write piece: it is performed (R393). -/
def farAck (s : State) (r : FarReq) : State :=
  { s with
    far := s.far.writeBytes (farAt r.dev r.pa) r.data
    farReqs := s.farReqs.map fun q => if q = r then { q with done := true } else q }

/-- Write another device's bytes: the piece is sent once; when its acknowledgement comes is a free choice. -/
def farWrite (s : State) (i dev pa : Nat) (bs : List Byte) : EngRes Unit :=
  match s.farReq i dev pa bs.length true with
  | some r => if r.done then .ok () s else if s.choice 2 = 0 then .wait s.tick else .ok () (farAck s.tick r)
  | none => .wait (s.farSend i dev pa bs.length true bs)

/-! ## One line -/

/-- The device another than this one that a physical address belongs to, for a copy, put or get (far): nothing else reaches it,
and such an address is the host's to anything else (R393; DEDUCED, log entry 74). -/
def State.farDev (s : State) (far : Bool) (pa : Nat) : Option Nat := if far && isHost pa then s.suapDev pa else none

/-- Operation i reads bytes that lie in one 64-byte line. -/
def engRead1 (s : State) (far : Bool) (t i : Nat) (a : Word) (n : Nat) : EngRes (List Byte) :=
  match classify a with
  | .error r => .fault ⟨0x0F, r, 0, a⟩ s
  | .ok (.global va) =>
    match s.translate t i va true false with
    | (none, s) => .wait s
    | (some (.fault c r l b), s) => .fault ⟨c, r, l, b⟩ s
    | (some (.ok pa), s) =>
      match s.farDev far pa with
      | some d => farRead s i d pa n
      | none =>
        if s.training pa then .wait s
        else if s.hbmFault pa n then
          let l := s.errLevel pa n
          .fault ⟨0x31, l, 0, BitVec.ofNat 64 pa⟩ (s.hbmLog pa l)
        else .ok (s.paRead pa n) (s.hbmScrub pa n)
  | .ok p =>
    match s.poolTarget t p with
    | none => .fault ⟨0x0F, 2, 0, a⟩ s
    | some (u, off) =>
      if (hasBad (s.tile u).poolBad off n).isSome then .fault ⟨0x31, 0, 0, BitVec.ofNat 64 off⟩ (s.poolLog u off)
      else .ok (s.poolRead u off n) (s.poolScrub u off n)

/-- Operation i writes bytes that lie in one 64-byte line. -/
def engWrite1 (s : State) (far : Bool) (t i : Nat) (a : Word) (bs : List Byte) : EngRes Unit :=
  match classify a with
  | .error r => .fault ⟨0x0F, r, 0, a⟩ s
  | .ok (.global va) =>
    match s.translate t i va false true with
    | (none, s) => .wait s
    | (some (.fault c r l b), s) => .fault ⟨c, r, l, b⟩ s
    | (some (.ok pa), s) =>
      match s.farDev far pa with
      | some d => farWrite s i d pa bs
      | none =>
        if s.training pa then .wait s
        else if s.chanDown pa then .fault ⟨0x31, 3, 0, BitVec.ofNat 64 pa⟩ (s.hbmLog pa 3)
        else .ok () (s.paWrite pa bs)
  | .ok p =>
    match s.poolTarget t p with
    | none => .fault ⟨0x0F, 2, 0, a⟩ s
    | some (u, off) => .ok () (s.poolWrite u off bs)

/-- Bytes of a run that lie in its first 64-byte line. -/
def firstLine (a : Word) (n : Nat) : Nat := min n (64 - a.toNat % 64)

/-- The 64-byte lines of a run: the first byte in each and how many. -/
def runLines (fuel : Nat) (a : Word) (n : Nat) : List (Word × Nat) :=
  match fuel with
  | 0 => []
  | fuel + 1 =>
    if n = 0 then []
    else (a, firstLine a n) :: runLines fuel (a + BitVec.ofNat 64 (firstLine a n)) (n - firstLine a n)

/-- Read a run, line by line. -/
def engRead (fuel : Nat) (s : State) (t i : Nat) (a : Word) (n : Nat) : EngRes (List Byte) :=
  match fuel with
  | 0 => .ok [] s
  | fuel + 1 =>
    if n = 0 then .ok [] s
    else
      let k := firstLine a n
      match engRead1 s true t i a k with
      | .wait s => .wait s
      | .fault f s => .fault f s
      | .ok bs s =>
        match engRead fuel s t i (a + BitVec.ofNat 64 k) (n - k) with
        | .wait s => .wait s
        | .fault f s => .fault f s
        | .ok cs s => .ok (bs ++ cs) s

/-- Write a run, line by line; none of its lines waits. -/
def engWrite (fuel : Nat) (s : State) (t i : Nat) (a : Word) (bs : List Byte) : EngRes Unit :=
  match fuel with
  | 0 => .ok () s
  | fuel + 1 =>
    if bs.isEmpty then .ok () s
    else
      let k := firstLine a bs.length
      match engWrite1 s true t i a (bs.take k) with
      | .wait s => .wait s
      | .fault f s => .fault f s
      | .ok _ s => engWrite fuel s t i (a + BitVec.ofNat 64 k) (bs.drop k)

/-- Ask for the translation of one line, and whether its access would not wait: it is answered, and its channel is not in
training. -/
def askLine (t i : Nat) (acc : Bool × State) (a : Word) : Bool × State :=
  match classify a with
  | .ok (.global va) =>
    match acc.2.ask t i va with
    | (none, s) => (false, s)
    | (some r, s) =>
      (acc.1 && match pageAccess va false false r with
        | .ok pa => !s.training pa
        | .fault _ _ _ _ => true, s)
  | _ => acc

/-- The same for a run. -/
def askRun (s : State) (t i : Nat) (a : Word) (n : Nat) : Bool × State :=
  ((runLines (n + 1) a n).map Prod.fst).foldl (askLine t i) (true, s)

/-- A locked reservation holds a write to these bytes (R235). -/
def engBlocked (s : State) (t : Nat) (a : Word) (n : Nat) : Bool :=
  match classify a with
  | .ok p =>
    match s.poolTarget t p with
    | some (u, off) => s.lockedOut u off n
    | none => false
  | .error _ => false

/-- SINFO of an engine's fault: under R78, ACCESS 0 for the source side and 1 for the destination side. -/
def EngFault.info (f : EngFault) (access : Nat) : Word := sinfo78 f.reason f.level access f.addr

end Sys2Proof.Machine
end

