-- ==== Sys2Proof/Machine/Formats.lean ====
section
/-! DEFINITION. The format codes of R57: element formats, packing (R56), scales and blocks (R59 to R62), and conversion
into an element (R69, R70). -/
namespace Sys2Proof.Machine

/-- What an element is. -/
inductive NumFmt where
  | float (f : FFmt)
  /-- FP19 in the upper bits of a 32-bit container (R51) -/
  | fp19
  | int (bits : Nat) (signed : Bool)
  | tern
  | bin
  /-- MXINT8: an integer times 2^−6 (R61) -/
  | mxint8
deriving DecidableEq, Repr

/-- The container width of an element in bits. -/
def NumFmt.width (n : NumFmt) : Nat :=
  match n with
  | .float f => f.width
  | .fp19 => 32
  | .int b _ => b
  | .tern => 2
  | .bin => 1
  | .mxint8 => 8

/-- An integer format, TERN2 and BIN1 included. -/
def NumFmt.isInt (n : NumFmt) : Bool :=
  match n with
  | .int _ _ | .tern | .bin => true
  | _ => false

/-- The two's-complement value of the low b bits. -/
def signedBits (b c : Nat) : Int := if c % 2 ^ b < 2 ^ (b - 1) then c % 2 ^ b else (c % 2 ^ b : Nat) - 2 ^ b

/-- The integer an integer element holds (R55). -/
def NumFmt.toInt (n : NumFmt) (c : Nat) : Int :=
  match n with
  | .int b true => signedBits b c
  | .int b false => ((c % 2 ^ b : Nat) : Int)
  | .tern => if c % 4 = 1 then 1 else if c % 4 = 3 then -1 else 0
  | .bin => if c % 2 = 0 then 1 else -1
  | _ => 0

/-- The exact value of an element code (R50 to R55, R61). -/
def NumFmt.decode (n : NumFmt) (c : Nat) : FVal :=
  match n with
  | .float f => f.decode (c % 2 ^ f.width)
  | .fp19 => Sys2Proof.Machine.fp19.decode (c / 2 ^ 13 % 2 ^ 19)
  | .mxint8 =>
    let i := signedBits 8 c
    .fin (decide (i < 0)) i.natAbs (-6)
  | _ => ofInteger (n.toInt c)

/-- The range of an integer format. -/
def NumFmt.range (n : NumFmt) : Int × Int :=
  match n with
  | .int b true => (-(2 ^ (b - 1) : Int), 2 ^ (b - 1) - 1)
  | .int b false => (0, 2 ^ b - 1)
  | _ => (-1, 1)

/-- The code of an integer in range. -/
def NumFmt.ofInt (n : NumFmt) (x : Int) : Nat :=
  match n with
  | .tern => if x = 0 then 0 else if 0 < x then 1 else 3
  | .bin => if x < 0 then 1 else 0
  | _ => (x % (2 ^ n.width : Int)).toNat

/-- One element written: its code, the conditions of R71, and whether it was clamped or saturated. -/
def NumFmt.convert (n : NumFmt) (mode : Rnd) (satf fromInt : Bool) (v : FVal) : RRes :=
  match n with
  | .float f => f.convert mode satf v
  | .fp19 => let r := Sys2Proof.Machine.fp19.convert mode satf v; { r with code := r.code * 2 ^ 13 }
  | .bin =>
    match v with
    | .nan => { code := 0, flags := flInvalid, sat := false }
    | _ => { code := (v.lt (.fin false 0 0)).toNat, flags := 0, sat := false }
  | .mxint8 => { code := 0, flags := 0, sat := false }
  | _ =>
    let (lo, hi) := n.range
    let (x, fl, clamped) := toInteger mode lo hi v
    { code := n.ofInt x, flags := if fromInt then 0 else fl, sat := clamped }

/-- An element code is a NaN, or an infinity. -/
def NumFmt.isNan (n : NumFmt) (c : Nat) : Bool := (n.decode c).isNan

def NumFmt.isInf (n : NumFmt) (c : Nat) : Bool :=
  match n.decode c with
  | .inf _ => true
  | _ => false

/-- How a format scales its elements (R57). -/
inductive Scale where
  | none
  /-- E8M0, blocks of 32 -/
  | mx
  /-- an E4M3 magnitude and a global scale, blocks of 16 -/
  | fb
  /-- E8M0 and a global scale, blocks of 16 -/
  | fbE8
deriving DecidableEq, Repr

/-- A format of R57. -/
structure Format where
  elem : NumFmt
  scale : Scale
deriving DecidableEq, Repr

/-- The format of a code; none: reserved (R57, R58). -/
def formatOf (c : Nat) : Option Format :=
  let plain (n : NumFmt) : Option Format := some ⟨n, .none⟩
  match c with
  | 0x00 => plain (.float fp64)
  | 0x01 => plain (.float fp32)
  | 0x02 => plain .fp19
  | 0x03 => plain (.float bf16)
  | 0x04 => plain (.float fp16)
  | 0x05 => plain (.float e4m3)
  | 0x06 => plain (.float e5m2)
  | 0x07 => plain (.float e3m4)
  | 0x08 => plain (.float e3m2)
  | 0x09 => plain (.float e2m3)
  | 0x0A => plain (.float e2m1)
  | 0x0B => plain (.int 16 true)
  | 0x0C => plain (.int 8 true)
  | 0x0D => plain (.int 8 false)
  | 0x0E => plain (.int 4 true)
  | 0x0F => plain (.int 4 false)
  | 0x10 => plain (.int 2 true)
  | 0x11 => plain .tern
  | 0x12 => plain .bin
  | 0x13 => some ⟨.float e4m3, .mx⟩
  | 0x14 => some ⟨.float e5m2, .mx⟩
  | 0x15 => some ⟨.float e3m2, .mx⟩
  | 0x16 => some ⟨.float e2m3, .mx⟩
  | 0x17 => some ⟨.float e2m1, .mx⟩
  | 0x18 => some ⟨.mxint8, .mx⟩
  | 0x19 => some ⟨.float e2m1, .fb⟩
  | 0x1A => some ⟨.float e2m3, .fb⟩
  | 0x1B => some ⟨.int 4 true, .fb⟩
  | 0x1C => some ⟨.float e4m3, .fbE8⟩
  | 0x1D => some ⟨.tern, .fb⟩
  | _ => none

/-- The block size; 0: not a block format. -/
def Format.block (f : Format) : Nat :=
  match f.scale with
  | .none => 0
  | .mx => 32
  | .fb | .fbE8 => 16

def Format.isBlock (f : Format) : Bool := f.block != 0

/-- An FB16 format. -/
def Format.isFb (f : Format) : Bool := f.block == 16

/-- K of R195: elements of a row in row form. -/
def Format.kOf (f : Format) : Nat :=
  match f.elem.width with
  | 64 => 16
  | 32 => 32
  | 16 => 64
  | 8 => 128
  | 6 => 160
  | 4 => 256
  | 2 => 512
  | _ => 1024

/-- Bits [w·i+w−1 : w·i] of a string of bytes read as a number (R56). -/
def packedAt (str w i : Nat) : Nat := str / 2 ^ (w * i) % 2 ^ w

/-- A list of element codes packed from element 0 (R56). -/
def packElems (w : Nat) (cs : List Nat) : Nat :=
  match cs with
  | [] => 0
  | c :: r => c % 2 ^ w + 2 ^ w * packElems w r

/-- An E8M0 scale (R59). -/
def scaleE8 (b : Nat) : FVal := if b = 255 then .nan else .fin false 1 ((b : Int) - 127)

/-- An E4M3 magnitude (R60). -/
def scaleE4 (b : Nat) : FVal := e4m3.decode (b % 128)

/-- The exact value of an element under its block's scale byte and the global scale G (R61, R62). -/
def Format.value (f : Format) (c scale g : Nat) : FVal :=
  let e := f.elem.decode c
  match f.scale with
  | .none => e
  | .mx => (FVal.mul (scaleE8 scale) e).1
  | .fb => (FVal.mul (FVal.mul (fp32.decode g) (scaleE4 scale)).1 e).1
  | .fbE8 => (FVal.mul (FVal.mul (fp32.decode g) (scaleE8 scale)).1 e).1

end Sys2Proof.Machine
end

