-- ==== Sys2Proof/Machine/Matrix.lean ====
section
/-! DEFINITION. The matrix unit (R195 to R223): the checks of a command at its stl, the queue, and each command's work. A
command's step reads or writes one 64-byte line of memory as one event. -/
namespace Sys2Proof.Machine

/-! ## The fields of a command (R200) -/

/-- n bytes at an offset of a line. -/
def fld (l : List Byte) (off n : Nat) : Nat := leNat ((l.drop off).take n)

/-- Bit i of the flags byte (R201). -/
def mxFlag (l : List Byte) (i : Nat) : Bool := (fld l 1 1) / 2 ^ i % 2 == 1

def mxOpc (l : List Byte) : Nat := fld l 0 1

/-- A 32-bit field read as signed. -/
def fldS (l : List Byte) (off : Nat) : Int := signedBits 32 (fld l off 4)

def fldW (l : List Byte) (off : Nat) : Word := BitVec.ofNat 64 (fld l off 8)

def afmt (f : BitVec 16) : Nat := (f.extractLsb' 0 6).toNat
def bfmt (f : BitVec 16) : Nat := (f.extractLsb' 6 6).toNat
def acct (f : BitVec 16) : Nat := (f.extractLsb' 12 2).toNat
def ornd (f : BitVec 16) : Nat := (f.extractLsb' 14 2).toNat

/-- The bytes a command uses (R200, R212 to R222). -/
def mxUsed (opc i : Nat) : Bool :=
  let within (lo hi : Nat) : Bool := decide (lo ≤ i ∧ i ≤ hi)
  within 0 9 ||
    match opc with
    | 0x01 | 0x02 => within 24 27
    | 0x03 => i == 10 || within 24 36 || within 48 55
    | 0x04 => within 24 39
    | 0x05 | 0x06 => within 10 25
    | 0x07 => within 16 19
    | 0x08 => within 16 36 || within 40 59
    | 0x09 => within 24 27
    | _ => false

/-- The flags an opcode may carry (R201). -/
def mxFlagsOk (l : List Byte) : Bool :=
  let fl := fld l 1 1
  match mxOpc l with
  | 0x03 => Nat.land fl (255 - 0x1E) == 0 && (!mxFlag l 1 || mxFlag l 2)
  | 0x05 | 0x06 => Nat.land fl (255 - 0x01) == 0
  | 0x08 => Nat.land fl (255 - 0x22) == 0
  | 0x09 => Nat.land fl (255 - 0x40) == 0
  | _ => fl == 0

def readsAcct (opc : Nat) : Bool := opc == 5 || opc == 6 || opc == 7 || opc == 8

/-- The slot format of a load. -/
def loadFmt (l : List Byte) (f : BitVec 16) : Nat := if mxFlag l 3 then bfmt f else afmt f

/-- Format codes in FMT that a command reads. -/
def fmtCodes (l : List Byte) (f : BitVec 16) : List Nat :=
  match mxOpc l with
  | 0x03 => [loadFmt l f]
  | 0x05 | 0x06 => [afmt f, bfmt f]
  | _ => []

/-- A format code that byte 36 carries. -/
def fieldCode (l : List Byte) : Option Nat :=
  match mxOpc l with
  | 0x03 => if mxFlag l 2 then some (fld l 36 1) else none
  | 0x08 => some (fld l 36 1)
  | _ => none

def blockOf (c : Nat) : Nat := match formatOf c with
  | some f => f.block
  | none => 0

def kOfCode (c : Nat) : Nat := match formatOf c with
  | some f => f.kOf
  | none => 0

def intCode (c : Nat) : Bool := decide (0x0B ≤ c ∧ c ≤ 0x12)

/-- The combinations R203 refuses: REASON and BYTE. -/
def comboBad (l : List Byte) (f : BitVec 16) : Option (Nat × Nat) :=
  let a := afmt f
  let b := bfmt f
  match mxOpc l with
  | 0x05 | 0x06 =>
    if acct f = 2 ∧ (a ≠ 0 ∨ b ≠ 0) ∨ acct f ≠ 2 ∧ (a = 0 ∨ b = 0) then some (1, 0xFF)
    else if acct f = 1 ∧ !(intCode a && intCode b) then some (1, 0xFF)
    else if mxOpc l = 0x05 ∧ blockOf b ≠ 0 then some (2, 0xFF)
    else none
  | 0x03 =>
    if mxFlag l 2 then
      if blockOf (loadFmt l f) ≠ 0 then some (3, 0xFF)
      else if blockOf (fld l 36 1) ≠ 0 then some (3, 36)
      else none
    else none
  | _ => none

/-- KC with 0 standing for the most (R215). -/
def mxKc (l : List Byte) (f : BitVec 16) : Nat :=
  let most := min (kOfCode (afmt f)) (kOfCode (bfmt f))
  if fld l 24 2 = 0 then most else fld l 24 2

/-- G is a finite non-zero FP32 value. -/
def gFinite (g : Nat) : Bool := g % 2 ^ 31 != 0 && decide (g % 2 ^ 31 < 0x7F800000)

/-- The offset of a numeric field out of its range (order 6 of R202). Where several are, BYTE names the first of this list
(DESIGN CHOICE, log entry 67). -/
def rangeBad (l : List Byte) (f : BitVec 16) : Option Nat :=
  let opc := mxOpc l
  let a := afmt f
  let b := bfmt f
  let mul := opc == 5 || opc == 6
  let kc := fld l 24 2
  let isFb (c : Nat) : Bool := blockOf c == 16
  let bad : List (Bool × Nat) :=
    [(fld l 2 1 == 0xFF && fld l 4 4 != 0, 4), (fld l 3 1 == 0xFF && fld l 8 2 != 0, 8),
     ((opc == 3 || mul) && decide (31 < fld l 10 1), 10), (mul && decide (31 < fld l 11 1), 11),
     (mul && blockOf a == 0 && fld l 12 2 != 0, 12),
     (mul && (blockOf b == 0 || opc == 5) && fld l 14 2 != 0, 14),
     (mul && !(isFb a || isFb b) && fld l 20 4 != 0, 20),
     (opc == 8 && (if isFb (fld l 36 1) then !gFinite (fld l 20 4) else fld l 20 4 != 0), 20)] ++
    [(mul && kc != 0 && (decide (min (kOfCode a) (kOfCode b) < kc) || (blockOf a != 0 && kc % blockOf a != 0)
        || (opc == 6 && blockOf b != 0 && kc % blockOf b != 0)), 24),
     ((opc == 1 || opc == 2) && fld l 24 4 == 0, 24),
     (opc == 9 && (if mxFlag l 6 then fld l 24 4 % 8 != 0 else fld l 24 4 != 0), 24),
     (opc == 3 && !mxFlag l 2 && fld l 36 1 != 0, 36),
     (opc == 4 && (fld l 36 2 == 0 || decide (256 < fld l 36 2)), 36), (opc == 4 && decide (255 < fld l 38 2), 38),
     (opc == 8 && !mxFlag l 5 && fld l 40 4 != 0, 40),
     (opc == 8 && blockOf (fld l 36 1) == 0 && fld l 44 8 != 0, 44),
     (opc == 3 && !mxFlag l 1 && fld l 48 8 != 0, 48), (opc == 8 && !mxFlag l 1 && fld l 52 8 != 0, 52)]
  (bad.find? fun e => e.1).map Prod.snd

/-- The slots of a mask (R212). -/
def maskSlots (m : Nat) : List Nat := (List.range 32).filter fun i => m / 2 ^ i % 2 == 1

/-- A strand owns a slot (R196). -/
def Tile.owns (x : Tile) (k i : Nat) : Bool := Map.get? x.slotOwner i == some k

/-- The offset of the first slot field that names a slot the strand does not own (R196, R212). -/
def slotBad (x : Tile) (k : Nat) (l : List Byte) : Option Nat :=
  match mxOpc l with
  | 0x02 => if (maskSlots (fld l 24 4)).all fun i => x.owns k i then none else some 24
  | 0x03 => if x.owns k (fld l 10 1) then none else some 10
  | 0x05 | 0x06 => if !x.owns k (fld l 10 1) then some 10 else if !x.owns k (fld l 11 1) then some 11 else none
  | _ => none

/-- A claim that fails: REASON (R212). -/
def claimBad (x : Tile) (k : Nat) (l : List Byte) : Option Nat :=
  if mxOpc l ≠ 1 then none
  else
    let m := maskSlots (fld l 24 4)
    if m.any fun i => x.owns k i then some 1
    else if 24 < m.length + (x.slotOwner.filter fun e => e.2 == k).length then some 0
    else none

/-- The offset of a scale column field past column 255 (order 9). -/
def columnBad (l : List Byte) (f : BitVec 16) : Option Nat :=
  let kc := mxKc l f
  let past (off c : Nat) : Bool := blockOf c != 0 && decide (256 < fld l off 2 + kc / blockOf c)
  match mxOpc l with
  | 0x04 => if 256 < fld l 36 2 + fld l 38 2 then some 38 else none
  | 0x05 => if past 12 (afmt f) then some 12 else none
  | 0x06 => if past 12 (afmt f) then some 12 else if past 14 (bfmt f) then some 14 else none
  | _ => none

/-- The size of an accumulator element. -/
def accSize (f : BitVec 16) : Nat := if acct f = 2 then 8 else 4

/-- The accumulator block is misaligned or outside the partition (R215). -/
def accBad (pw : Word) (l : List Byte) (f : BitVec 16) : Bool :=
  let off := fld l 16 4
  readsAcct (mxOpc l) &&
    (off % 64 != 0 || decide (off < 0x4000 * pw.bits 7 0)
      || decide (0x4000 * (pw.bits 7 0 + pw.bits 15 8) < off + 1024 * accSize f))

/-- Bytes of a row of n elements of width w. -/
def rowBytes (n w : Nat) : Nat := (n * w + 7) / 8

def codeWidth (c : Nat) : Nat := match formatOf c with
  | some f => f.elem.width
  | none => 0

/-- Rows of a load and elements in each (R213). -/
def loadShape (l : List Byte) (f : BitVec 16) : Nat × Nat :=
  let k := kOfCode (loadFmt l f)
  if mxFlag l 4 then (k, 32) else (32, k)

/-- The runs of memory a command's address fields cover: addresses and bytes (R213, R214, R219, R220). -/
def mxRuns (l : List Byte) (f : BitVec 16) : List (Word × Nat) :=
  let at' (base : Nat) (str : Int) (r n : Nat) : Word × Nat := (fldW l base + Word.ofInt (str * r), n)
  match mxOpc l with
  | 0x03 =>
    let (rows, n) := loadShape l f
    let w := codeWidth (if mxFlag l 2 then fld l 36 1 else loadFmt l f)
    (List.range rows).map fun r => at' 24 (fldS l 32) r (rowBytes n w)
  | 0x04 => (List.range 32).map fun r => at' 24 (fldS l 32) r (fld l 36 2)
  | 0x08 =>
    let w := codeWidth (fld l 36 1)
    ((List.range 32).map fun r => at' 24 (fldS l 32) r (4 * w)) ++
      (if blockOf (fld l 36 1) = 0 then [] else [(fldW l 44, 32 * (32 / blockOf (fld l 36 1)))])
  | _ => []

/-- A failed check of R202: cause and SINFO. -/
def mxInfo (reason opc byte : Nat) (f : BitVec 16) : Word :=
  BitVec.ofNat 64 (reason % 256 * 2 ^ 56 + opc % 256 * 2 ^ 48 + byte % 256 * 2 ^ 40 + f.toNat)

/-- The checks of R202 in order, for strand k of tile t. Choices where R58 and R202 say nothing (DESIGN CHOICE, log entry
67): REASON of 0x16, 0x1A and 0x1B, a dash in the table, is 0; byte 36 with a value of 0x40 or more, which is no 6-bit code,
counts as a reserved format (0x19, REASON 0); where several fields offend at one order, BYTE names the first in the order
of the functions here, codes in FMT before byte 36, and DCOL + NCOL past column 255 names byte 38. -/
def mxCheck (s : State) (t k : Nat) (l : List Byte) (f : BitVec 16) : Option (Nat × Word) :=
  let x := s.tile t
  let opc := mxOpc l
  let fail (cause reason byte : Nat) : Option (Nat × Word) := some (cause, mxInfo reason opc byte f)
  if 9 < opc then fail 0x18 0 0
  else if !mxFlagsOk l then fail 0x18 1 1
  else
    match (List.range 64).find? fun i => !mxUsed opc i && fld l i 1 != 0 with
    | some i => fail 0x18 1 i
    | none =>
      if readsAcct opc && acct f == 3 then fail 0x18 2 0xFF
      else if (fmtCodes l f).any fun c => (formatOf c).isNone then fail 0x19 0 0xFF
      else if (fieldCode l).any fun c => (formatOf c).isNone then fail 0x19 0 36
      else
        match comboBad l f with
        | some (r, b) => fail 0x19 r b
        | none =>
          match rangeBad l f with
          | some b => fail 0x18 3 b
          | none =>
            match slotBad x k l with
            | some b => fail 0x16 0 b
            | none =>
              match claimBad x k l with
              | some r => fail 0x17 r 24
              | none =>
                match columnBad l f with
                | some b => fail 0x1A 0 b
                | none =>
                  if accBad x.partword l f then fail 0x1B 0 16
                  else if opc == 9 && mxFlag l 6 && (decide (2 ^ 20 ≤ fld l 24 4)
                      || region x.partword (fld l 24 4) == .register) then
                    some (0x0F, sinfo78 3 0 5 (BitVec.ofNat 64 (fld l 24 4)))
                  else
                    ((mxRuns l f).findSome? fun r => engCheck s t r.1 r.2).map fun e =>
                      (0x0F, sinfo78 e.2 0 5 e.1)

/-- A window stl is held: the queue is full, the strand has 16 commands, or a claimed slot is not free; a claim that fails its
checks is never held (R199, R212). -/
def mxHeld (s : State) (t k : Nat) (l : List Byte) (f : BitVec 16) : Bool :=
  let x := s.tile t
  (mxOpc l != 1 || (mxCheck s t k l f).isNone) &&
    (decide (32 ≤ x.mxq.length) || decide (16 ≤ (x.mxq.filter fun c => c.slot == k).length)
      || (mxOpc l == 1 && (maskSlots (fld l 24 4)).any fun i => (Map.get? x.slotOwner i).isSome))

/-- The command has no wait, or its wait is met now (R207). -/
def MxCmd.metNow (c : MxCmd) (x : Tile) : Bool :=
  fld c.line 2 1 == 0xFF || serialGe (x.sem (fld c.line 2 1)).s (fld c.line 4 4) 32

/-- The first command that has not completed is tested where it comes to the head of the starting order (R207, R337). -/
def Tile.testHead (x : Tile) (q : List MxCmd) : List MxCmd :=
  match q with
  | [] => []
  | c :: r => if c.phase = 2 then c :: x.testHead r else { c with met := c.met || c.phase == 0 && c.metNow x } :: r

/-- Enter a command in the queue; a claim owns its slots from here, a release ends ownership here (R199, R212). -/
def mxEnter (s : State) (t k : Nat) (l : List Byte) : State :=
  let x := s.tile t
  let st := x.strand k
  let c : MxCmd :=
    { id := s.nextId, line := l, fmt := st.fmt, satf := st.satf, slot := k, after := s.earlier t k 4, phase := 0,
      row := 0, buf := [], seen := [], key := 0, flags := 0, suspended := false, met := false, fails := 0 }
  let m := maskSlots (fld l 24 4)
  let owner := if mxOpc l = 1 then m.foldl (fun o i => Map.set o i k) x.slotOwner
    else if mxOpc l = 2 then m.foldl (fun o i => Map.set o i 16) x.slotOwner
    else x.slotOwner
  { s with nextId := s.nextId + 1 }.setTile t { x with mxq := x.testHead (x.mxq ++ [c]), slotOwner := owner }

/-! ## The work of each command -/

/-- What one step of a command answers. -/
inductive MxRes where
  | go (s : State) (c : MxCmd) (done : Bool)
  | fault (s : State) (cause : Nat) (info : Word)
  | wait (s : State)

/-- MXS bits (R208). -/
def mxsISat : Nat := 1
def mxsOvf : Nat := 2
def mxsNan : Nat := 4
def mxsInf : Nat := 8
def mxsCSat : Nat := 16
def mxsSNan : Nat := 32

/-- Conditions of one written element. -/
def elemFlags (n : NumFmt) (r : RRes) : Nat :=
  (if r.sat then mxsCSat else 0) ||| (if n.isNan r.code then mxsNan else 0) ||| (if n.isInf r.code then mxsInf else 0)

/-- The mode of an element under SR or ORND, and the key after its draw (R65, R67). -/
def mxMode (sr : Bool) (f : BitVec 16) (key : Word) : Rnd × Word :=
  if sr then
    let k := xs64 key
    (.sr (k.bits 63 48), k)
  else (rndOf (ornd f), key)

/-- Convert n elements of a packed row, from element i on. -/
def convRow (src dst : NumFmt) (sr satf : Bool) (f : BitVec 16) (str i n : Nat) (key : Word) (fl : Nat) :
    List Nat × Word × Nat :=
  match n with
  | 0 => ([], key, fl)
  | n + 1 =>
    let (mode, key) := mxMode sr f key
    let r := dst.convert mode satf src.isInt (src.decode (packedAt str src.width i))
    let (cs, key, fl) := convRow src dst sr satf f str (i + 1) n key (fl ||| elemFlags dst r)
    (r.code :: cs, key, fl)

/-- Write operand memory: whole 64-bit words lose latent errors. -/
def Tile.opWrite (x : Tile) (a : Nat) (bs : List Byte) : Tile :=
  { x with opmem := x.opmem.writeBytes a bs, opBad := clearBad x.opBad a bs.length }

def elemOf (c : Nat) : NumFmt := match formatOf c with
  | some f => f.elem
  | none => .bin

/-- The rows that a load or scale reads: how many, the bytes of each, and where row r begins (R213, R214). -/
def srcRows (c : MxCmd) : Nat × Nat :=
  if mxOpc c.line = 4 then (32, fld c.line 36 2)
  else
    let (rows, n) := loadShape c.line c.fmt
    (rows, rowBytes n (codeWidth (if mxFlag c.line 2 then fld c.line 36 1 else loadFmt c.line c.fmt)))

def srcRow (c : MxCmd) (r : Nat) : Word := fldW c.line 24 + Word.ofInt (fldS c.line 32 * r)

/-- The parts of row r in the memory lines it touches. -/
def rowParts (c : MxCmd) (r : Nat) : List (Word × Nat) :=
  let n := (srcRows c).2
  runLines (n + 1) (srcRow c r) n

/-- The part has been read. -/
def MxCmd.has (c : MxCmd) (p : Word × Nat) : Bool := c.seen.any fun e => e.1 == p.1 && e.2.length == p.2

/-- The parts that the rows from r on have in the memory line of an address. -/
def lineParts (c : MxCmd) (r : Nat) (a : Word) : List (Word × Nat) :=
  ((List.range ((srcRows c).1 - r)).flatMap fun i => (rowParts c (r + i)).filter fun p => p.1.toNat / 64 == a.toNat / 64).eraseDups

/-- Read the parts of one memory line. -/
def readParts (s : State) (t i : Nat) (ps : List (Word × Nat)) : EngRes (List (Word × List Byte)) :=
  match ps with
  | [] => .ok [] s
  | p :: r =>
    match engRead1 s false t i p.1 p.2 with
    | .wait s => .wait s
    | .fault f s => .fault f s
    | .ok bs s =>
      match readParts s t i r with
      | .wait s => .wait s
      | .fault f s => .fault f s
      | .ok cs s => .ok ((p.1, bs) :: cs) s

/-- The bytes of a row whose parts have all been read. -/
def MxCmd.rowData (c : MxCmd) (r : Nat) : List Byte :=
  (rowParts c r).flatMap fun p => ((c.seen.find? fun e => e.1 == p.1 && e.2.length == p.2).map Prod.snd).getD []

/-- One step of a load or scale at its row: one memory line is read, with all that the command's rows from here on have in
it, so that the command sees one version of each line (R207, R213); or, once its lines are there, the row is put in its
place (R195, R197). -/
def rowStep (put : State → Nat → MxCmd → List Byte → State × MxCmd) (s : State) (t : Nat) (c : MxCmd) : MxRes :=
  match (rowParts c c.row).find? fun p => !c.has p with
  | some p =>
    match readParts s t c.id (lineParts c c.row p.1) with
    | .wait s => .wait s
    | .fault e s => .fault s e.cause (e.info 0)
    | .ok ps s => .go s { c with seen := c.seen ++ ps } false
  | none =>
    let (s, d) := put s t c (c.rowData c.row)
    let rest := (List.range ((srcRows c).1 - (c.row + 1))).flatMap fun i => rowParts c (c.row + 1 + i)
    .go s { d with row := c.row + 1, seen := c.seen.filter fun e => rest.contains (e.1, e.2.length) }
      (decide ((srcRows c).1 ≤ c.row + 1))

/-- A row of mx.load goes into its slot, converted under CONV (R213). -/
def putLoad (s : State) (t : Nat) (c : MxCmd) (bs : List Byte) : State × MxCmd :=
  let l := c.line
  let n := (loadShape l c.fmt).2
  let w := codeWidth (loadFmt l c.fmt)
  let at' := 4096 * fld l 10 1 + (if mxFlag l 4 then 4 * w else 128) * c.row
  let (out, key, fl) :=
    if mxFlag l 2 then
      let (cs, key, fl) :=
        convRow (elemOf (fld l 36 1)) (elemOf (loadFmt l c.fmt)) (mxFlag l 1) c.satf c.fmt (leNat bs) 0 n c.key c.flags
      (leBytes (packElems w cs) (rowBytes n w), key, fl)
    else (bs, c.key, c.flags)
  (s.setTile t ((s.tile t).opWrite at' out), { c with key := key, flags := fl })

/-- A row of mx.scale goes into scale memory (R214). -/
def putScale (s : State) (t : Nat) (c : MxCmd) (bs : List Byte) : State × MxCmd :=
  let x := s.tile t
  let a := 256 * c.row + fld c.line 38 2
  (s.setTile t { x with scale := x.scale.writeBytes a bs, scaleBad := clearBad x.scaleBad a bs.length }, c)

def loadStep (s : State) (t : Nat) (c : MxCmd) : MxRes := rowStep putLoad s t c

def scaleStep (s : State) (t : Nat) (c : MxCmd) : MxRes := rowStep putScale s t c

/-- Element (r, e) of a slot in row form or K-major form (R195). -/
def slotElem (x : Tile) (slot w : Nat) (kmaj : Bool) (r e : Nat) : Nat :=
  let base := 4096 * slot + (if kmaj then 4 * w else 128) * r
  let b := w * e / 8
  leNat (x.opmem.readBytes (base + b) ((w + 7) / 8 + 1)) / 2 ^ (w * e % 8) % 2 ^ w

/-- The scale byte of row r, block j (R197). -/
def scaleByte (x : Tile) (r off j : Nat) : Nat := (x.scale.read (256 * r + off + j)).toNat

/-- A(m, k): an operand in row form under its scales. -/
def rowOperand (x : Tile) (slot code off g m k : Nat) : FVal :=
  match formatOf code with
  | none => .nan
  | some f =>
    let sc := if f.isBlock then scaleByte x m off (k / f.block) else 0
    f.value (slotElem x slot f.elem.width false m k) sc g

/-- B(k, n): row form transposed for mmat, K-major for mma (R215). -/
def mulB (x : Tile) (l : List Byte) (code k n : Nat) : FVal :=
  if mxOpc l = 6 then rowOperand x (fld l 11 1) code (fld l 14 2) (fld l 20 4) n k
  else
    match formatOf code with
    | none => .nan
    | some f => f.value (slotElem x (fld l 11 1) f.elem.width true k n) 0 (fld l 20 4)

/-- The exact sum of a group of products, from −0 (R215, R216). -/
def groupSum (x : Tile) (l : List Byte) (f : BitVec 16) (m n k cnt : Nat) : FVal :=
  match cnt with
  | 0 => .fin true 0 0
  | cnt + 1 =>
    let a := rowOperand x (fld l 10 1) (afmt f) (fld l 12 2) (fld l 20 4) m k
    (FVal.add .rne (FVal.mul a (mulB x l (bfmt f) k n)).1 (groupSum x l f m n (k + 1) cnt)).1

/-- The accumulator's float format (R215). -/
def accFmt (f : BitVec 16) : FFmt := if acct f = 2 then fp64 else fp32

/-- An exact integer value. -/
def FVal.toInt (v : FVal) : Int :=
  match v with
  | .fin neg m e => let q : Int := ((m * 2 ^ e.toNat : Nat) : Int); if neg then -q else q
  | _ => 0

/-- Add the groups from k on to an accumulator code; the flag is ISAT (R215). -/
def accumulate (x : Tile) (l : List Byte) (f : BitVec 16) (m n kc k acc : Nat) (sat : Bool) (groups : Nat) :
    Nat × Bool :=
  match groups with
  | 0 => (acc, sat)
  | groups + 1 =>
    let sum := groupSum x l f m n k (min 16 (kc - k))
    if acct f = 1 then
      let v := signedBits 32 acc + sum.toInt
      let r := satInt v (-(2 ^ 31)) (2 ^ 31 - 1)
      accumulate x l f m n kc (k + 16) (r % 2 ^ 32).toNat (sat || r != v) groups
    else
      let g := accFmt f
      let r := g.convert .rne false (FVal.add .rne (g.decode acc) sum).1
      accumulate x l f m n kc (k + 16) r.code sat groups

/-- The initial accumulator of OVW: −0, or 0 for INT32. -/
def accInit (f : BitVec 16) : Nat := if acct f = 1 then 0 else (accFmt f).signed true 0

/-- The product block: 1,024 codes in order, and the conditions of MXS (R215, R216). -/
def product (x : Tile) (l : List Byte) (f : BitVec 16) (old : List Byte) : List Byte × Nat :=
  let kc := mxKc l f
  let sz := accSize f
  let cells := (List.range 1024).map fun i =>
    let acc := if mxFlag l 0 then accInit f else fld old (sz * i) sz
    accumulate x l f (i / 32) (i % 32) kc 0 acc false ((kc + 15) / 16)
  let one (c : Nat × Bool) : Nat :=
    (if c.2 then mxsISat else 0) |||
      (if acct f = 1 then 0
       else (if ((accFmt f).decode c.1).isNan then mxsNan else 0)
        ||| (if (NumFmt.float (accFmt f)).isInf c.1 then mxsInf else 0))
  (cells.flatMap fun c => leBytes c.1 sz, cells.foldl (fun fl c => fl ||| one c) 0)

/-- The runs of operand memory a multiply reads: KC elements of each row of A and of B (R195, R215). -/
def mulSlots (l : List Byte) (f : BitVec 16) : List (Nat × Nat) :=
  let kc := mxKc l f
  let rows (slot w : Nat) : List (Nat × Nat) := (List.range 32).map fun m => (4096 * slot + 128 * m, rowBytes kc w)
  rows (fld l 10 1) (codeWidth (afmt f)) ++
    (if mxOpc l = 6 then rows (fld l 11 1) (codeWidth (bfmt f)) else [(4096 * fld l 11 1, kc * (4 * codeWidth (bfmt f)))])

/-- The runs of scale memory it reads: one byte for each block (R197, R215). -/
def mulScales (l : List Byte) (f : BitVec 16) : List (Nat × Nat) :=
  let kc := mxKc l f
  let cols (off bs : Nat) : List (Nat × Nat) := if bs = 0 then [] else (List.range 32).map fun m => (256 * m + off, kc / bs)
  cols (fld l 12 2) (blockOf (afmt f)) ++ (if mxOpc l = 6 then cols (fld l 14 2) (blockOf (bfmt f)) else [])

/-- A bad word among the operands of a multiply, in slots and then in scale rows (R379). -/
def mulBad (x : Tile) (l : List Byte) (f : BitVec 16) : Option Nat :=
  ((mulSlots l f).findSome? fun e => hasBad x.opBad e.1 e.2).or ((mulScales l f).findSome? fun e => hasBad x.scaleBad e.1 e.2)

/-- The log entry of an error in a tile's operand or scale memory: correctable (0) or not (1). -/
def State.opLog (s : State) (t kind b : Nat) : State :=
  let s := s.log t kind 1 t (BitVec.ofNat 64 b) (Config.syndrome s.oracle)
  if kind = 1 then s.recurred t else s

/-- Reads of operand memory correct and log what they can (R379, R380). -/
def State.opScrub (s : State) (t : Nat) (runs : List (Nat × Nat)) : State :=
  let x := s.tile t
  let hit := x.opWeak.filter fun b => runs.any fun e => decide (b < e.1 + e.2 ∧ e.1 < b + 8)
  hit.foldl (fun s b => s.opLog t 0 b) (s.setTile t { x with opWeak := x.opWeak.filter fun b => !hit.contains b })

/-- The same of scale memory. -/
def State.scaleScrub (s : State) (t : Nat) (runs : List (Nat × Nat)) : State :=
  let x := s.tile t
  let hit := x.scaleWeak.filter fun b => runs.any fun e => decide (b < e.1 + e.2 ∧ e.1 < b + 8)
  hit.foldl (fun s b => s.opLog t 0 b) (s.setTile t { x with scaleWeak := x.scaleWeak.filter fun b => !hit.contains b })

/-- Lines of the accumulator block. -/
def accLines (f : BitVec 16) : Nat := 16 * accSize f

/-- Write line r of the result block, once every line has been read. -/
def accWrite (s : State) (t : Nat) (c : MxCmd) (r : Nat) : MxRes :=
  let off := fld c.line 16 4 + 64 * r
  if s.lockedOut t off 64 then .wait s
  else
    .go (s.poolWrite t off ((c.buf.drop (64 * r)).take 64)) { c with row := c.row + 1 }
      (decide (accLines c.fmt ≤ r + 1))

/-- Read line r of the accumulator block into the command (R217, R219). -/
def accRead (s : State) (t : Nat) (c : MxCmd) : MxRes :=
  let off := fld c.line 16 4 + 64 * c.row
  if (hasBad (s.tile t).poolBad off 64).isSome then
    .fault (s.poolLog t off) 0x31 (sinfo78 0 0 0 (BitVec.ofNat 64 off))
  else .go (s.poolScrub t off 64) { c with row := c.row + 1, buf := c.buf ++ s.poolRead t off 64 } false

/-- One step of mx.mma or mx.mmat: C's lines are read, the product is formed, its lines are written (R215, R217). -/
def mulStep (s : State) (t : Nat) (c : MxCmd) : MxRes :=
  let n := accLines c.fmt
  if c.row < n ∧ !mxFlag c.line 0 then accRead s t c
  else if c.row ≤ n ∧ c.flags / 256 = 0 then
    match mulBad (s.tile t) c.line c.fmt with
    | some b => .fault (s.opLog t 1 b) 0x31 (sinfo78 1 0 0 (BitVec.ofNat 64 b))
    | none =>
      let (bs, fl) := product (s.tile t) c.line c.fmt c.buf
      .go ((s.opScrub t (mulSlots c.line c.fmt)).scaleScrub t (mulScales c.line c.fmt)) { c with row := n, buf := bs, flags := fl + 256 } false
  else accWrite s t c (c.row - n)

/-- One line of mx.zero (R218). -/
def zeroStep (s : State) (t : Nat) (c : MxCmd) : MxRes := accWrite s t { c with buf := zeros (64 * accLines c.fmt) } c.row

/-! ### mx.store -/

/-- x / d to an element, for exact values with d finite and not zero; it saturates to ±max (R220, R221). -/
def NumFmt.convertQuot (n : NumFmt) (mode : Rnd) (x d : FVal) : RRes :=
  match x, d with
  | .fin a m e, .fin b k g =>
    let neg := a != b
    match n with
    | .float f => if m = 0 then { code := f.signed neg 0, flags := 0, sat := false } else f.round mode true neg m k (e - g)
    | _ =>
      let (u, lo, hi) : Int × Int × Int := match n with
        | .mxint8 => (-6, -127, 127)
        | _ => (0, n.range.1, n.range.2)
      let (q, _) := roundAt mode neg m k (e - g) u
      let v : Int := if neg then -(q : Int) else q
      let r := satInt v lo hi
      { code := n.ofInt r, flags := 0, sat := r != v }
  | .inf a, .fin b _ _ =>
    let neg := a != b
    match n with
    | .float f => { code := f.signed neg f.maxCode, flags := flOverflow + flInexact, sat := true }
    | .mxint8 => { code := n.ofInt (if neg then -127 else 127), flags := 0, sat := true }
    | _ => { code := n.ofInt (if neg then n.range.1 else n.range.2), flags := 0, sat := true }
  | _, _ => { code := 0, flags := 0, sat := false }

/-- emax of an element format (R53, R61). -/
def NumFmt.emax (n : NumFmt) : Int :=
  match n with
  | .float f => (((f.maxCode / 2 ^ f.mb : Nat) : Int)) - f.bias
  | _ => 0

def FVal.abs (v : FVal) : FVal :=
  match v with
  | .fin _ m e => .fin false m e
  | .inf _ => .inf false
  | .nan => .nan

/-- The greatest magnitude of a block. -/
def maxAbs (xs : List FVal) : FVal := xs.foldl (fun b x => if b.lt x.abs then x.abs else b) (.fin false 0 0)

/-- M of R221. -/
def fbMax (n : NumFmt) : FVal :=
  match n with
  | .float f => if f = e2m1 then .fin false 6 0 else .fin false 15 (-1)
  | .int _ _ => .fin false 7 0
  | _ => .fin false 1 0

/-- A block's scale byte, the divisor of its elements (none: all codes 0) and its conditions (R220, R221). g is G. -/
def blockScale (f : Format) (g : FVal) (xs : List FVal) : Nat × Option FVal × Nat :=
  let top := maxAbs xs
  let nan := xs.any FVal.isNan
  let zero := top.eq (.fin false 0 0)
  match f.scale with
  | .fb =>
    if nan then (0x7F, none, mxsSNan)
    else if zero then (0, none, 0)
    else
      let lim (c : Nat) : FVal := (FVal.mul (FVal.mul (scaleE4 c) (fbMax f.elem)).1 g.abs).1
      match (List.range 0x7F).find? fun c => !(lim c).lt top with
      | some c => (c, some (FVal.mul (scaleE4 c) g).1, 0)
      | none => (0x7E, some (FVal.mul (scaleE4 0x7E) g).1, mxsOvf)
  | _ =>
    if nan then (0xFF, none, mxsSNan)
    else if zero then (0, none, 0)
    else
      let d : FVal := match f.scale with
        | .fbE8 => g
        | _ => .fin false 1 0
      let e : Int := match top, d with
        | .fin _ m a, .fin _ k b => floorLog2 m k + a - b - f.elem.emax
        | _, _ => 128
      let (e, fl) : Int × Nat := if 127 < e then (127, mxsOvf) else if e < -127 then (-127, 0) else (e, 0)
      ((e + 127).toNat, some (FVal.mul (.fin false 1 e) d).1, fl)

/-- The elements of a block, each with its draw (R219 to R221). -/
def blockElems (n : NumFmt) (sr : Bool) (f : BitVec 16) (d : Option FVal) (xs : List FVal) (key : Word) (fl : Nat) :
    List Nat × Word × Nat :=
  match xs with
  | [] => ([], key, fl)
  | x :: r =>
    let (mode, key) := mxMode sr f key
    let q : RRes := match d with
      | none => { code := 0, flags := 0, sat := false }
      | some d => n.convertQuot mode x d
    let (cs, key, fl) := blockElems n sr f d r key (fl ||| (if q.sat then mxsCSat else 0))
    (q.code :: cs, key, fl)

/-- The blocks of a row: element codes, scale bytes, key, conditions. -/
def storeBlocks (o : Format) (g : FVal) (sr : Bool) (f : BitVec 16) (xs : List FVal) (blocks : Nat) (key : Word)
    (fl : Nat) : List Nat × List Nat × Word × Nat :=
  match blocks with
  | 0 => ([], [], key, fl)
  | blocks + 1 =>
    let b := xs.take o.block
    let (sc, d, bf) := blockScale o g b
    let (cs, key, fl) := blockElems o.elem sr f d b key (fl ||| bf)
    let (ds, scs, key, fl) := storeBlocks o g sr f (xs.drop o.block) blocks key fl
    (cs ++ ds, sc :: scs, key, fl)

/-- The elements of a row in a plain format. -/
def storePlain (n : NumFmt) (sr satf fromInt : Bool) (f : BitVec 16) (xs : List FVal) (key : Word) (fl : Nat) :
    List Nat × Word × Nat :=
  match xs with
  | [] => ([], key, fl)
  | x :: r =>
    let (mode, key) := mxMode sr f key
    let q := n.convert mode satf fromInt x
    let (cs, key, fl) := storePlain n sr satf fromInt f r key (fl ||| elemFlags n q)
    (q.code :: cs, key, fl)

/-- C(m, n) as it is stored: an exact value, times ASCALE under ASCL (R219). -/
def storeValue (c : MxCmd) (i : Nat) : FVal :=
  let sz := accSize c.fmt
  let code := fld c.buf (sz * i) sz
  let v := if acct c.fmt = 1 then ofInteger (signedBits 32 code) else (accFmt c.fmt).decode code
  if mxFlag c.line 5 then (FVal.mul v (fp32.decode (fld c.line 40 4))).1 else v

/-- Row m of a store: element bytes, scale bytes, key, conditions. -/
def storeRow (c : MxCmd) (m : Nat) : List Byte × List Byte × Word × Nat :=
  let l := c.line
  let xs := (List.range 32).map fun n => storeValue c (32 * m + n)
  match formatOf (fld l 36 1) with
  | none => ([], [], c.key, c.flags)
  | some o =>
    let w := o.elem.width
    if o.isBlock then
      let (cs, scs, key, fl) :=
        storeBlocks o (fp32.decode (fld l 20 4)) (mxFlag l 1) c.fmt xs (32 / o.block) c.key c.flags
      (leBytes (packElems w cs) (4 * w), scs.map fun b => BitVec.ofNat 8 b, key, fl)
    else
      let (cs, key, fl) :=
        storePlain o.elem (mxFlag l 1) c.satf (acct c.fmt == 1 && !mxFlag l 5) c.fmt xs c.key c.flags
      (leBytes (packElems w cs) (4 * w), [], key, fl)

/-- The key that row m's first element draws from: one draw for each element of the rows before it (R219). -/
def rowKey (key : Word) (m : Nat) : Word :=
  match m with
  | 0 => key
  | m + 1 => (List.range 32).foldl (fun k _ => xs64 k) (rowKey key m)

/-- The bytes and the scale bytes of a stored row, and where they go: base, stride and length of each (R219, R220). -/
def storeRuns (c : MxCmd) (m : Nat) : List (Word × Nat) :=
  let l := c.line
  let o := fld l 36 1
  let scales := if blockOf o = 0 then 0 else 32 / blockOf o
  [(fldW l 24 + Word.ofInt (fldS l 32 * m), 4 * codeWidth o), (fldW l 44 + BitVec.ofNat 64 (m * scales), scales)]

/-- The memory lines of the rows of a store, in the order of first writing. -/
def storeLines (c : MxCmd) : List Nat :=
  ((List.range 32).flatMap fun m =>
    (storeRuns c m).flatMap fun r => (runLines (r.2 + 1) r.1 r.2).map fun p => p.1.toNat / 64).eraseDups

/-- The part of a run of bytes that lies in a memory line. -/
def partIn (line : Nat) (a : Word) (bs : List Byte) : List (Word × List Byte) :=
  ((runLines (bs.length + 1) a bs.length).filter fun p => p.1.toNat / 64 == line).map fun p =>
    (p.1, (bs.drop (p.1 - a).toNat).take p.2)

/-- What rows m on write in a memory line, rows in ascending order and a row's scales after its elements, and the
conditions of those rows. -/
def lineWrites (c : MxCmd) (line m n : Nat) : List (Word × List Byte) × Nat :=
  match n with
  | 0 => ([], 0)
  | n + 1 =>
    let rest := lineWrites c line (m + 1) n
    if (storeRuns c m).any fun r => (runLines (r.2 + 1) r.1 r.2).any fun p => p.1.toNat / 64 == line then
      let (bs, scs, _, fl) := storeRow { c with key := if mxFlag c.line 1 then rowKey c.key m else c.key, flags := 0 } m
      match storeRuns c m with
      | [d, e] => (partIn line d.1 bs ++ partIn line e.1 scs ++ rest.1, fl ||| rest.2)
      | _ => rest
    else rest

/-- Write the parts of one memory line. -/
def writeParts (s : State) (t i : Nat) (ps : List (Word × List Byte)) : EngRes Unit :=
  match ps with
  | [] => .ok () s
  | p :: r =>
    match engWrite1 s false t i p.1 p.2 with
    | .wait s => .wait s
    | .fault f s => .fault f s
    | .ok _ s => writeParts s t i r

/-- One step of mx.store: a line of the accumulator is read, or one memory line is written with all that the rows put in
it, a later row winning, once none of its parts has to wait (R210, R219). -/
def storeStep (s : State) (t : Nat) (c : MxCmd) : MxRes :=
  let n := accLines c.fmt
  if c.row < n then accRead s t c
  else
    let lines := storeLines c
    let w := lineWrites c (lines.getD (c.row - n) 0) 0 32
    if w.1.any fun p => engBlocked s t p.1 p.2.length then .wait s
    else
      let (ok, s) := (w.1.map Prod.fst).foldl (askLine t c.id) (true, s)
      if !ok then .wait s
      else match writeParts s t c.id w.1 with
      | .wait s => .wait s
      | .fault e s => .fault s e.cause (e.info 1)
      | .ok _ s => .go s { c with row := c.row + 1, flags := c.flags ||| w.2 } (decide (lines.length ≤ c.row - n + 1))

/-- mx.fence: with STATW, MXS is written and cleared (R222). -/
def fenceStep (s : State) (t : Nat) (c : MxCmd) : MxRes :=
  if mxFlag c.line 6 then
    let off := fld c.line 24 4
    if s.lockedOut t off 8 then .wait s
    else
      let st := s.strand t c.slot
      let s := s.poolWrite t off (leBytes st.mxs.toNat 8)
      .go (s.setStrand t c.slot { (s.strand t c.slot) with mxs := 0 }) c true
  else .go s c true

/-! ## The sequencer (R206 to R211) -/

/-- MAC per cycle of a width (R223). -/
def mxRate (w : Nat) : Nat :=
  match w with
  | 64 => 32
  | 32 => 128
  | 16 => 512
  | 8 => 1024
  | 6 => 1536
  | _ => 2048

/-- The rate of a format code: FP19 has its own row. -/
def mxRateOf (c : Nat) : Nat := if c = 2 then 256 else mxRate (codeWidth c)

/-- Lines in n bytes. -/
def lines64 (n : Nat) : Nat := (n + 63) / 64

/-- The charge of a command (R211). The manual does not say how the lines of a load, scale or store are counted: the model takes
the bytes that the command puts into its slot or scale memory, or writes, scale bytes with elements, in lines of 64, rounded
up (DESIGN CHOICE, log entry 73). -/
def mxCharge (c : MxCmd) : Nat :=
  let l := c.line
  match mxOpc l with
  | 0x05 | 0x06 =>
    let r := min (mxRateOf (afmt c.fmt)) (mxRateOf (bfmt c.fmt))
    (1024 * mxKc l c.fmt + r - 1) / r
  | 0x03 =>
    let (rows, n) := loadShape l c.fmt
    lines64 (rows * rowBytes n (codeWidth (loadFmt l c.fmt)))
  | 0x04 => lines64 (32 * fld l 36 2)
  | 0x07 => accLines c.fmt
  | 0x08 => lines64 (((mxRuns l c.fmt).map Prod.snd).sum)
  | _ => 0

def readsFmt (opc : Nat) : Bool := opc == 3 || readsAcct opc

/-- The first command that has not completed, with the test that it is first in the queue. -/
def mxHead (x : Tile) : Option MxCmd := x.mxq.find? fun c => c.phase != 2

/-- A command can start (R206, R207, R211, R222, R331). -/
def mxCanStart (s : State) (t : Nat) (c : MxCmd) : Bool :=
  let x := s.tile t
  let l := c.line
  !x.stopped && decide (0 < x.mbudget) && (c.met || c.metNow x)
    && s.performed c.after
    && (mxOpc l != 9 || (x.mxq.head?.map MxCmd.id) == some c.id)

/-- A command that starts: its charge, the remembered FMT, its seed. -/
def mxStart (s : State) (t : Nat) (c : MxCmd) : State × MxCmd :=
  let x := s.tile t
  let l := c.line
  let seed := if mxOpc l = 3 then fldW l 48 else if mxOpc l = 8 then fldW l 52 else 0
  let x := { x with
    mbudget := x.mbudget - mxCharge c, lastFmt := if readsFmt (mxOpc l) then some c.fmt else x.lastFmt }
  (s.setTile t x, { c with phase := 1, key := seed })

/-- Put a command back in its place. -/
def Tile.mxSet (x : Tile) (c : MxCmd) : Tile := { x with mxq := x.mxq.map fun d => if d.id = c.id then c else d }

/-- The step's outcome: progress, completion with its MXS conditions, or suspension with a trap (R208, R209). -/
def mxCommit (t : Nat) (c : MxCmd) (r : MxRes) : State :=
  match r with
  | .wait s => s
  | .fault s cause info =>
    ((s.forget c.id).setTile t ((s.tile t).mxSet { c with suspended := true })).report t c.slot c.id cause info
  | .go s d done =>
    let s := s.forget c.id
    let d := { d with fails := 0 }
    if done then
      let x := (s.tile t).mxSet { d with phase := 2, buf := [], seen := [] }
      let s := s.setTile t { x with mxq := x.testHead x.mxq }
      let st := s.strand t c.slot
      s.setStrand t c.slot { st with mxs := st.mxs ||| BitVec.ofNat 32 (d.flags % 64) }
    else s.setTile t ((s.tile t).mxSet d)

/-- One step of the command at the head of the starting order, when it has this opcode. -/
def mxStep (opc : Nat) (work : State → Nat → MxCmd → MxRes) (t : Nat) (s : State) : Out :=
  match mxHead (s.tile t) with
  | none => .next s
  | some c =>
    if mxOpc c.line ≠ opc ∨ c.suspended then .next s
    else if c.phase = 1 then .next (mxCommit t c (work s t c))
    else if mxCanStart s t c then
      let (s, c) := mxStart s t c
      .next (mxCommit t c (work (s.setTile t ((s.tile t).mxSet c)) t c))
    else .next s

/-- A command with no effect of its own beyond its wait and signal. -/
def mxIdle (s : State) (_t : Nat) (c : MxCmd) : MxRes := .go s c true

def execMxNop (t : Nat) (s : State) : Out := mxStep 0x00 mxIdle t s

/-- MX_CLAIM: the slots are owned since the stl (R212). -/
def execMxClaim (t : Nat) (s : State) : Out := mxStep 0x01 mxIdle t s

/-- MX_RELEASE: the slots become free at retirement (R212). -/
def execMxRelease (t : Nat) (s : State) : Out := mxStep 0x02 mxIdle t s
def execMxLoad (t : Nat) (s : State) : Out := mxStep 0x03 loadStep t s
def execMxScale (t : Nat) (s : State) : Out := mxStep 0x04 scaleStep t s
def execMxMma (t : Nat) (s : State) : Out := mxStep 0x05 mulStep t s
def execMxMmat (t : Nat) (s : State) : Out := mxStep 0x06 mulStep t s
def execMxZero (t : Nat) (s : State) : Out := mxStep 0x07 zeroStep t s
def execMxStore (t : Nat) (s : State) : Out := mxStep 0x08 storeStep t s
def execMxFence (t : Nat) (s : State) : Out := mxStep 0x09 fenceStep t s

/-- The source or destination byte at a position of the copy order (R96); it ends with the run. -/
def srcAt (d : CopyDesc) (i : Nat) : Word :=
  d.src + Word.ofInt (d.sstr2 * (i / (d.n0 * d.n1) : Nat) + d.sstr1 * (i / d.n0 % d.n1 : Nat) + (i % d.n0 : Nat))

def dstAt (d : CopyDesc) (i : Nat) : Word :=
  d.dst + Word.ofInt (d.dstr2 * (i / (d.n0 * d.n1) : Nat) + d.dstr1 * (i / d.n0 % d.n1 : Nat) + (i % d.n0 : Nat))

/-- The runs of an endpoint: address and bytes, in copy order. -/
def runsOf (d : CopyDesc) (dst : Bool) : List (Word × Nat) :=
  (List.range (d.n1 * d.n2)).map fun r => ((if dst then dstAt d (r * d.n0) else srcAt d (r * d.n0)), d.n0)

/-- The slots a slot endpoint touches. -/
def endSlots (d : CopyDesc) (dst : Bool) : List Nat :=
  (runsOf d dst).flatMap fun r =>
    let lo := r.1.toNat / 4096
    (List.range ((r.1.toNat + r.2 - 1) / 4096 - lo + 1)).map fun i => lo + i

/-- Slots that a queued or running copy's slot endpoints touch (R95, R212). -/
def copySlots (e : CopyEnt) : List Nat :=
  if e.state = 0 ∨ 3 < e.state then []
  else
    let d := e.desc
    (if d.skind = 1 then endSlots d false else []) ++ (if d.dkind = 1 then endSlots d true else [])

/-- The head command retires: its signal is performed, released slots become free (R207, R212). -/
def mxRetire (s : State) (t : Nat) (c : MxCmd) (rest : List MxCmd) : State :=
  let x := s.tile t
  let free := if mxOpc c.line = 2 then maskSlots (fld c.line 24 4) else []
  let s := s.setTile t { x with mxq := rest, slotOwner := free.foldl (fun o i => Map.erase o i) x.slotOwner }
  s.semAdd t (fld c.line 3 1) (fld c.line 8 2) false

/-- MX_COMPLETE: the head of the queue has completed; a release waits for the copies in its slots (R207, R212). -/
def execMxComplete (t : Nat) (s : State) : Out :=
  let x := s.tile t
  match x.mxq with
  | c :: rest =>
    if c.phase ≠ 2 then .next s
    else if mxOpc c.line = 2 ∧ (x.copies.any fun e => (copySlots e.2).any fun i => (maskSlots (fld c.line 24 4)).contains i)
    then .next s
    else .next (mxRetire s t c rest)
  | [] => .next s

end Sys2Proof.Machine
end

