-- ==== Sys2Proof/Machine/Lsu.lean ====
section
/-! DEFINITION. The lsu (R124 to R133), its request window and the translation stations (R84, R85), the die L2 (R87), sorus
accesses (R131), lsu.blk (R109) and the invalidation of translations (R86). -/
namespace Sys2Proof.Machine

def lsuA (s : State) : Word := s.opnd 0x160

/-! ## Checks (R126) -/

/-- Where an access goes once orders 1 to 4 have passed. -/
inductive Place where
  | own (off : Nat)
  | sorus (t off : Nat)
  | global (va : Word)
  | window
  /-- lsu.pf of the local window page -/
  | dropped
deriving DecidableEq, Repr

/-- What an access is: the ACCESS of R78, its bytes, and for a line operation its near line. -/
structure Access where
  access : Nat
  bytes : Nat
  near : Option Nat
  pf : Bool
deriving DecidableEq, Repr

/-- Order 1: the class of an address on tile t; a service tile has no command window (R75, R198, R397). -/
def classFault (t : Nat) (a : Word) (x : Access) : Option Nat :=
  match classify a with
  | .error r => some r
  | .ok (.global _) =>
    if inWindowPage a && !x.pf && !(x.access == 3 && a.bits 15 0 == 0x0040 && !isService t) then some 0 else none
  | .ok _ => none

/-- An offset in a partition that the strand's mode forbids (R113). -/
def partitionBad (s : State) (off : Nat) : Bool :=
  !s.me.sup && region s.here.partword off == .register

/-- Order 4 for the far address: REASON 2 or 3. -/
def farFault (s : State) (a : Word) : Option Nat :=
  match classify a with
  | .ok (.global _) => none
  | .ok p =>
    match s.poolTarget s.cur.1 p with
    | none => some 2
    | some (_, off) => if partitionBad s off then some 3 else none
  | .error _ => none

/-- The place an address that passed the checks names (R131). -/
def placeOf (s : State) (a : Word) (x : Access) : Place :=
  match classify a with
  | .ok (.own off) => .own off
  | .ok (.sorus i off) =>
    if i = s.sorusIndex s.cur.1 then .own off
    else match s.poolTarget s.cur.1 (.sorus i off) with
      | some (t, off) => .sorus t off
      | none => .own off
  | .ok (.global va) => if inWindowPage a then (if x.pf then .dropped else .window) else .global va
  | _ => .own 0

/-- The watch selects the strand's accesses of this ACCESS at an address (R390). -/
def watchHit (s : State) (access : Nat) (a : Word) : Bool :=
  let w := s.here
  let waddr := Map.find 0 w.counters 4
  let wctl := Map.find 0 w.counters 5
  let len := wctl.bits 9 4
  let sel := if access = 0 ∨ access = 2 then wctl.bit 0 else wctl.bit 1
  w.watched && sel && wctl.bit (16 + s.cur.2) && waddr.toNat / 2 ^ len == a.toNat / 2 ^ len

/-- The checks of R126, orders 1 to 4, then the watch of R390: a cause with SINFO, or where the access goes. -/
def lsuCheck (s : State) (a : Word) (x : Access) : Except (Nat × Word) Place :=
  match classFault s.cur.1 a x with
  | some r => .error (0x0F, sinfo78 r 0 x.access a)
  | none =>
    if (classify a).toOption matches some (.remote _ _) then .error (0x12, sinfo78 2 0 x.access a)
    else if x.bytes ≠ 0 ∧ !x.pf ∧ a.toNat % x.bytes ≠ 0 then .error (0x0E, sinfo78 0 0 x.access a)
    else if x.near.any fun d => d % 64 != 0 then
      .error (0x0E, sinfo78 1 0 x.access (BitVec.ofNat 64 (x.near.getD 0)))
    else
      match farFault s a with
      | some r => .error (0x0F, sinfo78 r 0 x.access a)
      | none =>
        if x.near.any fun d => partitionBad s d then
          .error (0x0F, sinfo78 3 0 x.access (BitVec.ofNat 64 (x.near.getD 0)))
        else if !x.pf && watchHit s x.access a then .error (0x2E, sinfo78 0 0 x.access a)
        else .ok (placeOf s a x)

/-! ## Requests -/

/-- A global request: an entry of the window, and its packet to the station (R84, R85). -/
def sendGlobal (s : State) (kind : LsuKind) (va : Word) (after : List Nat) : State :=
  let (t, k) := s.cur
  let st := s.me
  let e : WinEnt := { id := s.nextId, kind := kind, far := va, trap := st.tl, state := 0, after := after }
  (s.setMe { st with window := st.window ++ [e] }).send t k t (.lsu kind va st.tl none) after

/-- A request to another tile of the sorus (R131). -/
def sendSorus (s : State) (kind : LsuKind) (u off : Nat) (after : List Nat) : State :=
  s.send s.cur.1 s.cur.2 u (.pool kind off s.me.tl) after

/-! ## What an access waits for -/

/-- The operations not yet performed that a fence or acquire puts before a later access of these kinds within a scope
(R329, R330). -/
def State.dueOrder (s : State) (ld st : Bool) (scope : Nat) : List Nat :=
  ((s.me.order.filter fun o => (o.acq || (ld && o.qld) || (st && o.qst)) && decide (scope ≤ o.scope)).flatMap
    Order.ids).filter fun i => !s.performed [i]

/-- The strand's vector loads whose rows are still to come; one that an error has stopped is latched instead (R180, R181,
R192). -/
def vecLoads (s : State) (t k : Nat) : List Nat :=
  (s.flight.filter fun p => p.src == t && p.slot == k && !p.stop &&
    match p.body with
    | .vmem o => o.load
    | _ => false).map Packet.id

/-- A row of an earlier load of the strand is still to come (R180, R192). -/
def vecLoadDue (s : State) (t k : Nat) : Bool := !(vecLoads s t k).isEmpty

/-- An operation of the strand that an error or a failed translation has suspended. -/
def State.isSuspended (s : State) (t k i : Nat) : Bool :=
  (s.flight.any fun p => p.id == i && p.stop) || ((s.strand t k).window.any fun w => w.id == i && w.state != 0)
    || (s.tile t).gets.any fun g => g.id == i && g.suspended

/-- The strand's accesses to its own tile that have left their word but are not yet performed: rows of a sorus access, and
those that an access of a lower slot of their word kept waiting (R131, R328). -/
def ownOut (s : State) (t k : Nat) : List Nat :=
  (s.flight.filter fun p => p.src == t && p.slot == k && !p.stop && !p.after.any (s.isSuspended t k) &&
    match p.body with
    | .pool _ _ _ => p.dst == t
    | .vmem o => (o.rows.drop o.pos).any fun r => r.tile == t
    | .atomic r => p.dst == t && r.sc.isNone
    | _ => false).map Packet.id

/-- What an access to the own pool waits for as it fires: a fence or an acquire of its own word, an earlier access to the
own tile, and for a supervisor the vector loads of its own word (R177, R328 to R330; DEDUCED, log entry 74). -/
def ownDue (s : State) (ld st : Bool) : List Nat :=
  s.dueOrder ld st 1 ++ ownOut s s.cur.1 s.cur.2 ++ (if s.me.sup then vecLoads s s.cur.1 s.cur.2 else [])

/-- A request of the strand's lsu or a vector access to another tile is still to be performed, of the bank in use if it is
suspended: an lsu.blk comes after it (R109, R328). -/
def lsuOut (s : State) (t k : Nat) : Bool :=
  let st := s.strand t k
  (st.window.any fun w => w.state != 0 && w.trap == st.tl) || s.flight.any fun p =>
    p.src == t && p.slot == k &&
      match p.body with
      | .lsu _ _ tr _ | .pool _ _ tr => !p.stop || tr == st.tl
      | .vmem o => !p.stop || o.trap == st.tl
      | _ => false

/-- The value of a load of k bytes (R125). -/
def loadValue (signed : Bool) (bs : List Byte) : Word :=
  let x := BitVec.ofNat 64 (leNat bs)
  if signed then Word.sx x (8 * bs.length) else x

/-- A load (R125); acq: a later access within the scope waits for it (R330). -/
def load (port bytes : Nat) (signed acq : Bool) (v : Word) (s : State) : Out :=
  let a := lsuA s + v
  let t := s.cur.1
  match lsuCheck s a { access := 0, bytes := bytes, near := none, pf := false } with
  | .error (c, i) => s.trapA port v c i
  | .ok p =>
    let order (s : State) (id : Nat) : State :=
      if acq then
        let st := s.me
        let keep := st.order.filter fun o => !s.performed o.ids
        s.setMe { st with order := keep ++ [{ qld := true, qst := true, scope := (s.opnd 0x162).bits 2 0, ids := [id], acq := true }] }
      else s
    match p with
    | .own off =>
      if ownDue s true false ≠ [] then
        .next (order (sendSorus (s.resultWait .lsu (some 0) none 3) (.load bytes signed) t off (ownDue s true false)) s.nextId)
      else if (hasBad s.here.poolBad off bytes).isSome then poolBadTrap s port v off 0
      else .next ((s.poolScrub t off bytes).resultLocked .lsu (loadValue signed (s.poolRead t off bytes)) 3)
    | .sorus u off =>
      .next (order (sendSorus (s.resultWait .lsu (some 0) none 12) (.load bytes signed) u off (s.dueOrder true false 2)) s.nextId)
    | .global va =>
      .next (order (sendGlobal (s.resultWait .lsu (some 0) none 12) (.load bytes signed) va (s.dueOrder true false 3)) s.nextId)
    | _ => .next s

def execLsuLdb (v : Word) (s : State) : Out := load 0x164 1 true false v s
def execLsuLdbu (v : Word) (s : State) : Out := load 0x165 1 false false v s
def execLsuLdh (v : Word) (s : State) : Out := load 0x166 2 true false v s
def execLsuLdhu (v : Word) (s : State) : Out := load 0x167 2 false false v s
def execLsuLdw (v : Word) (s : State) : Out := load 0x168 4 true false v s
def execLsuLdwu (v : Word) (s : State) : Out := load 0x169 4 false false v s
def execLsuLdd (v : Word) (s : State) : Out := load 0x16A 8 false false v s
def execLsuLdacq (v : Word) (s : State) : Out := load 0x171 8 false true v s

/-- A store (R125); what it must wait for is rel (R330). -/
def store (port bytes : Nat) (rel : List Nat) (v : Word) (s : State) : Out :=
  let a := lsuA s
  match lsuCheck s a { access := 1, bytes := bytes, near := none, pf := false } with
  | .error (c, i) => s.trapA port v c i
  | .ok p =>
    match p with
    | .own off =>
      let due := ownDue s false true ++ rel
      .next (if due ≠ [] then sendSorus s (.store bytes v) s.cur.1 off due
        else s.poolWrite s.cur.1 off (leBytes v.toNat bytes))
    | .sorus u off => .next (sendSorus s (.store bytes v) u off (s.dueOrder false true 2 ++ rel))
    | .global va => .next (sendGlobal s (.store bytes v) va (s.dueOrder false true 3 ++ rel))
    | _ => .next s

def execLsuStb (v : Word) (s : State) : Out := store 0x16C 1 [] v s
def execLsuSth (v : Word) (s : State) : Out := store 0x16D 2 [] v s
def execLsuStw (v : Word) (s : State) : Out := store 0x16E 4 [] v s
def execLsuStd (v : Word) (s : State) : Out := store 0x16F 8 [] v s

/-- strel: a release at the scope in lsu.c; its word was held for what a store to the own pool waits for, but for accesses
of its own lower slots (R128, R330). -/
def execLsuStrel (v : Word) (s : State) : Out :=
  store 0x172 8 (s.earlier s.cur.1 s.cur.2 ((s.opnd 0x162).bits 2 0)) v s

/-- ldl: the far line goes to the near line, its first 8 bytes to lsu.y (R125). -/
def execLsuLdl (v : Word) (s : State) : Out :=
  let d := v.bits 19 0
  let t := s.cur.1
  match lsuCheck s (lsuA s) { access := 2, bytes := 64, near := some d, pf := false } with
  | .error (c, i) => s.trapA 0x16B v c i
  | .ok p =>
    match p with
    | .own off =>
      if ownDue s true false ≠ [] then
        .next (sendSorus (s.resultWait .lsu (some 0) none 3) (.ldl d) t off (ownDue s true false))
      else if (hasBad s.here.poolBad off 64).isSome then poolBadTrap s 0x16B v off 2
      else
        let bs := s.poolRead t off 64
        .next (((s.poolScrub t off 64).poolWrite t d bs).resultLocked .lsu (BitVec.ofNat 64 (leNat (bs.take 8))) 3)
    | .sorus u off => .next (sendSorus (s.resultWait .lsu (some 0) none 12) (.ldl d) u off (s.dueOrder true false 2))
    | .global va => .next (sendGlobal (s.resultWait .lsu (some 0) none 12) (.ldl d) va (s.dueOrder true false 3))
    | _ => .next s

/-- stl: the near line, read at the issue, goes to the far line or is pushed as a matrix command (R125, R199). -/
def execLsuStl (v : Word) (s : State) : Out :=
  let d := v.bits 19 0
  let (t, k) := s.cur
  match lsuCheck s (lsuA s) { access := 3, bytes := 64, near := some d, pf := false } with
  | .error (c, i) => s.trapA 0x170 v c i
  | .ok p =>
    if (hasBad s.here.poolBad d 64).isSome then poolBadTrap s 0x170 v d 3
    else
      let bs := s.poolRead t d 64
      let s := s.poolScrub t d 64
      match p with
      | .own off =>
        .next (if ownDue s false true ≠ [] then sendSorus s (.stl bs) t off (ownDue s false true) else s.poolWrite t off bs)
      | .sorus u off => .next (sendSorus s (.stl bs) u off (s.dueOrder false true 2))
      | .global va => .next (sendGlobal s (.stl bs) va (s.dueOrder false true 3))
      | .window =>
        match mxCheck s t k bs s.me.fmt with
        | some (c, i) => s.trapA 0x170 v c i
        | none => .next (mxEnter s t k bs)
      | .dropped => .next s

/-- pf: a global line is brought into its L2; on a pool address the checks are all (R77, R129). -/
def execLsuPf (v : Word) (s : State) : Out :=
  let a := lsuA s + v
  match lsuCheck s a { access := 5, bytes := 64, near := none, pf := true } with
  | .error (c, i) => s.trapA 0x174 v c i
  | .ok p =>
    match p with
    | .global va => .next (sendGlobal s .pf va [])
    | _ => .next s

/-- An earlier access counts as a load, as a store (R329). -/
def countsAs (p : Packet) (ld : Bool) : Bool :=
  let ofKind (k : LsuKind) : Bool := match k with
    | .load _ _ | .ldl _ => ld
    | .store _ _ | .stl _ => !ld
    | .pf => false
  match p.body with
  | .lsu k _ _ _ => ofKind k
  | .pool k _ _ => ofKind k
  | .vmem o => o.load == ld
  | .atomic r => match r.op with
    | .lr => ld
    | .sc => !ld
    | _ => !ld || !r.nr
  | .sem _ _ _ | .msg _ | .chLine _ _ _ _ _ _ | .stLine _ _ _ => !ld
  | _ => false

/-- The strand's earlier accesses of a kind within a scope (R329). -/
def earlierOf (s : State) (t k scope : Nat) (ld : Bool) : List Nat :=
  let kindOf (w : WinEnt) : Bool := match w.kind with
    | .load _ _ | .ldl _ => ld
    | .store _ _ | .stl _ => !ld
    | .pf => false
  if scope = 0 then []
  else
    ((s.flight.filter fun p => p.src == t && p.slot == k && decide (s.packetScope p ≤ scope) && countsAs p ld).map
        Packet.id)
      ++ ((s.strand t k).window.filter fun w => w.state != 0 && decide (3 ≤ scope) && kindOf w).map WinEnt.id
      ++ ((s.tile t).gets.filter fun g => g.slot == k && g.get == ld).map NetOp.id

/-- fence: later accesses of a kind wait for earlier ones (R128, R329). -/
def execLsuFence (v : Word) (s : State) : Out :=
  let (t, k) := s.cur
  let scope := v.bits 6 4
  let ids (l r : Nat) : List Nat :=
    (if v.bit l then earlierOf s t k scope true else []) ++ (if v.bit r then earlierOf s t k scope false else [])
  let st := s.me
  let keep := st.order.filter fun o => !s.performed o.ids
  let new : List Order :=
    [{ qld := true, qst := false, scope := scope, ids := ids 0 2, acq := false },
     { qld := false, qst := true, scope := scope, ids := ids 1 3, acq := false }]
  .next (s.setMe { st with order := keep ++ new.filter fun o => !o.ids.isEmpty })

/-! ## lsu.blk (R109) -/

/-- The class, sorus and partition checks of a block's address: cause and SINFO (R75 to R77, R113, R126). -/
def blkPlace (s : State) (t : Nat) (sup : Bool) (access : Nat) (b : Word) : Option (Nat × Word) :=
  match classFault t b { access := access, bytes := 8, near := none, pf := false } with
  | some r => some (0x0F, sinfo78 r 0 access b)
  | none =>
    match classify b with
    | .ok (.remote _ _) => some (0x12, sinfo78 2 0 access b)
    | .ok (.global _) => none
    | .ok p =>
      match s.poolTarget t p with
      | none => some (0x0F, sinfo78 2 0 access b)
      | some (_, off) =>
        if !sup && region (s.tile t).partword off == .register then some (0x0F, sinfo78 3 0 access b) else none
    | .error r => some (0x0F, sinfo78 r 0 access b)

/-- Steps of a block copy of c bytes. -/
def blkSteps (c : Word) : Nat := (c.toNat + 63) / 64

/-- The address of a step that the watch selects (R390): of its load, then of its store. -/
def blkWatch (s : State) : Option (Nat × Word) :=
  let hit (access : Nat) (base : Word) : Option (Nat × Word) :=
    if !s.here.watched then none
    else
      (((List.range (blkSteps (s.opnd 0x162))).map fun j => base + BitVec.ofNat 64 (64 * j)).find? (watchHit s access)).map
        fun a => (0x2E, sinfo78 0 0 access a)
  if (Map.find 0 s.here.counters 5).bits 31 16 = 0 then none else (hit 0 (s.opnd 0x161)).or (hit 1 (lsuA s))

/-- The checks of lsu.blk at its trigger. The manual gives no order between them but that of R126 for one address, and no
SINFO for a misaligned or excessive count; the model checks the source before the destination within each order of R126,
then the count: SINFO of a misaligned one has REASON 0, ACCESS 5 and ADDR the count, and [55:0] of 0x25 REASON 12 are 0
(DESIGN CHOICE, log entry 68). -/
def blkCheck (s : State) : Option (Nat × Word) :=
  let a := lsuA s
  let b := s.opnd 0x161
  let c := s.opnd 0x162
  let (t, _) := s.cur
  let cls (p : Word) (access : Nat) : Option (Nat × Word) :=
    match classFault t p { access := access, bytes := 8, near := none, pf := false } with
    | some r => some (0x0F, sinfo78 r 0 access p)
    | none => if (classify p).toOption matches some (.remote _ _) then some (0x12, sinfo78 2 0 access p) else none
  (cls b 0).or ((cls a 1).or
    (if b.toNat % 8 ≠ 0 then some (0x0E, sinfo78 0 0 0 b)
     else if a.toNat % 8 ≠ 0 then some (0x0E, sinfo78 0 0 1 a)
     else if c.toNat % 8 ≠ 0 then some (0x0E, sinfo78 0 0 5 c)
     else
      ((blkPlace s t s.me.sup 0 b).or (blkPlace s t s.me.sup 1 a)).or
        (if 0x400000 < c.toNat then some (0x25, BitVec.ofNat 64 (12 * 2 ^ 56)) else blkWatch s)))

/-- lsu.blk starts its expansion on copies of lsu.a, lsu.b and lsu.c. -/
def execLsuBlk (v : Word) (s : State) : Out :=
  match blkCheck s with
  | some (c, i) => s.trapA 0x175 v c i
  | none => .next (startExp .blk (lsuA s) (s.opnd 0x161) (s.opnd 0x162) v s)

/-- A global address must be homed on the tile's own die (R77). -/
def homeFault (t pa : Nat) : Option Nat :=
  if isHost pa then some 1 else if isService t || homeDie pa != dieOf t then some 0 else none

/-- The home check of each line of a global run, whose translations have been answered. -/
def blkHome (s : State) (t i : Nat) (a : Word) (n access : Nat) (wr : Bool) : Option (Nat × Word) × State :=
  ((runLines (n + 1) a n).map Prod.fst).foldl (fun acc b =>
    match acc.1 with
    | some _ => acc
    | none =>
      match classify b with
      | .ok (.global va) =>
        match acc.2.translate t i va (!wr) wr with
        | (some (.fault c r l x), s) => (some (c, sinfo78 r l access x), s)
        | (some (.ok pa), s) => ((homeFault t pa).map fun r => (0x12, sinfo78 r 0 access b), s)
        | (none, s) => (none, s)
      | _ => acc) (none, s)

/-- The block copy ends: lsu.y is delivered and fetch goes on. -/
def blkDeliver (s : State) (t k : Nat) (e : Exp) : State :=
  let st := s.strand t k
  let c := (s.tile t).cycle
  let b := st.bankAt e.trap
  let b := (b.push .lsu (some e.c) none 0 c true false).deliver .lsu true c
  (s.setStrand t k { (st.setBankAt e.trap b) with exp := none }).passExp t k e

/-- One step of a block copy, once its translations have been answered. -/
def blkStep (s : State) (t k : Nat) (e : Exp) : State :=
  let st := s.strand t k
  let j := e.step
  let n := min 64 (e.c.toNat - 64 * j)
  let src := e.b + BitVec.ofNat 64 (64 * j)
  let dst := e.a + BitVec.ofNat 64 (64 * j)
  let place (access : Nat) (a : Word) : Option (Nat × Word) :=
    ((runLines (n + 1) a n).map Prod.fst).findSome? (blkPlace s t st.sup access)
  match (place 0 src).or (place 1 dst) with
  | some (c, i) => expFault s t k e c i
  | none =>
    let (ok1, s) := askRun s t e.id src n
    let (ok2, s) := askRun s t e.id dst n
    if !ok1 || !ok2 then s
    else
      match blkHome s t e.id src n 0 false with
      | (some (c, i), s) => expFault (s.forget e.id) t k e c i
      | (none, s) =>
        match blkHome s t e.id dst n 1 true with
        | (some (c, i), s) => expFault (s.forget e.id) t k e c i
        | (none, s) =>
          match engRead 65 s t e.id src n with
          | .wait s => s
          | .fault f s => expFault (s.forget e.id) t k e f.cause (f.info 0)
          | .ok bs s =>
            match engWrite 65 s t e.id dst bs with
            | .wait s => s
            | .fault f s => expFault (s.forget e.id) t k e f.cause (f.info 1)
            | .ok _ s =>
              let s := s.forget e.id
              let e := { e with step := j + 1 }
              if blkSteps e.c ≤ j + 1 then blkDeliver s t k e
              else s.setStrand t k { (s.strand t k) with exp := some e }

/-- BLK_STEP: one step of the strand's block copy, after the strand's earlier accesses and what its word's fences and
acquires put before it (R109, R328 to R330). -/
def execBlkStep (t k : Nat) (s : State) : Out :=
  let st := s.strand t k
  match st.exp with
  | none => .next s
  | some e =>
    if e.op ≠ .blk ∨ e.fault.isSome ∨ st.status ≠ .live ∨ (s.tile t).stopped then .next s
    else if blkSteps e.c ≤ e.step then .next (blkDeliver s t k e)
    else if engBlocked s t (e.a + BitVec.ofNat 64 (64 * e.step)) 64 || (st.sup && vecLoadDue s t k) || lsuOut s t k
        || (st.order.any fun o => !s.performed o.ids) then .next s
    else .next (blkStep s t k e)

/-! ## Translation stations (R84, R85) -/

/-- The kind of a request reads, writes (R82). -/
def LsuKind.writes (k : LsuKind) : Bool :=
  match k with
  | .store _ _ | .stl _ => true
  | _ => false

/-- ACCESS of a request (R78). -/
def LsuKind.access (k : LsuKind) : Nat :=
  match k with
  | .load _ _ => 0
  | .store _ _ => 1
  | .ldl _ => 2
  | .stl _ => 3
  | .pf => 5

/-- Bytes of a request. -/
def LsuKind.bytes (k : LsuKind) : Nat :=
  match k with
  | .load n _ => n
  | .store n _ => n
  | _ => 64

/-- The packets that were sent before p, whose identities count up; a request that is sent again keeps its own. -/
def State.before (s : State) (p : Nat) : List Packet := s.flight.filter fun q => decide (q.id < p)

/-- The packet waits in a walk. -/
def State.walking (s : State) (p : Nat) : Bool := s.walks.any fun w => w.joined.any fun j => j.1 == p

/-- A request of the strand to the same page, sent earlier, that has not yet reached the station (R84). -/
def aheadOnPage (s : State) (p : Packet) (va : Word) : Bool :=
  (s.before p.id).any fun q => q.src == p.src && q.slot == p.slot &&
    match q.body with
    | .lsu _ vb _ none => stationOf q.src vb == stationOf p.src va && !s.walking q.id &&
        samePage s (s.tile p.src).ctx.toNat vb va
    | _ => false

/-- Change the strand's window. -/
def State.window (s : State) (t k : Nat) (f : List WinEnt → List WinEnt) : State :=
  let st := s.strand t k
  s.setStrand t k { st with window := f st.window }

/-- The window entry of the faulting request, and those of the dropped ones. -/
def markFailed (p : Nat) (late : List Nat) (e : WinEnt) : WinEnt :=
  if e.id = p then { e with state := 1 } else if late.contains e.id then { e with state := 2 } else e

/-- A request is answered with a fault: it and the strand's later requests at the station that are not yet answered stay
in the window, and the strand will take the trap (R85). -/
def failRequest (s : State) (p : Packet) (va : Word) (cause : Nat) (info : Word) : State :=
  let stn := stationOf p.src va
  let late := s.flight.filter fun q => decide (p.id < q.id) && q.src == p.src && q.slot == p.slot &&
      match q.body with
      | .lsu _ vb _ none => stationOf q.src vb == stn
      | _ => false
  let ids := late.map Packet.id
  let s := { s with
    flight := s.flight.filter fun q => q.id != p.id && !ids.contains q.id
    walks := s.walks.map fun (w : Walk) => { w with joined := w.joined.filter fun j => !ids.contains j.1 } }
  let s := s.window p.src p.slot fun w => w.map (markFailed p.id ids)
  s.report p.src p.slot p.id cause info

/-- Answer a request with what its walk found: a fault, or its PA on the way to the home L2 (R77, R85, R88). -/
def answer (s : State) (p : Packet) (w : WalkRes) : State :=
  match p.body with
  | .lsu kind va tr _ =>
    let forget (s : State) : State := (s.drop p.id).window p.src p.slot fun w => w.filter fun e => e.id != p.id
    let fail (c r l : Nat) (x : Word) : State :=
      if kind = .pf then forget s else failRequest s p va c (sinfo78 r l kind.access x)
    match pageAccess va (!kind.writes) kind.writes w with
    | .fault c r l x => fail c r l x
    | .ok pa =>
      match homeFault p.src pa with
      | some r => fail 0x12 r 0 va
      | none =>
        let s := s.window p.src p.slot fun w => w.filter fun e => e.id != p.id
        { s with flight := s.flight.map fun q =>
            if q.id = p.id then { q with body := .lsu kind va tr (some pa) } else q }
  | _ => s

/-- TRANSLATION_REQUEST: the request reaches its station: it joins a walk, hits, or starts a walk where one is free
(R84). -/
def execTranslationRequest (p : Nat) (s : State) : Out :=
  match s.packet p with
  | none => .next s
  | some q =>
    match q.body with
    | .lsu _ va _ none =>
      let stn := stationOf q.src va
      let ctx := (s.tile q.src).ctx.toNat
      if !s.performed q.after || s.walking p || aheadOnPage s q va then .next s
      else
        match s.walkOn stn ctx va with
        | some w => .next (joinWalk s w p va)
        | none =>
          match s.lookup stn ctx va with
          | (some e, s) => .next (answer s q e.walk)
          | (none, s) => .next (s.startWalk stn ctx p va)
    | _ => .next s

/-- A walk's result answers one of its requests: a packet, or an engine's operation; a request outside the page that was
found comes again. -/
def answerOne (r : WalkRes) (va : Word) (s : State) (j : Nat × Word) : State :=
  if j.2.bits 55 0 / 2 ^ r.size ≠ va.bits 55 0 / 2 ^ r.size then s
  else
    match s.packet j.1 with
    | some q => answer s q r
    | none => { s with answers := s.answers ++ [{ id := j.1, va := j.2, res := r }] }

/-- PAGE_WALK_DONE: a walk ends and answers its requests in arrival order; the result of a walk that an invalidation
covers is discarded and its requests come again (R82, R84, R86); one that meets a channel in training waits (R422). -/
def execPageWalkDone (w : Nat) (s : State) : Out :=
  match s.walks.find? fun v => v.id == w with
  | none => .next s
  | some v =>
    if s.walkTrains v.ctx v.va then .next s
    else
      let s := { s with walks := s.walks.filter fun u => u.id != w }
      if v.stale then .next s
      else
        let r := walkTables s v.ctx v.va
        let s := (s.walked v.ctx v.va).cache v.station v.ctx v.va r
        .next (v.joined.foldl (answerOne r v.va) s)

/-! ## Performing a request -/

/-- Deliver a load's value into the bank it was fired from. -/
def deliverLoad (s : State) (t k : Nat) (trap : Bool) (v : Word) : State :=
  let st := s.strand t k
  s.setStrand t k (st.setBankAt trap ((st.bankAt trap).arrive .lsu (some v)))

/-- The bytes two runs share. -/
def overlaps (a n b m : Nat) : Bool := decide (a < b + m ∧ b < a + n)

/-- An earlier request of the strand to a common byte is still to be performed, or may yet turn out to be one: a page
keeps the low 16 bits of an address. One that a failed translation or an error has put back into the window counts, but for
a handler's requests (R328). -/
def aheadAt (s : State) (p : Packet) (tr : Bool) (pa n : Nat) : Bool :=
  let near (k : LsuKind) (va : Word) : Bool := k != .pf && overlaps (pa % 2 ^ 16) n (va.bits 15 0) k.bytes
  ((s.before p.id).any fun q => q.src == p.src && q.slot == p.slot &&
    match q.body with
    | .lsu k _ _ (some qa) => k != .pf && overlaps pa n qa k.bytes
    | .lsu k va _ none => near k va
    | _ => false)
    || (s.strand p.src p.slot).window.any fun w => w.state != 0 && decide (w.id < p.id) && w.trap == tr && near w.kind w.far

/-- An uncorrectable error stops a request: it goes back to the window, and its strand takes 0x31 (R126, R380). -/
def hbmStop (s : State) (p : Packet) (kind : LsuKind) (va : Word) (trap : Bool) (pa level : Nat) : State :=
  let s := (s.drop p.id).hbmLog pa level
  let s := s.window p.src p.slot fun w =>
    w ++ [{ id := p.id, kind := kind, far := va, trap := trap, state := 1, after := p.after }]
  s.report p.src p.slot p.id 0x31 (sinfo78 level 0 kind.access (BitVec.ofNat 64 pa))

/-- Perform a request at the home L2 (R87, R125). -/
def performGlobal (s : State) (p : Packet) (kind : LsuKind) (va : Word) (trap : Bool) (pa : Nat) : State :=
  match kind with
  | .load n sg =>
    if s.hbmFault pa n then hbmStop s p kind va trap pa (s.errLevel pa n)
    else deliverLoad ((s.hbmScrub pa n).drop p.id) p.src p.slot trap (loadValue sg (s.paRead pa n))
  | .store n v =>
    if s.chanDown pa then hbmStop s p kind va trap pa 3 else (s.paWrite pa (leBytes v.toNat n)).drop p.id
  | .ldl d =>
    if s.hbmFault pa 64 then hbmStop s p kind va trap pa (s.errLevel pa 64)
    else
      let bs := s.paRead pa 64
      deliverLoad (((s.hbmScrub pa 64).drop p.id).poolWrite p.src d bs) p.src p.slot trap
        (BitVec.ofNat 64 (leNat (bs.take 8)))
  | .stl bs => if s.chanDown pa then hbmStop s p kind va trap pa 3 else (s.paWrite pa bs).drop p.id
  | .pf =>
    let line := pa / 64 * 64
    if s.hbmFault line 64 then s.drop p.id else (s.hbmScrub line 64).drop p.id

/-- The near line that a request writes is held by a locked reservation. -/
def nearLocked (s : State) (t : Nat) (kind : LsuKind) : Bool :=
  match kind with
  | .ldl d => s.lockedOut t d 64
  | _ => false

/-- L2_ACCESS: a translated request is performed at its home L2 (R87). -/
def execL2Access (p : Nat) (s : State) : Out :=
  match s.packet p with
  | none => .next s
  | some q =>
    match q.body with
    | .lsu kind va tr (some pa) =>
      if !s.performed q.after || (kind != .pf && aheadAt s q tr pa kind.bytes) || s.training pa || nearLocked s q.src kind then .next s
      else .next (performGlobal s q kind va tr pa)
    | _ => .next s

/-! ## Sorus accesses (R131, R192) -/

/-- The bytes a row touches. -/
def VecRow.bytes (r : VecRow) (w : Nat) : Nat := (r.lanes.map fun e => (e.1 + 1) * w).foldl max 0

/-- The row of an operation that comes next. -/
def VecOp.row? (o : VecOp) : Option VecRow := o.rows[o.pos]?

/-- The pool bytes that a packet still has to access: tile, offset, length. -/
def Packet.spans (p : Packet) : List (Nat × Nat × Nat) :=
  match p.body with
  | .atomic r => [(p.dst, r.addr, r.k)]
  | .pool k off _ => [(p.dst, off, k.bytes)]
  | .vmem o => (o.rows.drop o.pos).map fun r => (r.tile, r.off, r.bytes o.w)
  | _ => []

/-- Two runs of pool bytes meet. -/
def spanMeets (a b : Nat × Nat × Nat) : Bool := a.1 == b.1 && overlaps a.2.1 a.2.2 b.2.1 b.2.2

/-- An earlier sorus access or atomic of the strand to a common byte is still to be performed (R131, R328). -/
def aheadInPool (s : State) (p : Packet) (u off n : Nat) : Bool :=
  (s.before p.id).any fun q => q.src == p.src && q.slot == p.slot && q.spans.any (spanMeets (u, off, n))

/-- Suspend a packet until its strand's sys.eret and report its fault. -/
def suspendPacket (s : State) (p : Packet) (cause : Nat) (info : Word) : State :=
  { s with flight := s.flight.map fun (q : Packet) => if q.id = p.id then { q with stop := true } else q }.report
    p.src p.slot p.id cause info

/-- Bytes of vector register vd of slot k: its place in the pool (R112, R175). -/
def vecPlace (k vd : Nat) : Nat := 0x4000 + 0x2000 * k + 0x400 * vd

/-- Write the elements of a row, whose bytes stand in order in data, w apiece. -/
def rowStore (s : State) (u off w : Nat) (lanes : List (Nat × Nat)) (data : List Byte) : State :=
  match lanes with
  | [] => s
  | e :: r => rowStore (s.poolWrite u (off + w * e.1) (data.take w)) u off w r (data.drop w)

/-- The elements of a row go into their containers of the register, which starts at a pool offset. -/
def rowFill (s : State) (t reg w : Nat) (lanes : List (Nat × Nat)) (data : List Byte) : State :=
  match lanes with
  | [] => s
  | e :: r => rowFill (s.poolWrite t (reg + e.2) (data.take w ++ zeros (4 - w))) t reg w r (data.drop w)

/-- The rows of a load that have come go into its register. -/
def rowsFill (s : State) (t reg w : Nat) (rows : List VecRow) (got : List (List Byte)) : State :=
  match rows, got with
  | r :: rows, d :: got => rowsFill (rowFill s t reg w r.lanes d) t reg w rows got
  | _, _ => s

/-- Put a packet back with another body. -/
def State.setBody (s : State) (p : Nat) (b : Payload) : State :=
  { s with flight := s.flight.map fun q => if q.id = p then { q with body := b } else q }

/-- A load's last row has come: its register and its status are written (R180, R192). -/
def vecArrive (s : State) (p : Packet) (o : VecOp) : State :=
  let reg := vecPlace p.slot o.vd
  let s := rowsFill (o.zero.foldl (fun s e => s.poolWrite p.src (reg + e) (zeros 4)) s) p.src reg o.w o.rows o.got
  let st := s.strand p.src p.slot
  s.setStrand p.src p.slot (st.setBankAt o.trap ((st.bankAt o.trap).arrive .vec none))

/-- One row is performed at its target, as one event; the last ends the operation. -/
def rowDone (s : State) (p : Packet) (o : VecOp) (got : List (List Byte)) : State :=
  let o := { o with pos := o.pos + 1, got := got }
  if o.pos < o.rows.length then s.setBody p.id (.vmem o)
  else if o.load then vecArrive (s.drop p.id) p o else s.drop p.id

/-- The row that comes next of a vec.ld or vec.st. A load that meets an uncorrectable error in one of its active elements
has had no effect: it waits for its strand's trap and reads its rows again from the first (R181, R190). -/
def performRow (s : State) (p : Packet) (o : VecOp) (r : VecRow) : State :=
  if !o.load then rowDone (rowStore s r.tile r.off o.w r.lanes r.data) p o []
  else
    match r.lanes.findSome? fun e => hasBad (s.tile r.tile).poolBad (r.off + o.w * e.1) o.w with
    | some b =>
      suspendPacket ((s.poolLog r.tile b).setBody p.id (.vmem { o with pos := 0, got := [] })) p 0x31
        (sinfo78 0 0 0 (BitVec.ofNat 64 b))
    | none =>
      let data := r.lanes.flatMap fun e => s.poolRead r.tile (r.off + o.w * e.1) o.w
      rowDone (r.lanes.foldl (fun s e => s.poolScrub r.tile (r.off + o.w * e.1) o.w) s) p o (o.got ++ [data])

/-- Perform a sorus access at its target, as one event. -/
def performPool (s : State) (p : Packet) (kind : LsuKind) (off : Nat) (tr : Bool) : State :=
  match kind with
  | .load n sg =>
    deliverLoad ((s.poolScrub p.dst off n).drop p.id) p.src p.slot tr (loadValue sg (s.poolRead p.dst off n))
  | .store n v => (s.poolWrite p.dst off (leBytes v.toNat n)).drop p.id
  | .ldl d =>
    let bs := s.poolRead p.dst off 64
    deliverLoad (((s.poolScrub p.dst off 64).drop p.id).poolWrite p.src d bs) p.src p.slot tr
      (BitVec.ofNat 64 (leNat (bs.take 8)))
  | .stl bs => (s.poolWrite p.dst off bs).drop p.id
  | .pf => s.drop p.id

/-- The access of a packet to n bytes of tile u is performed when its time has come: no earlier one of its strand to a
common byte, no locked reservation (R131, R235). -/
def poolTurn (s : State) (q : Packet) (u off n : Nat) (wr : Bool) : Bool :=
  s.performed q.after && !q.stop && !aheadInPool s q u off n && !(wr && s.lockedOut u off n)

/-- Perform the rows of an access, each in turn, up to one that an error stops. -/
def performRows (s : State) (p : Nat) (rows : List VecRow) : State :=
  match rows with
  | [] => s
  | r :: rows =>
    match s.packet p with
    | some q =>
      match q.stop, q.body with
      | false, .vmem o => performRows (performRow s q o r) p rows
      | _, _ => s
    | none => s

/-- SORUS_POOL_ACCESS: an access from another tile of the sorus is performed between two issues of the target, a vector
access row by row; one whose rows are all its own tile's is one event (R131, R132, R192). -/
def execSorusPoolAccess (p : Nat) (s : State) : Out :=
  match s.packet p with
  | none => .next s
  | some q =>
    match q.body with
    | .pool kind off tr =>
      if !poolTurn s q q.dst off kind.bytes kind.writes || nearLocked s q.src kind then .next s
      else
        match if kind.writes then none else hasBad (s.tile q.dst).poolBad off kind.bytes with
        | some _ => .next (suspendPacket (s.poolLog q.dst off) q 0x31 (sinfo78 0 0 kind.access (BitVec.ofNat 64 off)))
        | none => .next (performPool s q kind off tr)
    | .vmem o =>
      match o.row? with
      | none => .next (if o.load then vecArrive (s.drop p) q o else s.drop p)
      | some r =>
        let rows := if o.rows.all fun r => r.tile == q.src then o.rows.drop o.pos else [r]
        if rows.all fun r => poolTurn s q r.tile r.off (r.bytes o.w) (!o.load) then .next (performRows s p rows) else .next s
    | _ => .next s

/-! ## Invalidation (R86) -/

/-- The range an invalidation covers: all, a context, or pages of a context. -/
def inScope (s : State) (ctx : Nat) (lo hi : Nat) : Bool :=
  let scope := s.xlinv.bits 62 61
  let first := s.xlinva.bits 55 16
  let last := first + s.xlinva.bits 15 0
  match scope with
  | 0 => true
  | 1 => ctx == s.xlinv.bits 15 0
  | _ => ctx == s.xlinv.bits 15 0 && decide (lo ≤ last ∧ first ≤ hi)

/-- A cached translation lies in the scope: its pages in units of 64 KiB. -/
def xlateIn (s : State) (e : Xlate) : Bool :=
  let n := 2 ^ (e.size - 16)
  inScope s e.ctx (e.page * n) (e.page * n + n - 1)

/-- A walk could match the scope: it may find a page of 1 GiB. -/
def walkIn (s : State) (w : Walk) : Bool :=
  let first := w.va.bits 55 30 * 2 ^ 14
  inScope s w.ctx first (first + 2 ^ 14 - 1)

/-- A write to XLINV that starts an invalidation: BUSY, and the results of walks in scope are to be discarded. -/
def startXlinv (s : State) (v : Word) : State :=
  let s := { s with xlinv := v ||| 0x8000000000000000 }
  { s with walks := s.walks.map fun w => { w with stale := w.stale || walkIn s w } }

/-- Nothing starts while BUSY is 1. -/
def xlinvWrite (v : Word) (s : State) : Out := if s.xlinv.bit 63 then .next s else .next (startXlinv s v)

/-- XLINV_ALL: SCOPE 0. -/
def execXlinvAll (s : State) : Out := xlinvWrite 0 s

/-- XLINV_CTX: SCOPE 1. -/
def execXlinvCtx (ctx : BitVec 16) (s : State) : Out := xlinvWrite (0x2000000000000000 ||| ctx.zeroExtend 64) s

/-- XLINV_RANGE: SCOPE 2, the range in XLINVA. -/
def execXlinvRange (ctx : BitVec 16) (s : State) : Out := xlinvWrite (0x4000000000000000 ||| ctx.zeroExtend 64) s

/-- XLINV_COMPLETE: matching translations are removed and no matching walk of before is left: BUSY clears (R86). -/
def execXlinvComplete (s : State) : Out :=
  if !s.xlinv.bit 63 || (s.walks.any fun w => w.stale) then .next s
  else .next { s with
    xcache := s.xcache.filter fun e => !xlateIn s e
    xlinv := s.xlinv &&& 0x7FFFFFFFFFFFFFFF }

end Sys2Proof.Machine
end

