-- ==== Sys2Proof/Machine/Atm.lean ====
section
/-! DEFINITION. The atomic unit (R224 to R237): read-modify-writes, reservations, and the herald order. -/
namespace Sys2Proof.Machine

/-- The target address (R226). -/
def atmAddr (s : State) : Word := s.opnd 0x1A0 + s.opnd 0x1A2

def atmOrder (s : State) : Word := s.opnd 0x1A3

/-- The scope of ACQ and REL: device under SC, and domain acts as device (R227). -/
def atmScope (s : State) : Nat := if (atmOrder s).bit 3 then 4 else min ((atmOrder s).bits 6 4) 4

def atmAcq (s : State) : Bool := (atmOrder s).bit 3 || (atmOrder s).bit 0
def atmRel (s : State) : Bool := (atmOrder s).bit 3 || (atmOrder s).bit 1

/-- Operations that ignore NR (R227). -/
def RmwOp.returns (op : RmwOp) : Bool :=
  match op with
  | .cas | .lr | .sc => true
  | _ => false

/-- The watch selects this atomic (R390). -/
def atmWatched (s : State) (a : Word) : Bool :=
  let x := s.here
  let waddr := Map.find 0 x.counters 4
  let wctl := Map.find 0 x.counters 5
  x.watched && wctl.bit 2 && wctl.bit (16 + s.cur.2) && waddr.toNat / 2 ^ wctl.bits 9 4 == a.toNat / 2 ^ wctl.bits 9 4

/-- The checks of R228: a cause with SINFO, or the target tile and offset. -/
def atmCheck (s : State) (a : Word) (k : Nat) : Except (Nat × Word) (Nat × Nat) :=
  let fail (cause reason : Nat) : Except (Nat × Word) (Nat × Nat) := .error (cause, sinfo78 reason 0 4 a)
  match classify a with
  | .error r => fail 0x0F r
  | .ok (.global _) => if inWindowPage a then fail 0x0F 0 else fail 0x13 0
  | .ok p =>
    if a.toNat % k ≠ 0 then fail 0x0E 0
    else
      match s.poolTarget s.cur.1 p with
      | none => fail 0x0F 2
      | some (u, off) =>
        match region s.here.partword off with
        | .register => fail 0x0F 3
        | .scratchpad => fail 0x13 1
        | .accumulator => if atmWatched s a then fail 0x2E 0 else .ok (u, off)

/-- The new value of a k-byte location; none: no write (R232). -/
def rmwNew (op : RmwOp) (k old v cmp : Nat) : Option Nat :=
  let b := 8 * k
  let m := 2 ^ b
  let v := v % m
  match op with
  | .add => some ((old + v) % m)
  | .addf => some (fp32.finish .rne (FVal.add .rne (fp32.decode old) (fp32.decode v))).code
  | .min => some (if signedBits b v < signedBits b old then v else old)
  | .minu => some (Nat.min old v)
  | .max => some (if signedBits b old < signedBits b v then v else old)
  | .maxu => some (Nat.max old v)
  | .and => some (Nat.land old v)
  | .or => some (Nat.lor old v)
  | .xor => some (Nat.xor old v)
  | .swp => some v
  | .cas => if old = cmp % m then some v else none
  | .lr => none
  | .sc => some v

/-- What atm.y receives of the old value (R232, R233). -/
def rmwResult (op : RmwOp) (k old : Nat) : Word :=
  let x := BitVec.ofNat 64 old
  if k = 8 ∨ op = .addf ∨ op = .minu ∨ op = .maxu then x else Word.sx x 32

/-- The strand holds a reservation on the granule. -/
def holdsResv (s : State) (t k u g : Nat) : Bool := (s.strand t k).resv == some { tile := u, granule := g }

/-- An lr that takes a locked reservation: its strand's sc to this granule has failed (R235). -/
def wantsLock (s : State) (t k u g : Nat) : Bool := (s.strand t k).scFailed.contains { tile := u, granule := g }

/-- A locked reservation of another strand stands on the granule. -/
def lockedByOther (s : State) (t k u g : Nat) : Bool :=
  (s.tile u).resv.any fun e => e.locked.isSome && e.granule == g && !(e.tile == t && e.slot == k)

/-- The packet is an lr that has reached its target and asks for a locked reservation on the granule. -/
def asksLock (s : State) (u g : Nat) (p : Packet) : Bool :=
  match p.body with
  | .atomic r => r.op == .lr && p.dst == u && r.addr / 64 == g && wantsLock s p.src p.slot u g
      && s.performed p.after && !p.stop && !s.routeAhead p
  | _ => false

/-- An earlier request for a locked reservation on the granule still waits at its target (R235): seq is the place of the
one that asks. -/
def lockAhead (s : State) (u g seq : Nat) : Bool :=
  (s.flight.any fun p => decide (p.id < seq) && asksLock s u g p)
    || (s.tile u).strands.any fun e => e.2.status == .live && wantsLock s u e.1 u g &&
      match e.2.hold with
      | some h => decide (h.seq < seq) && (h.port == 0x1BA || h.port == 0x1BB) && !h.clear
      | none => false

/-- A locked reservation at the target holds the atomic (R235). -/
def atmBlocked (s : State) (t k u seq : Nat) (r : AtmReq) : Bool :=
  let g := r.addr / 64
  let old := leNat (s.poolRead u r.addr r.k)
  match r.op with
  | .lr => wantsLock s t k u g && (lockedByOther s t k u g || lockAhead s u g seq)
  | .sc => holdsResv s t k u g && lockedByOther s t k u g
  | op => (rmwNew op r.k old r.v.toNat r.cmp.toNat).isSome && s.lockedOut u r.addr r.k

/-- Record a reservation at its target: the oldest of 64 is evicted (R233). -/
def recordResv (s : State) (u : Nat) (e : ResvEnt) : State :=
  let x := s.tile u
  let s :=
    if 64 ≤ x.resv.length then
      match x.resv with
      | o :: r => loseResv (s.setTile u { x with resv := r }) u o
      | [] => s
    else s
  let x := s.tile u
  s.setTile u { x with resv := x.resv ++ [e] }

/-- Perform an atomic of strand k of tile t at tile u, as one event: the state and the value for atm.y (R232, R233). An lr
performed once its tile is stopped for a gang switch records no reservation: those of the tile have ended (R233). -/
def performAtomic (s : State) (t k u : Nat) (r : AtmReq) : State × Word :=
  let g := r.addr / 64
  let old := leNat (s.poolRead u r.addr r.k)
  let y := rmwResult r.op r.k old
  let s := s.poolScrub u r.addr r.k
  match r.op with
  | .lr =>
    let lock := wantsLock s t k u g
    let s := s.endResv t k
    let st := s.strand t k
    if (s.tile t).stopped then (s, y) else
    let s := s.setStrand t k { st with
      resv := some { tile := u, granule := g }, scFailed := st.scFailed.filter (· != { tile := u, granule := g }) }
    (recordResv s u
      { tile := t, slot := k, granule := g, locked := if lock then some (s.tile u).cycle else none }, y)
  | .sc =>
    let held := holdsResv s t k u g
    let s := s.endResv t k
    if held then (s.poolWrite u r.addr (leBytes r.v.toNat r.k), 0)
    else
      let st := s.strand t k
      (s.setStrand t k { st with
        scFailed := { tile := u, granule := g } :: st.scFailed.filter (· != { tile := u, granule := g }) }, 1)
  | op =>
    match rmwNew op r.k old r.v.toNat r.cmp.toNat with
    | some new => (s.poolWrite u r.addr (leBytes new r.k), y)
    | none => (s, y)

/-- The request of an atomic trigger. -/
def atmReq (s : State) (op : RmwOp) (k off : Nat) (v : Word) : AtmReq :=
  let st := s.me
  { op := op, k := k, addr := off, v := v, cmp := s.opnd 0x1A1, nr := (atmOrder s).bit 8 && !op.returns, trap := st.tl
    sc := if (atmOrder s).bit 3 then some (s.time / 32, s.here.ltile, s.cur.2, st.scSeq) else none }

/-- An acquire: later accesses within the scope wait for the operation (R330). -/
def State.acquire (s : State) (id scope : Nat) : State :=
  let st := s.me
  let keep := st.order.filter fun o => !s.performed o.ids
  s.setMe { st with order := keep ++ [{ qld := true, qst := true, scope := scope, ids := [id], acq := true }] }

/-- An atomic counts as a load (R329). -/
def AtmReq.loads (r : AtmReq) : Bool := r.op == .lr || (r.op != .sc && !r.nr)

/-- What a fence or acquire of its own word puts before an atomic at tile u (R329, R330). -/
def atmDue (s : State) (u : Nat) (r : AtmReq) : List Nat := s.dueOrder r.loads (r.op != .lr) (s.tileScope s.cur.1 u)

/-- What an atomic at tile u waits for: a release's earlier accesses, a fence or acquire of its own word, and at the own tile
the accesses that a lower slot of its word has left there (R328 to R330; log entry 74). -/
def atmAfter (s : State) (u : Nat) (r : AtmReq) : List Nat :=
  (if atmRel s then s.earlier s.cur.1 s.cur.2 (atmScope s) else []) ++ atmDue s u r
    ++ (if u = s.cur.1 then ownOut s s.cur.1 s.cur.2 else [])

/-- Send an atomic to its target; under SC it is stamped and counted (R229, R236). -/
def sendAtomic (s : State) (u : Nat) (r : AtmReq) : State :=
  let (t, k) := s.cur
  let id := s.nextId
  let after := atmAfter s u r
  let acq := atmAcq s && (!r.nr || r.sc.isSome)
  let scope := atmScope s
  let s := if r.sc.isSome then s.setMe { s.me with scSeq := (s.me.scSeq + 1) % 2 ^ 32 } else s
  let s := if r.nr then s else s.resultWait .atm (some 0) none 14
  let s := s.send t k u (.atomic r) after
  if acq then s.acquire id scope else s

/-- An atomic trigger on k bytes: performed at once at the own tile; under SC, to another tile, or where an access of a lower
slot of its word comes first, the atomic is sent (R228, R229, R329, R330). -/
def atomic (op : RmwOp) (k port : Nat) (v : Word) (s : State) : Out :=
  match atmCheck s (atmAddr s) k with
  | .error (c, i) => s.trapA port v c i
  | .ok (u, off) =>
    let r := atmReq s op k off v
    if u = s.cur.1 ∧ r.sc = none ∧ atmAfter s u r = [] then
      if (hasBad s.here.poolBad off k).isSome then
        (s.poolLog u off).trapA port v 0x31 (sinfo78 0 0 4 (BitVec.ofNat 64 off))
      else
        let (s, y) := performAtomic s s.cur.1 s.cur.2 u r
        .next (if r.nr then s else s.resultLocked .atm y 3)
    else .next (sendAtomic s u r)

def execAtmAddw (v : Word) (s : State) : Out := atomic .add 4 0x1A5 v s
def execAtmAddd (v : Word) (s : State) : Out := atomic .add 8 0x1A6 v s
def execAtmAddf (v : Word) (s : State) : Out := atomic .addf 4 0x1A7 v s
def execAtmMinw (v : Word) (s : State) : Out := atomic .min 4 0x1A8 v s
def execAtmMind (v : Word) (s : State) : Out := atomic .min 8 0x1A9 v s
def execAtmMinuw (v : Word) (s : State) : Out := atomic .minu 4 0x1AA v s
def execAtmMinud (v : Word) (s : State) : Out := atomic .minu 8 0x1AB v s
def execAtmMaxw (v : Word) (s : State) : Out := atomic .max 4 0x1AC v s
def execAtmMaxd (v : Word) (s : State) : Out := atomic .max 8 0x1AD v s
def execAtmMaxuw (v : Word) (s : State) : Out := atomic .maxu 4 0x1AE v s
def execAtmMaxud (v : Word) (s : State) : Out := atomic .maxu 8 0x1AF v s
def execAtmAndw (v : Word) (s : State) : Out := atomic .and 4 0x1B0 v s
def execAtmAndd (v : Word) (s : State) : Out := atomic .and 8 0x1B1 v s
def execAtmOrw (v : Word) (s : State) : Out := atomic .or 4 0x1B2 v s
def execAtmOrd (v : Word) (s : State) : Out := atomic .or 8 0x1B3 v s
def execAtmXorw (v : Word) (s : State) : Out := atomic .xor 4 0x1B4 v s
def execAtmXord (v : Word) (s : State) : Out := atomic .xor 8 0x1B5 v s
def execAtmSwpw (v : Word) (s : State) : Out := atomic .swp 4 0x1B6 v s
def execAtmSwpd (v : Word) (s : State) : Out := atomic .swp 8 0x1B7 v s
def execAtmCasw (v : Word) (s : State) : Out := atomic .cas 4 0x1B8 v s
def execAtmCasd (v : Word) (s : State) : Out := atomic .cas 8 0x1B9 v s
def execAtmLrw (v : Word) (s : State) : Out := atomic .lr 4 0x1BA v s
def execAtmLrd (v : Word) (s : State) : Out := atomic .lr 8 0x1BB v s
def execAtmScw (v : Word) (s : State) : Out := atomic .sc 4 0x1BC v s
def execAtmScd (v : Word) (s : State) : Out := atomic .sc 8 0x1BD v s

/-- wrs: 1 with no reservation on the granule, 2 in a handler, else the strand is held (R234). -/
def execAtmWrs (v : Word) (s : State) : Out :=
  match atmCheck s (atmAddr s) 8 with
  | .error (c, i) => s.trapA 0x1BE v c i
  | .ok (u, off) =>
    if !holdsResv s s.cur.1 s.cur.2 u (off / 64) then .next (s.resultLocked .atm 1 3)
    else if s.me.hnd then .next (s.resultLocked .atm 2 3)
    else .next (s.setMe { s.me with block := some (.wrs u (off / 64) s.time v.toNat) })

/-! ## Events -/

/-- An atomic that meets an uncorrectable error: it and the strand's later atomics to the tile wait for sys.eret, and
the strand takes 0x31 (R228). -/
def failAtomic (s : State) (p : Packet) (off : Nat) : State :=
  let isAtomic (q : Packet) : Bool := match q.body with
    | .atomic _ => true
    | _ => false
  let s := { s with flight := s.flight.map fun (q : Packet) =>
    if q.src = p.src ∧ q.slot = p.slot ∧ q.dst = p.dst ∧ isAtomic q then { q with stop := true } else q }
  (s.poolLog p.dst off).report p.src p.slot p.id 0x31 (sinfo78 0 0 4 (BitVec.ofNat 64 off))

/-- The strand's returning atomic has its value. -/
def deliverAtomic (s : State) (t k : Nat) (trap : Bool) (y : Word) : State :=
  let st := s.strand t k
  s.setStrand t k (st.setBankAt trap ((st.bankAt trap).arrive .atm (some y)))

/-- Perform an atomic packet that may be performed now. -/
def runAtomic (s : State) (p : Packet) (r : AtmReq) : State :=
  if !s.performed p.after || p.stop || s.routeAhead p || aheadInPool s p p.dst r.addr r.k
      || atmBlocked s p.src p.slot p.dst p.id r then s
  else if (hasBad (s.tile p.dst).poolBad r.addr r.k).isSome then failAtomic s p r.addr
  else
    let (s, y) := performAtomic (s.drop p.id) p.src p.slot p.dst r
    if r.nr then s else deliverAtomic s p.src p.slot r.trap y

/-- ATOMIC_PERFORM: an atomic without SC is performed at its target between two of its issues (R229). -/
def execAtomicPerform (p : Nat) (s : State) : Out :=
  match s.packet p with
  | none => .next s
  | some q =>
    match q.body with
    | .atomic r => if r.sc.isSome then .next s else .next (runAtomic s q r)
    | _ => .next s

/-- The order of SC atomics: window, logical tile, slot, sequence (R236). -/
def scBefore (a b : Nat × Nat × Nat × Nat) : Bool :=
  decide (a.1 < b.1 ∨ a.1 = b.1 ∧ (a.2.1 < b.2.1 ∨ a.2.1 = b.2.1 ∧
    (a.2.2.1 < b.2.2.1 ∨ a.2.2.1 = b.2.2.1 ∧ a.2.2.2 < b.2.2.2)))

/-- The SC atomic that a target performs next. -/
def scNext (s : State) (t : Nat) : Option (Packet × AtmReq × Nat) :=
  s.flight.foldl (fun best q =>
    match q.body with
    | .atomic r =>
      match r.sc with
      | some w =>
        if q.dst ≠ t ∨ q.stop then best
        else
          match best with
          | none => some (q, r, w.1)
          | some (_, r', _) => if scBefore w (r'.sc.getD w) then some (q, r, w.1) else best
      | none => best
    | _ => best) none

/-- SC_WINDOW_PERFORM: the next SC atomic of a window whose time has come is performed, in the order of R236. -/
def execScWindowPerform (t : Nat) (s : State) : Out :=
  match scNext s t with
  | some (q, r, w) => if 32 * (w + 1) + 96 ≤ s.time then .next (runAtomic s q r) else .next s
  | none => .next s

/-- WRS_TIMEOUT: v ticks have passed on a wait (R234). -/
def execWrsTimeout (t k : Nat) (s : State) : Out :=
  let st := s.strand t k
  match st.block with
  | some (.wrs _ _ since limit) =>
    if limit ≠ 0 ∧ since + limit ≤ s.time then .next (s.setStrand t k (wakeWrs st 4 (s.tile t).cycle)) else .next s
  | _ => .next s

/-- LOCKED_RESERVATION_EXPIRE: 256 of the target's cycles have passed (R235). -/
def execLockedReservationExpire (t g : Nat) (s : State) : Out :=
  let x := s.tile t
  .next (s.setTile t { x with resv := x.resv.map fun (e : ResvEnt) =>
    match e.locked with
    | some c => if e.granule = g ∧ c + 256 ≤ x.cycle then { e with locked := none } else e
    | none => e })

end Sys2Proof.Machine
end

