-- ==== Sys2Proof/Machine/Dma.lean ====
section
/-! DEFINITION. The copy engine (R94 to R106) and the stream sockets (R107, R108). -/
namespace Sys2Proof.Machine

/-! ## Descriptors (R94, R95) -/

/-- Bytes of a copy. -/
def CopyDesc.total (d : CopyDesc) : Nat := d.n0 * d.n1 * d.n2

/-- The descriptor that 64 bytes hold, with dma.a and dma.b where ASRC and ADST say so (R94, R99). -/
def readDesc (l : List Byte) (a b : Word) : CopyDesc :=
  let fl := fld l 41 1
  { src := if fl / 4 % 2 = 1 then a else fldW l 0, dst := if fl / 8 % 2 = 1 then b else fldW l 8
    n0 := fld l 16 4, n1 := fld l 20 2, n2 := fld l 22 2, sstr1 := fldS l 24, sstr2 := fldS l 28
    dstr1 := fldS l 32, dstr2 := fldS l 36, sem := fld l 40 1, inbox := fl % 2 == 1, inc := fld l 42 2
    tag := fldW l 48, itile := fld l 56 2, skind := fld l 58 1 % 4, dkind := fld l 58 1 / 4 % 4 }

/-! ## Checks (R100) -/

/-- SINFO of trap 0x25. -/
def info25 (reason low : Nat) : Word := BitVec.ofNat 64 (reason * 2 ^ 56 + low)

/-- What a byte's class and tile are, to compare over a footprint (R95). -/
def footKey (s : State) (t : Nat) (a : Word) : Nat × Nat :=
  match classify a with
  | .ok (.global _) => (0, 0)
  | .ok (.remote lt _) => (1, lt)
  | .ok (.sorus i _) => (2, i)
  | .ok (.own _) => (3, t)
  | .error _ => (4, (s.tile t).ltile)

/-- Order 7 for one address endpoint: byte by byte, then that the footprint lies in one class and one tile. -/
def addrFault (s : State) (d : CopyDesc) (dst : Bool) : Option (Nat × Word) :=
  let t := s.cur.1
  let access := dst.toNat
  let runs := runsOf d dst
  match runs.findSome? fun r => engCheck s t r.1 r.2 with
  | some (a, r) => some (0x0F, sinfo78 r 0 access a)
  | none =>
    let first := footKey s t (if dst then d.dst else d.src)
    ((runs.flatMap fun r => lineStarts r.1 r.2).find? fun a => footKey s t a != first).map fun a =>
      (0x0F, sinfo78 4 0 access a)

/-- A slot endpoint leaves the slots (order 6). -/
def slotRange (d : CopyDesc) (dst : Bool) : Bool :=
  (runsOf d dst).any fun r => decide (0x20000 < r.1.toNat + r.2)

/-- The socket a stream endpoint names. -/
def sockOf (d : CopyDesc) : Nat := if d.skind = 2 then d.src.toNat % 4 else d.dst.toNat % 4

def Tile.sock (x : Tile) (k : Nat) : Sock :=
  Map.find { owner := none, outbound := false, fifo := [], part := [], copy := 0, appended := 0, total := 0,
             last := false, ended := none } x.socks k

def Tile.setSock (x : Tile) (k : Nat) (q : Sock) : Tile := { x with socks := Map.set x.socks k q }

/-- Reserved bits and fields of a descriptor (order 2). -/
def descReserved (l : List Byte) (d : CopyDesc) : Bool :=
  let fl := fld l 41 1
  fl / 2 % 2 == 1 || fl / 16 != 0 || fld l 44 4 != 0 || fld l 58 1 / 16 != 0 || fld l 59 5 != 0
    || d.skind == 3 || d.dkind == 3 || (d.skind == 2 && d.src.bits 63 2 != 0) || (d.dkind == 2 && d.dst.bits 63 2 != 0)

/-- SINFO of order 8's trap 0x16: [39:16] are zero (R202); a copy has no opcode, field offset or FMT to name, and the
manual gives the other bits no value (log entry 25). -/
def openSlotInfo (s : State) : Word := Config.openWord s.oracle &&& 0xFFFFFF000000FFFF

/-- The checks of R100 from order 2 on, on a descriptor at an offset. -/
def descFault (s : State) (bind : Bool) (off : Nat) (l : List Byte) (d : CopyDesc) : Option (Nat × Word) :=
  let streams := (decide (d.skind = 2)).toNat + (decide (d.dkind = 2)).toNat
  let x := s.here
  let notMine (dst : Bool) : Bool := (endSlots d dst).any fun i => !x.owns s.cur.2 i
  if descReserved l d then some (0x25, info25 1 off)
  else if d.n0 = 0 ∨ 0x100000 < d.n0 ∨ d.n1 = 0 ∨ d.n2 = 0 then some (0x25, info25 2 off)
  else if streams ≠ bind.toNat then some (0x25, info25 3 off)
  else if 0 < streams ∧ d.total % 8 ≠ 0 then some (0x25, info25 4 off)
  else if (d.skind == 1 && slotRange d false) || (d.dkind == 1 && slotRange d true) then some (0x25, info25 5 off)
  else
    match (if d.skind = 0 then addrFault s d false else none).or (if d.dkind = 0 then addrFault s d true else none) with
    | some e => some e
    | none =>
      if (d.skind == 1 && notMine false) || (d.dkind == 1 && notMine true) then
        some (0x16, openSlotInfo s)
      else if d.inbox && d.itile != 0xFFFF && (s.physical s.cur.1 d.itile).isNone then some (0x25, info25 6 off)
      else if bind && (x.sock (sockOf d)).owner == some s.cur.2 then some (0x25, info25 7 off)
      else none

/-- The checks of R99 and R100 on a trigger: a cause with SINFO, or the descriptor captured. -/
def copyCheck (s : State) (bind : Bool) (v : Word) : Except (Nat × Word) CopyDesc :=
  let off := v.toNat % 2 ^ 20
  if v.bits 63 20 ≠ 0 ∨ off % 64 ≠ 0 ∨ partitionBad s off then .error (0x25, info25 0 off)
  else if (hasBad s.here.poolBad off 64).isSome then .error (0x31, sinfo78 0 0 0 (BitVec.ofNat 64 off))
  else
    let l := s.poolRead s.cur.1 off 64
    let d := readDesc l (s.opnd 0x200) (s.opnd 0x201)
    match descFault s bind off l d with
    | some e => .error e
    | none => .ok d

/-! ## Queue entries (R101, R103) -/

def CopyEnt.reset : CopyEnt :=
  { gen := 0, state := 0, owner := 0
    desc := { src := 0, dst := 0, n0 := 0, n1 := 0, n2 := 0, sstr1 := 0, sstr2 := 0, dstr1 := 0, dstr2 := 0, sem := 0,
              inbox := false, inc := 0, tag := 0, itile := 0, skind := 0, dkind := 0 }
    done := 0, id := 0, after := [], abort := false, buf := none, fails := 0 }

def Tile.copy (x : Tile) (e : Nat) : CopyEnt := Map.find CopyEnt.reset x.copies e

def Tile.setCopy (x : Tile) (e : Nat) (c : CopyEnt) : Tile := { x with copies := Map.set x.copies e c }

/-- The lowest free entry. -/
def freeCopy (x : Tile) : Option Nat := (List.range 32).find? fun e => (x.copy e).state == 0

/-- Entries a strand owns. -/
def ownedCopies (x : Tile) (k : Nat) : Nat := (x.copies.filter fun e => e.2.state != 0 && e.2.owner == k).length

/-- A trigger that passes its checks is held: no entry, or the strand owns 8, or the socket is another strand's (R100,
R101). -/
def copyHeld (s : State) (bind : Bool) (v : Word) : Bool :=
  match copyCheck s bind v with
  | .error _ => false
  | .ok d =>
    let x := s.here
    (freeCopy x).isNone || decide (8 ≤ ownedCopies x s.cur.2)
      || (bind && (x.sock (sockOf d)).owner.isSome)

/-- The copy id of an entry (R99). -/
def copyId (e : Nat) (c : CopyEnt) : Nat := c.gen % 2048 * 32 + e

/-- Take a queue entry, and bind the socket of a stream endpoint (R99, R101, R107). -/
def takeCopy (s : State) (d : CopyDesc) (bind : Bool) : State :=
  let (t, k) := s.cur
  let x := s.here
  let e := (freeCopy x).getD 0
  let c : CopyEnt :=
    { gen := ((x.copy e).gen + 1) % 2048, state := 1, owner := k, desc := d, done := 0, id := s.nextId
      after := s.earlier t k 4, abort := false, buf := none, fails := 0 }
  let x := x.setCopy e c
  let x := if bind then
      x.setSock (sockOf d)
        { owner := some k, outbound := d.skind == 2, fifo := [], part := [], copy := e, appended := 0,
          total := d.total, last := false, ended := none }
    else x
  { s.setHere x with nextId := s.nextId + 1 }.result .dma (BitVec.ofNat 64 (copyId e c)) none 2

/-- dma.copy and dma.bind (R99). -/
def startCopy (bind : Bool) (port : Nat) (v : Word) (s : State) : Out :=
  match copyCheck s bind v with
  | .error (c, i) =>
    let s := if c = 0x31 then s.poolLog s.cur.1 (v.bits 19 0) else s
    s.tick.trapA port v c i
  | .ok d => .next (takeCopy (s.poolScrub s.cur.1 (v.bits 19 0) 64) d bind)

def execDmaCopy (v : Word) (s : State) : Out := startCopy false 0x203 v s
def execDmaBind (v : Word) (s : State) : Out := startCopy true 0x204 v s

/-- The entry an id names, while it is taken under that generation (R103). The trigger value of dma.query and dma.abort is
called a copy id, 16 bits; its bits [63:16] are ignored (DESIGN CHOICE, log entry 63). -/
def copyOf (x : Tile) (v : Word) : Option (Nat × CopyEnt) :=
  let e := v.bits 4 0
  let c := x.copy e
  if c.state ≠ 0 ∧ c.gen = v.bits 15 5 then some (e, c) else none

/-- The state word of R103. -/
def copyWord (c : Option (Nat × CopyEnt)) : Word :=
  match c with
  | some (_, c) => BitVec.ofNat 64 (c.state * 2 ^ 56 + c.done)
  | none => BitVec.ofNat 64 (7 * 2 ^ 56)

def execDmaQuery (v : Word) (s : State) : Out := .next (s.result .dma (copyWord (copyOf s.here v)) none 2)

/-- dma.abort: the copy ends at its next piece boundary (R104). -/
def execDmaAbort (v : Word) (s : State) : Out :=
  let x := s.here
  let y := copyWord (copyOf x v)
  match copyOf x v with
  | some (e, c) =>
    if c.state ≤ 3 then
      if c.owner ≠ s.cur.2 then
        s.tick.trapA 0x207 v 0x25 (info25 11 ((Config.openWord s.oracle).bits 19 0))
      else .next ((s.setHere (x.setCopy e { c with abort := true })).result .dma y none 2)
    else .next (s.result .dma y none 2)
  | none => .next (s.result .dma y none 2)

/-! ## Sockets (R107, R108) -/

/-- The socket is bound to a strand in a direction. -/
def Sock.mine (q : Sock) (k : Nat) (outbound : Bool) : Bool := q.owner == some k && q.outbound == outbound

/-- A socket unbinds; ended notes the strand of an inbound bind (R108). -/
def Sock.unbound (q : Sock) : Sock :=
  { q with owner := none, fifo := [], part := [], last := false, ended := if q.outbound then q.ended else q.owner }

/-- dma.unbind (R104). -/
def execDmaUnbind (v : Word) (s : State) : Out :=
  let x := s.here
  let q := x.sock v.toNat
  if q.owner = some s.cur.2 then
    let c := x.copy q.copy
    let live := c.state ≠ 0 ∧ c.state ≤ 3 ∧ c.owner = s.cur.2 ∧ (c.desc.skind = 2 ∨ c.desc.dkind = 2) ∧ sockOf c.desc = v.toNat
    let x := if live then x.setCopy q.copy { c with abort := true } else x
    let n := q.fifo.length
    let s := s.setHere (x.setSock v.toNat q.unbound)
    .next (s.result .dma (BitVec.ofNat 64 n) none 2)
  else .next (s.result .dma 0 none 2)

/-- What stops a read of stk.y before its word has any effect: the REASON of trap 0x25 (R108). A socket that was the
strand's own and has been bound by another strand since is one not bound to it, REASON 8, also after that binding ends
(DESIGN CHOICE, log entry 73). -/
def sockReadBad (s : State) (k : Nat) : Option Nat :=
  let q := s.here.sock k
  if q.mine s.cur.2 false then none
  else if q.owner = none ∧ q.ended = some s.cur.2 then some 10
  else some 8

/-- What stops a stk.w before its word has any effect (R108). -/
def sockWriteBad (s : State) (k : Nat) : Option Nat :=
  let q := s.here.sock k
  if !q.mine s.cur.2 true then some 8 else if q.total ≤ 8 * q.appended then some 9 else none

/-- A read of the head entry removes it; with the last the socket unbinds (R107). -/
def Tile.sockPop (x : Tile) (k : Nat) : Tile :=
  let q := x.sock k
  let q := { q with fifo := q.fifo.drop 1 }
  x.setSock k (if q.fifo.isEmpty && q.last then q.unbound else q)

/-- stk.w: append an entry (R107). -/
def execStkW (k : Fin 4) (v : Word) (s : State) : Out :=
  match sockWriteBad s k with
  | some r => .next (trapP s s.cur.1 s.cur.2 0x25 (info25 r k))
  | none =>
    let x := s.here
    let q := x.sock k
    .next (s.setHere (x.setSock k { q with fifo := q.fifo ++ [v], appended := q.appended + 1 }))

/-! ## Pieces (R96, R97, R101, R105) -/

/-- Bytes of the next piece (R97). -/
def pieceLen (d : CopyDesc) (i : Nat) : Nat :=
  min (d.n0 - i % d.n0) (if d.dkind = 2 then 8 - i % 8 else 64 - (dstAt d i).toNat % 64)

/-- The bytes of a piece from its source; a stream waits until it has brought them. -/
def readPiece (s : State) (t : Nat) (c : CopyEnt) (n : Nat) : EngRes (List Byte) :=
  let d := c.desc
  let x := s.tile t
  match d.skind with
  | 0 => engRead 66 s t c.id (srcAt d c.done) n
  | 1 =>
    let a := (srcAt d c.done).toNat
    match hasBad x.opBad a n with
    | some b => .fault ⟨0x31, 1, 0, BitVec.ofNat 64 b⟩ (s.opLog t 1 b)
    | none => .ok (x.opmem.readBytes a n) (s.opScrub t [(a, n)])
  | _ =>
    let q := x.sock (sockOf d)
    let bytes := ((q.fifo.flatMap fun w => leBytes w.toNat 8).drop (c.done % 8)).take n
    if bytes.length < n then .wait s
    else
      let used := (c.done + n) / 8 - c.done / 8
      .ok bytes (s.setTile t (x.setSock (sockOf d) { q with fifo := q.fifo.drop used }))

/-- Write a piece; it waits for a locked reservation or a full socket. -/
def writePiece (s : State) (t : Nat) (c : CopyEnt) (bs : List Byte) : EngRes Unit :=
  let d := c.desc
  let x := s.tile t
  match d.dkind with
  | 0 => if engBlocked s t (dstAt d c.done) bs.length then .wait s else engWrite 3 s t c.id (dstAt d c.done) bs
  | 1 => .ok () (s.setTile t (x.opWrite (dstAt d c.done).toNat bs))
  | _ =>
    let q := x.sock (sockOf d)
    let part := q.part ++ bs
    if part.length < 8 then
      .ok () (s.setTile t (x.setSock (sockOf d) { q with part := part }))
    else if 64 ≤ q.fifo.length then .wait s
    else .ok () (s.setTile t (x.setSock (sockOf d) { q with part := [], fifo := q.fifo ++ [BitVec.ofNat 64 (leNat part)] }))

/-- The socket of a copy that ends: an outbound one unbinds, an inbound one when its last entry has been read (R107). The
entries that an aborted inbound copy has put into the FIFO stay there to be read (DESIGN CHOICE, log entry 63). -/
def endSocket (x : Tile) (e : Nat) (c : CopyEnt) : Tile :=
  let d := c.desc
  if d.skind ≠ 2 ∧ d.dkind ≠ 2 then x
  else
    let k := sockOf d
    let q := x.sock k
    if q.owner = some c.owner ∧ q.copy = e ∧ q.outbound = (d.skind == 2) then
      let q := { q with part := [] }
      x.setSock k (if q.outbound || q.fifo.isEmpty then q.unbound else { q with last := true })
    else x

/-- The completion actions: the signal, and the entry freed unless a record is to be posted (R102, R104). A fault that the
copy has reported stays to be taken, also where the copy has been aborted meanwhile (DESIGN CHOICE, log entry 73). -/
def completeCopy (s : State) (t e : Nat) (c : CopyEnt) (state : Nat) : State :=
  let x := endSocket (s.tile t) e c
  let s := s.setTile t (x.setCopy e { c with state := if c.desc.inbox then state else 0, abort := false, buf := none })
  s.semAdd t c.desc.sem c.desc.inc false

/-- Copies start in trigger order (R101). -/
def mayStart (x : Tile) (c : CopyEnt) : Bool :=
  c.state != 1 || x.copies.all fun f => f.2.state != 1 || decide (c.id ≤ f.2.id)

/-- A copy that may start is running, whether or not it can move a piece yet (R101, R103). -/
def startedCopy (x : Tile) (c : CopyEnt) : CopyEnt := if c.state = 1 ∧ mayStart x c then { c with state := 2 } else c

/-- A fault suspends the copy at its piece, which is read again when it goes on, but from a stream, whose entries are gone
(R105). -/
def suspendCopy (s : State) (t e : Nat) (c : CopyEnt) (f : EngFault) (access : Nat) : State :=
  let c := { c with state := 3, buf := if c.desc.skind = 2 then c.buf else none }
  ((s.forget c.id).setTile t ((s.tile t).setCopy e c)).report t c.owner c.id f.cause (f.info access)

/-- An inbound copy's next piece would complete an entry that its FIFO has no room for. -/
def sockFull (s : State) (t : Nat) (c : CopyEnt) : Bool :=
  let q := (s.tile t).sock (sockOf c.desc)
  c.desc.dkind == 2 && decide (64 ≤ q.fifo.length ∧ 8 ≤ q.part.length + pieceLen c.desc c.done)

/-- A piece is read whole, once a stream it goes to has room for it (R106, R107). -/
def copyRead (s : State) (t e : Nat) (c : CopyEnt) : State :=
  if sockFull s t c then s
  else
    match readPiece s t c (pieceLen c.desc c.done) with
    | .wait s => s
    | .fault f s => suspendCopy s t e c f 0
    | .ok bs s => (s.forget c.id).setTile t ((s.tile t).setCopy e { c with buf := some bs })

/-- The piece that was read is written whole. -/
def copyWrite (s : State) (t e : Nat) (c : CopyEnt) (bs : List Byte) : State :=
  match writePiece s t c bs with
  | .wait s => s
  | .fault f s => suspendCopy s t e c f 1
  | .ok _ s =>
    let s := s.forget c.id
    let c := { c with done := c.done + bs.length, buf := none, fails := 0 }
    if c.desc.total ≤ c.done then completeCopy s t e c 4 else s.setTile t ((s.tile t).setCopy e c)

/-- The engine is between two pieces of the copy, or the piece that was read cannot be written before its trap (R104). -/
def CopyEnt.atBoundary (c : CopyEnt) : Bool := c.buf.isNone || c.state == 3

/-- An aborted copy can end: between two pieces, or before a piece enters the FIFO of a socket (R104). -/
def CopyEnt.mayEnd (c : CopyEnt) : Bool := c.atBoundary || c.desc.dkind == 2

/-- COPY_PIECE: the engine reads or writes one piece of the copy in entry e, or ends an aborted one (R97, R101, R104). -/
def execCopyPiece (t e : Nat) (s : State) : Out :=
  let x := s.tile t
  let c := x.copy e
  if (x.stopped && c.atBoundary) || c.state == 0 || decide (3 < c.state) then .next s
  else if c.abort && c.mayEnd then .next (completeCopy (s.forget c.id) t e c 5)
  else
    let c := startedCopy x c
    let s := s.setTile t (x.setCopy e c)
    if c.state != 2 || !s.performed c.after then .next s
    else
      match c.buf with
      | none => .next (copyRead s t e c)
      | some bs => .next (copyWrite s t e c bs)

/-- The inbox record of a copy (R102). -/
def copyRecord (e : Nat) (c : CopyEnt) : List Byte :=
  leBytes c.desc.tag.toNat 8 ++ leBytes c.done 8 ++ leBytes (copyId e c) 2 ++ [BitVec.ofNat 8 c.state, 1] ++ zeros 44

/-- COPY_RECORD_POST: the record enters ITILE's inbox once it has room, and the entry is freed (R102); for a tile whose save
area is written it leaves for the spill ring (R359). -/
def execCopyRecordPost (t e : Nat) (s : State) : Out :=
  let x := s.tile t
  let c := x.copy e
  if c.state ≠ 4 ∧ c.state ≠ 5 then .next s
  else
    let u := if c.desc.itile = 0xFFFF then t else (s.physical t c.desc.itile).getD t
    let y := s.tile u
    let m : InMsg := { data := copyRecord e c, kind := 1, slot := 0, src := x.ltile }
    if y.halted then .next (((s.setTile t (x.setCopy e { c with state := 0 })).countSent t).send t 16 u (.msg m) [])
    else if 64 ≤ y.inbox.length then .next s
    else
      let s := s.setTile u { y with inbox := y.inbox ++ [m] }
      .next (((s.setTile t ((s.tile t).setCopy e { c with state := 0 })).countSent t).countRcvd u)

end Sys2Proof.Machine
end

