-- ==== Sys2Proof/Machine/Control.lean ====
section
/-! DEFINITION. The control unit (R286 to R301), crf (R119, R120) and the system unit's registers and return (R123, R347,
R350). -/
namespace Sys2Proof.Machine

/-! ## crf -/

/-- The register an index names, as it reads (R119). -/
def crfRead (s : State) (i : Nat) : Word :=
  let st := s.me
  if i < 0x400 then s.creg s.cur.1 i
  else if i = 0x400 then st.mode.zeroExtend 64
  else if i = 0x401 then st.fmt.zeroExtend 64
  else if i = 0x402 then st.tbank.zeroExtend 64
  else 0

/-- The protected word of the strand that an index from 0x400 on names. -/
def crfCells (i : Nat) : List Nat :=
  if i = 0x400 then [sysCell 6] else if i = 0x401 then [sysCell 7] else if i = 0x402 then [sysCell 9] else []

/-- crf.rd reads at firing, after the word's register writes (R120); trap 0x31 for a register that cannot be read
(R379). -/
def execCrfRd (v : Word) (s : State) : Out :=
  let i := v.bits 10 0
  if 0x400 ≤ i then s.readCells 0x0F2 v (crfCells i) fun s => .next (s.result .crf (crfRead s i) none 2)
  else
    match hasBad s.here.poolBad (8 * i) 8 with
    | some b => poolBadTrap s 0x0F2 v b 0
    | none => .next ((s.poolScrub s.cur.1 (8 * i) 8).result .crf (crfRead s i) none 2)

/-- Write MODE from the next issue; reserved bits are ignored (R117, R118). -/
def State.writeMode (s : State) (v : Word) : State :=
  let st := s.me
  s.setMe { st with next := { st.next with mode := some ((v.truncate 24 : BitVec 24) &&& modeMask) } }

/-- Write FMT from the next issue (R118). -/
def State.writeFmt (s : State) (v : Word) : State :=
  let st := s.me
  s.setMe { st with next := { st.next with fmt := some (v.truncate 16) } }

/-- crf.wr (R119, R120). -/
def execCrfWr (v : Word) (s : State) : Out :=
  let i := (s.opnd 0x0F0).bits 10 0
  if i < 0x400 then .next (s.setCreg s.cur.1 i v)
  else if i = 0x400 then .next ((s.renewCells [sysCell 6]).writeMode v)
  else if i = 0x401 then .next ((s.renewCells [sysCell 7]).writeFmt v)
  else .next s

/-! ## Transfers -/

/-- A transfer opens two delay issues (R289). -/
def State.transfer (s : State) (annul taken : Bool) (target : BitVec 24) : State :=
  let st := s.me
  s.setMe { st with
    delay := some { cnt := 2, annul := annul, taken := taken, target := if taken then target else 0 } }

/-- The target of a relative transfer: the address of its word plus a 24-bit offset (R287). -/
def relTarget (st : Strand) (v : Word) : BitVec 24 := st.ia + v.truncate 24

/-- The address after the parcels that carry the next n issues of a stream (R287, R290). -/
def afterIssues (ps : List (BitVec 16)) (a : BitVec 24) (n fuel : Nat) : BitVec 24 :=
  match fuel, ps with
  | fuel + 1, p :: r =>
    match decodeParcels (p :: r) with
    | .ok (.tParcel _ nm1 _) => if n ≤ nm1.toNat + 1 then a + 1 else afterIssues r (a + 1) (n - (nm1.toNat + 1)) fuel
    | .ok (.idle k) => if n ≤ k.toNat + 1 then a + 1 else afterIssues r (a + 1) (n - (k.toNat + 1)) fuel
    | .ok (.inline _) => if n ≤ 1 then a + 17 else afterIssues (r.drop 16) (a + 17) (n - 1) fuel
    | _ => afterIssues r (a + 1) n fuel
  | _, _ => a

/-- The return address of a call whose word ends at pc (R287). -/
def returnAddress (s : State) (st : Strand) : BitVec 24 :=
  let n := s.objLen s.cur.1
  afterIssues (s.parcels s.cur.1 st.pc.toNat n) st.pc 2 n

/-- The pool offset of spill entry j of slot k (R112, R294). -/
def spillAt (k j : Nat) : Nat := 0x2000 + 512 * k + 8 * j

def execCuJmp (v : Word) (s : State) : Out := .next (s.transfer false true (v.truncate 24))
def execCuBr (v : Word) (s : State) : Out := .next (s.transfer false true (relTarget s.me v))

/-- brl: g true: taken, delay issues executed; false: not taken, annulled (R288). -/
def execCuBrl (g : Bool) (v : Word) (s : State) : Out := .next (s.transfer (!g) g (relTarget s.me v))

/-- brk: g true: taken, delay issues annulled; false: not taken, executed (R288). -/
def execCuBrk (g : Bool) (v : Word) (s : State) : Out := .next (s.transfer g g (relTarget s.me v))

/-- Push a return address, spilling the oldest entry of a full store (R294). -/
def State.push (s : State) (r : BitVec 24) : State :=
  let st := s.me
  if st.ret.length < 16 then s.setMe { st with ret := r :: st.ret }
  else
    let old := st.ret.getLastD 0
    let s := s.poolWrite s.cur.1 (spillAt s.cur.2 st.sdepth) (leBytes old.toNat 8)
    let st := s.me
    s.setMe { st with ret := r :: st.ret.dropLast, sdepth := st.sdepth + 1 }

/-- call: trap 0x09 when store and spill area are full, else push and transfer (R287, R295); 0x31 for an entry that it
would spill and that cannot be read (R380). -/
def execCuCall (v : Word) (s : State) : Out :=
  let st := s.me
  if 16 ≤ st.ret.length ∧ 64 ≤ st.sdepth then s.trapA 0x005 v 0x09 (sinfoOp 0 0x005)
  else
    let c := retCell (st.sdepth + st.ret.length)
    s.readCells 0x005 v (if st.ret.length < 16 then [] else [c]) fun s =>
      .next (((s.renewCells [c]).push (returnAddress s st)).transfer false true (v.truncate 24))

/-- ret: the newest store entry, else the newest spill entry, else trap 0x08 (R294, R295); 0x31 for an entry that cannot be
read (R380). -/
def execCuRet (v : Word) (s : State) : Out :=
  let st := s.me
  match st.ret with
  | r :: rest => s.readCells 0x006 v [retCell (st.sdepth + rest.length)] fun s =>
    .next ((s.setMe { s.me with ret := rest }).transfer false true r)
  | [] =>
    if st.sdepth = 0 then s.trapA 0x006 v 0x08 (sinfoOp 0 0x006)
    else
      let off := spillAt s.cur.2 (st.sdepth - 1)
      match hasBad s.here.poolBad off 8 with
      | some b => poolBadTrap s 0x006 v b 0
      | none =>
        let r : BitVec 24 := BitVec.ofNat 24 (leNat (s.poolRead s.cur.1 off 8))
        let s := s.poolScrub s.cur.1 off 8
        .next ((s.setMe { s.me with sdepth := st.sdepth - 1 }).transfer false true r)

/-! ## Starting, ending, meeting -/

/-- The slot cu.start takes: the lowest free helper slot (R296, R311). -/
def startSlot (s : State) (t : Nat) : Option Nat := (s.freeSlots t).head?

/-- cu.start (R296). -/
def execCuStart (v : Word) (s : State) : Out :=
  let t := s.cur.1
  match startSlot s t with
  | none => .next (s.result .cu (-1) none 2)
  | some k =>
    let x := s.here
    let me := s.me
    let (x, key) := x.seed s.cur.2
    let pc : BitVec 24 := (me.opnd 0x000).truncate 24
    let st := Strand.fresh pc
      [BitVec.ofNat 64 x.ltile, v, me.opnd 0x001, Map.find 0 me.regs 3, Map.find 0 me.regs 4] me.mode me.fmt key
      x.cycle (x.strand k)
    let s := s.setTile t ((x.zeroVec k).setStrand k (st.startOn t))
    .next (s.result .cu (BitVec.ofNat 64 k) none 2)

/-- cu.halt ends the strand after its word (R297); the issue that carries it completes the ending. -/
def execCuHalt (_v : Word) (s : State) : Out := .next (s.setMe { s.me with ending := true })

/-- cu.yield lowers the strand's standing until its next issue (R298, R318). -/
def execCuYield (_v : Word) (s : State) : Out := .next (s.setMe { s.me with yielded := true })

/-- The meet point and party count of a meet word (R299). -/
def meetOf (v : Word) : Nat × Nat := (v.bits 2 0, v.bits 11 8 + 1)

def Tile.meet (x : Tile) (m : Nat) : Meet := Map.find { count := 0, parties := 0, gen := 0 } x.meets m

/-- The key of a cu.meet's own arrival at m. -/
def meetKey (m : Nat) : Nat := m + 8

/-- Arrive at meet point m for p parties: the arrival, listed under key, is open at the generation found (R299). -/
def State.meetArrive (s : State) (t k m key p : Nat) : State :=
  let x := s.tile t
  let q := x.meet m
  let parties := if q.count = 0 then p else q.parties
  let q' : Meet :=
    if q.count + 1 = parties then { count := 0, parties := parties, gen := (q.gen + 1) % 256 }
    else { count := q.count + 1, parties := parties, gen := q.gen }
  let st := x.strand k
  let x := { x with meets := Map.set x.meets m q' }
  s.setTile t (x.setStrand k { st with meets := (key, q.gen) :: st.meets })

/-- The key of a cu.meet's own arrival at m that a cu.trymeet of a handler has seen complete: no longer open, but the held
cu.meet still ends by it. -/
def seenKey (m : Nat) : Nat := m + 16

/-- The generation of the strand's arrival under a key (R299). -/
def Strand.openMeet (st : Strand) (key : Nat) : Option Nat := (st.meets.find? fun e => e.1 == key).map Prod.snd

/-- The generation of the held cu.meet's own arrival at m. -/
def Strand.ownMeet (st : Strand) (m : Nat) : Option Nat := (st.openMeet (meetKey m)).or (st.openMeet (seenKey m))

/-- The generation of the strand's open arrival at m, which a cu.trymeet polls (R299). -/
def Strand.polled (st : Strand) (m : Nat) : Option Nat := (st.openMeet m).or (st.openMeet (meetKey m))

/-- A cu.meet at m ends: the strand's arrivals there are closed. -/
def Strand.closeMeet (st : Strand) (m : Nat) : Strand :=
  { st with meets := st.meets.filter fun e => e.1 != m && e.1 != meetKey m && e.1 != seenKey m }

/-- A cu.trymeet at m has seen a generation complete: the arrivals of it are closed. -/
def Strand.closePoll (st : Strand) (m : Nat) : Strand :=
  let g := st.polled m
  { st with meets := (st.meets.filter fun e => e.1 != m).map fun e =>
      if e.1 = meetKey m ∧ some e.2 = g then (seenKey m, e.2) else e }

/-- An arrival at a meet point is a release at tile scope: what it waits for is outstanding (R299, R330). -/
def State.meetWaits (s : State) (t k : Nat) : Bool := !(s.earlier t k 1).isEmpty

/-- Negotiate a grant from a request (R172): claimants other than this strand, and itself. A strand whose first grant comes
into force at its next issue is not yet a claimant (DESIGN CHOICE, log entry 73). -/
def negotiate (s : State) (t k : Nat) (req : Nat × Nat) : Nat × Nat :=
  if req.1 = 0 then (0, 0)
  else
    let others := (slots.filter fun j => j != k && ((s.strand t j).vgrant.1 != 0)).length
    let n := others + 1
    let room := if n ≤ 4 then 256 else if n ≤ 8 then 128 else 64
    (min req.1 (room / req.2), req.2)

/-- A re-negotiation point: the standing request is negotiated again, from the next issue (R173). -/
def State.renegotiate (s : State) : State :=
  let st := s.me
  if st.vreq.1 = 0 then s
  else s.setMe { st with next := { st.next with grant := some (negotiate s s.cur.1 s.cur.2 st.vreq) } }

/-- cu.meet: its arrival was made when its word first attempted to issue, and the word proceeds once the generation has
moved on; it is then an acquire at tile scope (R299, log entry 13). -/
def execCuMeet (v : Word) (s : State) : Out :=
  let (m, p) := meetOf v
  let s := if (s.me.ownMeet m).isSome then s else s.meetArrive s.cur.1 s.cur.2 m (meetKey m) p
  let st := s.me
  let s := if st.ownMeet m = some (s.here.meet m).gen then s else s.setMe (st.closeMeet m)
  .next s.renegotiate

/-- cu.trymeet: poll an open arrival, else arrive; 0 when the meeting has completed, 1 when the arrival stays open
(R299). -/
def execCuTrymeet (v : Word) (s : State) : Out :=
  let (m, p) := meetOf v
  let s := if (s.me.polled m).isSome then s else s.meetArrive s.cur.1 s.cur.2 m m p
  let st := s.me
  if st.polled m = some (s.here.meet m).gen then .next (s.result .cu 1 none 2)
  else .next ((s.setMe (st.closePoll m)).result .cu 0 none 2)

/-- cu.tload: 1 at once when the kernel has no such overlay, else the strand is held until OVERLAY_LOADED (R300). -/
def execCuTload (v : Word) (s : State) : Out :=
  let n := v.bits 7 0
  match s.objOf s.cur.1 with
  | none => .next (s.result .cu 1 none 2)
  | some o =>
    if o.overlays.any fun e => e.1 == n then
      let s := s.setMe { s.me with block := some (.tload n) }
      .next (s.setHere { s.here with loading := some ((s.here.loading).getD n) })
    else .next (s.result .cu 1 none 2)

/-- Entries 256 to 511 of an overlay's words, unfilled entries empty (R33, R35). -/
def overlayTable (tab : Map (BitVec 256)) (ws : List (BitVec 256)) : Map (BitVec 256) :=
  (List.range 256).foldl (fun m j => Map.set m (256 + j) (ws.getD j emptyWord)) tab

/-- Loading overlay n ends every hold on it, with 0 in cu.y (R300). -/
def endTload (n : Nat) (c : Nat) (st : Strand) : Strand :=
  match st.block with
  | some (.tload m) =>
    if m = n then
      let st := { st with block := none }
      st.setBank (st.bank.push .cu (some 0) none 1 c (st.locked .cu) false)
    else st
  | _ => st

/-- OVERLAY_LOADED: the overlay being loaded is resident for every strand of the tile; a load asked for meanwhile comes
next (R300). -/
def execOverlayLoaded (t : Nat) (s : State) : Out :=
  let x := s.tile t
  match x.loading, s.objOf t with
  | some n, some o =>
    match o.overlays.find? fun e => e.1 == n with
    | none => .next (s.setTile t { x with loading := none })
    | some (_, ws) =>
      let strands := x.strands.map fun e => (e.1, endTload n x.cycle e.2)
      let more := strands.findSome? fun e => match e.2.block with
        | some (.tload m) => some m
        | _ => none
      .next (s.setTile t { x with
        loading := more, overlay := some n, strands := strands, table := overlayTable x.table ws })
  | _, _ => .next s

/-- cu.scall and cu.bkpt trap after their word, and are not fired again (R301). -/
def softTrap (port cause : Nat) (v : Word) (s : State) : Out :=
  .next (s.latch { port := port, v := v, g := true, chop := 0 } cause (v.zx 16))

def execCuScall (v : Word) (s : State) : Out := softTrap 0x00F 0x2C v s
def execCuBkpt (v : Word) (s : State) : Out := softTrap 0x010 0x2A v s

/-! ## System registers -/

/-- The system register of a number, as it reads (R123). -/
def sysRead (s : State) (n : Nat) : Word :=
  let st := s.me
  let x := s.here
  match n with
  | 0x00 => st.sstat.zeroExtend 64
  | 0x01 => st.spc
  | 0x02 => st.scause
  | 0x03 => st.sinfo
  | 0x04 => st.sds
  | 0x05 => st.xstep
  | 0x06 => st.mode.zeroExtend 64
  | 0x07 => st.fmt.zeroExtend 64
  | 0x08 => st.srkey
  | 0x09 => st.tbank.zeroExtend 64
  | 0x0A => BitVec.ofNat 64 st.issue
  | 0x40 => x.partword
  | 0x41 => BitVec.ofNat 64 s.cur.1
  | 0x42 => BitVec.ofNat 64 x.ltile
  | 0x43 => x.ctx.zeroExtend 64
  | 0x44 => Word.ofBool x.hwin
  | 0x45 => BitVec.ofNat 64 s.time
  | 0x46 => BitVec.ofNat 64 x.cycle
  | 0x47 => s.budget s.cur.1 s.cur.2
  | 0x48 => Word.ofInt x.mbudget
  | 0x49 => s.stipeimb s.cur.1
  | _ => 0

/-- sys.rdsr (R123); trap 0x31 for a register of the strand that cannot be read (R379). -/
def execSysRdsr (v : Word) (s : State) : Out :=
  let n := v.bits 6 0
  s.readCells 0x2C3 v (if n < 10 then [sysCell n] else []) fun s => .next (s.resultLocked .sys (sysRead s n) 2)

/-- The bits of SSTAT that sys.wrsr writes: not HND, not TL, not the zero bits (R347). -/
def sstatMask : BitVec 16 := 0xDF1B

/-- sys.wrsr (R123, R347); it writes SPC to TBANK whole, and a part of SSTAT. -/
def execSysWrsr (v : Word) (s : State) : Out :=
  let a := s.opnd 0x2C0
  let n := v.bits 6 0
  let s := s.renewCells (if 1 ≤ n ∧ n < 10 then [sysCell n] else [])
  let st := s.me
  match n with
  | 0x00 => .next (s.setMe { st with
      next := { st.next with sstat := some (((a.truncate 16 : BitVec 16) &&& sstatMask) ||| (st.sstat &&& ~~~sstatMask)) } })
  | 0x01 => .next (s.setMe { st with spc := a })
  | 0x02 => .next (s.setMe { st with scause := a })
  | 0x03 => .next (s.setMe { st with sinfo := a })
  | 0x04 => .next (s.setMe { st with sds := a })
  | 0x05 => .next (s.setMe { st with xstep := a })
  | 0x06 => .next (s.writeMode a)
  | 0x07 => .next (s.writeFmt a)
  | 0x08 => .next (s.setMe { st with next := { st.next with key := some a } })
  | 0x09 => .next (s.setMe { st with next := { st.next with tbank := some (a.truncate 8) } })
  | _ => .next s

/-- sys.eret: the strand's return; the latched operations are re-fired by the issue that carries it (R350). -/
def execSysEret (_v : Word) (s : State) : Out := .next (s.eret s.cur.1 s.cur.2)

end Sys2Proof.Machine
end

