-- ==== Sys2Proof/Machine/Net.lean ====
section
/-! DEFINITION. The network interface (R239 to R256): puts, gets, messages, migration, interrupts between tiles, and the
barriers (R338 to R342, R375). -/
namespace Sys2Proof.Machine

def netA (s : State) : Word := s.opnd 0x1E0
def netB (s : State) : Word := s.opnd 0x1E1
def netC (s : State) : Word := s.opnd 0x1E2
def netD (s : State) : Word := s.opnd 0x1E3

/-! ## What is outstanding (R240, R251) -/

/-- A packet that counts as a send (R240, R263, R335). -/
def Payload.isSend (b : Payload) : Bool :=
  match b with
  | .msg _ | .sem _ _ _ | .chLine _ _ _ _ _ _ | .stLine _ _ _ | .credit _ _ _ => true
  | _ => false

/-- Sends of a strand outstanding. -/
def State.sends (s : State) (t k : Nat) : Nat :=
  (s.flight.filter fun p => p.src == t && p.slot == k && p.body.isSend).length

/-- Puts and gets of a strand outstanding. -/
def State.moves (s : State) (t k : Nat) : Nat := ((s.tile t).gets.filter fun g => g.slot == k).length

/-- A packet the strand's ending does not wait for. -/
def Payload.free (b : Payload) : Bool :=
  match b with
  | .ipi _ _ | .barReport _ _ | .barRelease _ _ _ | .refused => true
  | _ => false

/-- Nothing of the strand's copies, matrix commands, net operations, accesses and requests is outstanding (R106, R210,
R240, R251, R297). -/
def State.drained (s : State) (t k : Nat) : Bool :=
  let x := s.tile t
  (!x.copies.any fun e => e.2.state != 0 && e.2.owner == k) && (!x.mxq.any fun c => c.slot == k)
    && s.moves t k == 0 && (s.strand t k).window.isEmpty
    && !s.flight.any fun p => p.src == t && p.slot == k && !p.body.free

/-- A socket when strand k leaves its slot: one that is bound to it, or was last, is free and holds nothing. The manual calls
the FIFO part of its owner's state and lists it nowhere among what a halt or a departure releases (DESIGN CHOICE, log entry
73). -/
def Sock.leave (q : Sock) (k : Nat) : Sock :=
  if q.owner = some k then { q with owner := none, fifo := [], part := [], last := false, ended := none }
  else if q.ended = some k then { q with ended := none }
  else q

/-- A strand gives up its vector claim, its operand slots, its sockets and its reservation (R108, R253, R297). -/
def State.releaseStrand (s : State) (t k : Nat) : State :=
  let s := s.endResv t k
  let x := s.tile t
  let st := x.strand k
  s.setTile t ({ x with
      slotOwner := x.slotOwner.filter fun e => e.2 != k, socks := x.socks.map fun (e : Nat × Sock) => (e.1, e.2.leave k) }.setStrand k
    { st with vreq := (0, 0), vgrant := (0, 0), acct := 0 })

/-! ## Checks (R241) -/

/-- A check of R241 that failed after the word: cause and SINFO. -/
def netTrap (s : State) (port : Nat) (v : Word) (e : Nat × Word) : Out := s.trapA port v e.1 e.2

/-- The own-pool address of an offset, as SINFO names it. -/
def ownAddr (off : Nat) : Word := ownBase + BitVec.ofNat 64 off

/-- Orders 6 and 8 for a message line at an own-pool offset. -/
def lineCheck (s : State) (off : Nat) : Option (Nat × Word) :=
  if off % 64 ≠ 0 then some (0x0E, sinfo78 0 0 5 (ownAddr off))
  else if region s.here.partword off = .register then some (0x0F, sinfo78 3 0 5 (ownAddr off))
  else none

/-- Order 4: an address of undefined class, with zero bits set, or in the local window page. -/
def netClass (a : Word) : Option (Nat × Word) :=
  match classify a with
  | .error r => some (0x0F, sinfo78 r 0 5 a)
  | .ok (.global _) => if inWindowPage a then some (0x0F, sinfo78 0 0 5 a) else none
  | .ok _ => none

/-- The n bytes from a global address run into the window page, where the address wraps under R75: its first byte there
(R198). -/
def netPage (a : Word) (n : Nat) : Option (Nat × Word) :=
  let b := a + BitVec.ofNat 64 (2 ^ 56 - a.bits 55 0)
  match classify a, classify b with
  | .ok (.global _), .ok (.global _) => if 2 ^ 56 < a.bits 55 0 + n then some (0x0F, sinfo78 0 0 5 b) else none
  | _, _ => none

/-- Order 7: the logical tile lies outside the shape. -/
def netShape (s : State) (a : Word) : Option (Nat × Word) :=
  match classify a with
  | .ok (.global _) => none
  | .ok p => if (s.poolTarget s.cur.1 p).isNone then some (0x0F, sinfo78 2 0 5 a) else none
  | .error _ => none

/-- Order 8 for a pool footprint of n bytes. -/
def netFoot (s : State) (a : Word) (n : Nat) : Option (Nat × Word) :=
  match classify a with
  | .ok (.own off) | .ok (.sorus _ off) | .ok (.remote _ off) =>
    if region s.here.partword off = .register ∨ 0x100000 < off + n then some (0x0F, sinfo78 3 0 5 a) else none
  | _ => none

/-- The checks of a put or get. Zero bits of net.b are checked in order 4, after those of net.a (R75; log entry 26). -/
def moveCheck (s : State) (get : Bool) (port : Nat) (v : Word) : Option (Nat × Word) :=
  let d := netD s
  if d.bits 63 32 ≠ 0 ∨ (get && d.bits 15 8 != 0xFF) then some (0x26, sinfoOp 0 port)
  else if v.toNat = 0 ∨ 0x100000 < v.toNat then some (0x26, sinfoOp 1 port)
  else if (netB s).bits 63 56 ≠ 0xF0 then some (0x26, sinfoOp 2 port)
  else ((((netClass (netA s)).or (netPage (netA s) v.toNat)).or (netClass (netB s))).or (netShape s (netA s))).or
    ((netFoot s (netB s) v.toNat).or (netFoot s (netA s) v.toNat))

/-! ## Puts and gets (R242 to R245) -/

/-- The pieces of n bytes at a destination address: offset and length, cut at 64-byte boundaries (R97). -/
def cutPieces (dst : Word) (off n fuel : Nat) : List (Nat × Nat) :=
  match fuel with
  | 0 => []
  | fuel + 1 =>
    if n ≤ off then []
    else
      let k := min (n - off) (64 - (dst.toNat + off) % 64)
      (off, k) :: cutPieces dst (off + k) n fuel

/-- The accesses that a put or get follows: all that the strand fired before but its other puts and gets and its
messages (R239, R244, R250). -/
def moveAfter (s : State) (t k : Nat) : List Nat :=
  let isMsg (i : Nat) : Bool := match s.packet i with
    | some p => p.body.route == 2
    | none => false
  (s.earlier t k 4).filter fun i => !((s.tile t).gets.any fun g => g.id == i) && !isMsg i

/-- Start a put or get. -/
def startMove (s : State) (get : Bool) (v : Word) : State :=
  let (t, k) := s.cur
  let d := netD s
  let n := v.toNat
  let dst := if get then netB s else netA s
  let op : NetOp :=
    { id := s.nextId, slot := k, get := get, far := netA s, near := (netB s).bits 19 0, n := n
      left := cutPieces dst 0 n (n / 64 + 2), got := [], inc := d.bits 31 16, lsem := d.bits 15 8, sem := d.bits 7 0
      after := moveAfter s t k, suspended := false }
  { s.setHere { s.here with gets := s.here.gets ++ [op] } with nextId := s.nextId + 1 }

def execNetPut (v : Word) (s : State) : Out :=
  match moveCheck s false 0x1E5 v with
  | some e => netTrap s 0x1E5 v e
  | none => .next (startMove s false v)

def execNetGet (v : Word) (s : State) : Out :=
  match moveCheck s true 0x1E6 v with
  | some e => netTrap s 0x1E6 v e
  | none => .next (startMove s true v)

/-- The source and destination of an operation's bytes from an offset on. -/
def NetOp.ends (g : NetOp) (off : Nat) : Word × Word :=
  let near := ownAddr (g.near + off)
  let far := g.far + BitVec.ofNat 64 off
  if g.get then (far, near) else (near, far)

/-- The 64-byte line an address names, whatever the class it is named by: a tile's pool line, or the line of memory its page
leads to (R245). -/
def lineKey (s : State) (t : Nat) (a : Word) : Nat × Nat :=
  match classify a with
  | .ok (.global va) =>
    match walkTables s (s.tile t).ctx.toNat va with
    | .page pa size _ _ => (0, (pa + va.bits 55 0 % 2 ^ size) / 64)
    | _ => (1, va.bits 55 6)
  | .ok p =>
    match s.poolTarget t p with
    | some (u, off) => (u + 2, off / 64)
    | none => (1, a.toNat / 64)
  | .error _ => (1, a.toNat / 64)

/-- The destination line of the piece at an offset. -/
def NetOp.lineOf (s : State) (t : Nat) (g : NetOp) (off : Nat) : Nat × Nat := lineKey s t (g.ends off).2

/-- An earlier operation of the strand still has to write the piece's line (R245). -/
def lineAhead (s : State) (t : Nat) (g : NetOp) (off : Nat) : Bool :=
  ((s.tile t).gets.takeWhile fun h => h.id != g.id).any fun h =>
    h.slot == g.slot && (h.left.map Prod.fst ++ h.got.map Prod.fst).any fun o => h.lineOf s t o == g.lineOf s t off

/-- A piece's event: it is read from its source, or what was read is written to its destination (R243). -/
inductive PieceStep where
  | read (off n : Nat)
  | write (off : Nat) (data : List Byte)
deriving DecidableEq, Repr

/-- The piece events of an operation that may come now; on a tile that stops only what has been read is written (R245). -/
def readyPieces (s : State) (t : Nat) (g : NetOp) : List PieceStep :=
  (if (s.tile t).stopped then [] else g.left.map fun p => .read p.1 p.2) ++
    (g.got.filter fun p => !lineAhead s t g p.1 && !engBlocked s t (g.ends p.1).2 p.2.length).map fun p => .write p.1 p.2

/-- The tile whose semaphore SEM names (R242). -/
def NetOp.semTile (s : State) (t : Nat) (g : NetOp) : Nat :=
  if g.get then t
  else
    match classify g.far with
    | .ok (.global _) => t
    | .ok p => ((s.poolTarget t p).map Prod.fst).getD t
    | .error _ => t

/-- Change an operation under way. -/
def Tile.setOp (x : Tile) (g : NetOp) : Tile := { x with gets := x.gets.map fun h => if h.id = g.id then g else h }

/-- The tile whose pool takes the piece at an offset; none: it goes to memory. -/
def pieceTile (s : State) (t : Nat) (g : NetOp) (off : Nat) : Option Nat :=
  match classify (g.ends off).2 with
  | .ok (.global _) => none
  | .ok p => (s.poolTarget t p).map Prod.fst
  | .error _ => none

/-- A piece counts as sent when it has been read, as received when it is written; one that goes to memory as both then
(R361; DEDUCED, log entry 74). -/
def State.pieceSent (s : State) (t : Nat) (g : NetOp) (off : Nat) : State :=
  if (pieceTile s t g off).isSome then s.countSent t else s

def State.pieceRcvd (s : State) (t : Nat) (g : NetOp) (off : Nat) : State :=
  match pieceTile s t g off with
  | some u => s.countRcvd u
  | none => (s.countSent t).countRcvd t

/-- The last piece is written: SEM is signalled (R243, R244). -/
def finishMove (s : State) (t : Nat) (g : NetOp) : State :=
  let x := s.tile t
  (s.setTile t { x with gets := x.gets.filter fun h => h.id != g.id }).semAdd (g.semTile s t) g.sem g.inc false

/-- A fault suspends the operation at its piece (R245). -/
def suspendMove (s : State) (t : Nat) (g : NetOp) (f : EngFault) (access : Nat) : State :=
  ((s.forget g.id).setTile t ((s.tile t).setOp { g with suspended := true })).report t g.slot g.id f.cause (f.info access)

/-- A piece is read as one event; with a put's last, LSEM is signalled (R243). -/
def pieceRead (s : State) (t : Nat) (g : NetOp) (off n : Nat) : State :=
  match engRead 3 s t g.id (g.ends off).1 n with
  | .wait s => s
  | .fault f s => suspendMove s t g f 0
  | .ok bs s =>
    let g := { g with left := g.left.filter fun q => q.1 != off, got := g.got ++ [(off, bs)] }
    let s := ((s.forget g.id).setTile t ((s.tile t).setOp g)).pieceSent t g off
    if g.left.isEmpty && !g.get then s.semAdd t g.lsem 1 false else s

/-- What was read is written as one event; the last piece completes the operation (R243). -/
def pieceWrite (s : State) (t : Nat) (g : NetOp) (off : Nat) (bs : List Byte) : State :=
  match engWrite 3 s t g.id (g.ends off).2 bs with
  | .wait s => s
  | .fault f s => suspendMove s t g f 1
  | .ok _ s =>
    let g := { g with got := g.got.filter fun q => q.1 != off }
    let s := (s.forget g.id).pieceRcvd t g off
    if g.left.isEmpty && g.got.isEmpty then finishMove s t g else s.setTile t ((s.tile t).setOp g)

/-- NET_PIECE: an event of a piece of the put or get with identity i, in no fixed order (R243, R245). -/
def execNetPiece (t i : Nat) (s : State) : Out :=
  match (s.tile t).gets.find? fun g => g.id == i with
  | none => .next s
  | some g =>
    if g.suspended || !s.performed g.after then .next s
    else
      let ready := readyPieces s t g
      match ready[s.choice ready.length]? with
      | some (.read off n) => .next (pieceRead s.tick t g off n)
      | some (.write off bs) => .next (pieceWrite s.tick t g off bs)
      | none => .next s

/-! ## Messages (R246 to R249) -/

/-- An uncorrectable error in the n bytes a send reads (R380). -/
def lineBad (s : State) (off n : Nat) : Option (Nat × Word) :=
  if (hasBad s.here.poolBad off n).isSome then some (0x31, sinfo78 0 0 5 (BitVec.ofNat 64 off)) else none

/-- net.send: the line is read now; the message enters once what came before it has been performed (R246). -/
def execNetSend (v : Word) (s : State) : Out :=
  let (t, k) := s.cur
  let a := netA s
  let off := v.bits 19 0
  if a.bits 63 16 ≠ 0 then s.trapA 0x1E7 v 0x0F (sinfo78 1 0 5 a)
  else if off % 64 ≠ 0 then s.trapA 0x1E7 v 0x0E (sinfo78 0 0 5 (ownAddr off))
  else
    match s.physical t (a.bits 15 0) with
    | none => s.trapA 0x1E7 v 0x0F (sinfo78 2 0 5 a)
    | some u =>
      match lineCheck s off with
      | some e => netTrap s 0x1E7 v e
      | none =>
        match lineBad s off 64 with
        | some e => netTrap (s.poolLog t off) 0x1E7 v e
        | none =>
          let m : InMsg := { data := s.poolRead t off 64, kind := 0, slot := k, src := s.here.ltile }
          .next (((s.poolScrub t off 64).send t k u (.msg m) (s.earlier t k 4)).countSent t)

/-- MESSAGE_ARRIVE: the message enters the inbox when there is room (R246, R247). -/
def execMessageArrive (p : Nat) (s : State) : Out :=
  match s.packet p with
  | none => .next s
  | some q =>
    match q.body with
    | .msg m =>
      let x := s.tile q.dst
      if !s.performed q.after || s.routeAhead q || decide (64 ≤ x.inbox.length) then .next s
      else .next (((s.drop p).setTile q.dst { x with inbox := x.inbox ++ [m] }).countRcvd q.dst)
    | _ => .next s

/-- The sideband word (R249). -/
def sideband (m : InMsg) (count : Nat) : Word :=
  BitVec.ofNat 64 (2 ^ 63 + m.kind % 16 * 2 ^ 48 + m.slot % 16 * 2 ^ 32 + count % 256 * 2 ^ 16 + m.src % 65536)

/-- The inbox moves up by one entry, and the errors of its cells with it. -/
def upInbox (l : ScrubLoc) : Option ScrubLoc :=
  match l with
  | .inbox _ 0 => none
  | .inbox t (i + 1) => some (.inbox t i)
  | l => some l

def Tile.popCells (x : Tile) : Tile := { x with cellBad := x.cellBad.filterMap upInbox, cellWeak := x.cellWeak.filterMap upInbox }

/-- The head entry of the inbox cannot be read: trap 0x31 (R379; log entry 61). -/
def headBad (s : State) : Option (Nat × Word) :=
  if !s.here.inbox.isEmpty && s.here.isBad (.inbox s.cur.1 0) then
    some (0x31, sinfo78 0 0 5 (BitVec.ofNat 64 s.openOff))
  else none

/-- Dequeue the head entry into the line at an offset (R248). -/
def dequeue (s : State) (off : Nat) : State :=
  let x := s.here
  match x.inbox with
  | [] => s
  | m :: r =>
    let s := s.cellFix s.cur.1 (.inbox s.cur.1 0)
    let s := (s.setHere { s.here.popCells with inbox := r }).poolWrite s.cur.1 off m.data
    s.resultLocked .net (sideband m r.length) 2

/-- Another strand of the tile is held in net.recv, and first attempted earlier (R248). -/
def recvAhead (s : State) : Bool :=
  let mine := (s.me.hold.map Hold.seq).getD s.nextId
  s.here.strands.any fun e => e.1 != s.cur.2 && e.2.status == .live &&
    match e.2.hold with
    | some h => h.recv && decide (h.seq < mine)
    | none => false

/-- What stops a net.recv before its word has any effect: a handler (orders 6, 8, then 9 of R241), or an error of the entry
it is to read. -/
def recvCheck (s : State) (v : Word) : Option (Nat × Word) :=
  if (lineCheck s (v.bits 19 0)).isSome then none
  else if s.me.hnd then some (0x0A, sinfoOp 0 0x1E8)
  else if recvAhead s then none
  else headBad s

/-- A net.recv is held: the inbox is empty or an earlier recv waits (R248). -/
def recvHeld (s : State) (v : Word) : Bool :=
  (lineCheck s (v.bits 19 0)).isNone && (s.here.inbox.isEmpty || recvAhead s)

def execNetRecv (v : Word) (s : State) : Out :=
  match lineCheck s (v.bits 19 0) with
  | some e => netTrap s 0x1E8 v e
  | none =>
    match recvCheck s v with
    | some (c, i) => .next (trapP s s.cur.1 s.cur.2 c i)
    | none => .next (dequeue s (v.bits 19 0))

/-- tryrecv finds the inbox empty while a recv is held on the tile (R248). -/
def execNetTryrecv (v : Word) (s : State) : Out :=
  match lineCheck s (v.bits 19 0) with
  | some e => netTrap s 0x1E9 v e
  | none =>
    let waits := s.here.strands.any fun e => e.1 != s.cur.2 && e.2.status == .live && (e.2.hold.map Hold.recv).getD false
    if waits || s.here.inbox.isEmpty then .next (s.resultLocked .net 0 2)
    else
      match headBad s with
      | some e => netTrap (s.poolLog s.cur.1 s.openOff).tick 0x1E9 v e
      | none => .next (dequeue s (v.bits 19 0))

/-! ## Migration (R251 to R255) -/

/-- The checks of net.go after the word (R241, R252). -/
def goCheck (s : State) (v : Word) : Option (Nat × Word) :=
  let st := s.me
  ((netClass v).or (netShape s v)).or
    (if s.cur.2 = 0 then some (0x26, sinfoOp 4 0x1ED)
     else if (classify v).toOption matches some (.global _) then some (0x26, sinfoOp 5 0x1ED)
     else if st.wgo then some (0x26, sinfoOp 6 0x1ED)
     else if 4 < st.ret.length ∨ 0 < st.sdepth then some (0x0C, Config.openWord s.oracle)
     else none)

/-- net.go: the strand leaves after its word (R251, R253); the issue that carries it completes the departure. -/
def execNetGo (v : Word) (s : State) : Out :=
  match goCheck s v with
  | some e => netTrap s.tick 0x1ED v e
  | none => .next (s.setMe { s.me with going := some v })

/-- The packet of a strand (R254). -/
def packetOf (s : State) (t k : Nat) : MigPkt :=
  let st := s.strand t k
  { regs := (List.range 10).map fun i => Map.find 0 st.regs i, pw := st.pw ||| 1, pc := st.pc, mode := st.mode,
    ret := st.ret, fmt := st.fmt, src := (s.tile t).ltile, slot := k, tbank := st.tbank, lid := s.lidOf t }

/-- The 128 bytes of a packet (R254). -/
def MigPkt.bytes (m : MigPkt) : List Byte :=
  ((List.range 10).flatMap fun i => leBytes (m.regs.getD i 0).toNat 8) ++ leBytes (m.pw ||| 1).toNat 1 ++ leBytes m.pc.toNat 3
    ++ leBytes m.mode.toNat 3 ++ leBytes m.ret.length 1 ++ leBytes m.fmt.toNat 2
    ++ ((List.range 4).flatMap fun i => leBytes (m.ret.getD i 0).toNat 3) ++ leBytes m.src 2 ++ leBytes m.slot 1
    ++ leBytes m.tbank.toNat 1 ++ zeros 2 ++ leBytes m.lid.toNat 8 ++ zeros 12

/-- The strand's expansion gives up the fpa. -/
def State.freeFpa (s : State) (t k : Nat) : State :=
  let x := s.tile t
  s.setTile t { x with fpaOwner := if x.fpaOwner = some k then none else x.fpaOwner }

/-- The strand departs for the tile that owns v: its own tile releases it in place, another is offered its packet
(R253, R255). -/
def depart (s : State) (t k : Nat) (v : Word) : State :=
  let target := match classify v with
    | .ok p => ((s.poolTarget t p).map Prod.fst).getD t
    | .error _ => t
  let st := s.strand t k
  let s := s.setStrand t k { st with going := none }
  if target = t then
    let s := (s.releaseStrand t k).freeFpa t k
    let st := s.strand t k
    s.setStrand t k { st with
      user := { Bank.reset with clock := st.user.clock }, trap := { Bank.reset with clock := st.trap.clock }
      latched := [], latchedT := [], latchedDue := false, exp := none, savedExp := none, sstat := setBit16 st.sstat 5 false }
  else
    let m := packetOf s t k
    (s.setStrand t k { (s.strand t k) with block := some (.going v) }).send t k target (.migrate m) (s.earlier t k 4)

/-- The target runs the issuer's launch, and its control strand's halt has not proceeded (R253, R312). -/
def sameLaunch (s : State) (t u : Nat) : Bool :=
  let c := s.strand u 0
  (s.tile u).loaded && !(s.tile u).done && !c.ending && !c.savedEnding && (s.tile u).launch == (s.tile t).launch

/-- MIGRATION_ARRIVE: the target refuses the packet, accepts it into a slot or its arrival queue, or leaves it to be
offered again (R253). -/
def execMigrationArrive (p : Nat) (s : State) : Out :=
  match s.packet p with
  | none => .next s
  | some q =>
    match q.body with
    | .migrate m =>
      if !s.performed q.after || s.routeAhead q then .next s
      else if !sameLaunch s q.src q.dst then
        .next { s with flight := s.flight.map fun r =>
          if r.id = p then { r with src := q.dst, dst := q.src, body := .refused } else r }
      else if 8 ≤ (s.tile q.dst).arrq.length ∧ (s.freeSlots q.dst).isEmpty then .next s
      else
        let s := ((s.drop p).releaseStrand q.src q.slot).freeFpa q.src q.slot
        let s := s.setStrand q.src q.slot { Strand.reset with scSeq := (s.strand q.src q.slot).scSeq }
        let s := enter36 (s.tile q.src).wait36.length s q.src
        let x := s.tile q.dst
        .next (((s.setTile q.dst { x with arrq := x.arrq ++ [m] }).settleSlots q.dst).settleSlots q.src)
    | _ => .next s

/-- MIGRATION_REFUSED: the strand resumes at the source with trap 0x0B before its next issue (R253). -/
def execMigrationRefused (p : Nat) (s : State) : Out :=
  match s.packet p with
  | none => .next s
  | some q =>
    match q.body with
    | .refused =>
      let s := s.drop p
      let st := s.strand q.dst q.slot
      match st.block with
      | some (.going v) =>
        .next (s.setStrand q.dst q.slot ({ st with block := none }.addLatched
          { op := { port := 0x1ED, v := v, g := true, chop := 0 }, cause := 0x0B, info := Config.openWord s.oracle
            wgo := false })).tick
      | _ => .next s
    | _ => .next s

/-! ## Interrupts between tiles (R256, R352) -/

/-- net.ipi. -/
def execNetIpi (v : Word) (s : State) : Out :=
  let (t, k) := s.cur
  match s.physical t (v.bits 15 0) with
  | none => s.trapA 0x1EF v 0x0F (sinfo78 2 0 5 v)
  | some u =>
    let info := BitVec.ofNat 64 (k * 2 ^ 48 + s.here.ltile % 65536 * 2 ^ 32 + (netA s).bits 31 0)
    .next ((s.send t k u (.ipi (v.bits 19 16) info) []).countSent t)

/-- IPI_ARRIVE: the interrupt reaches its tile, and enters its slot's queue in order (R352). -/
def execIpiArrive (p : Nat) (s : State) : Out :=
  match s.packet p with
  | none => .next s
  | some q =>
    match q.body with
    | .ipi k info =>
      if s.routeAhead q then .next s
      else .next ((s.drop p).irq36 q.dst { slot := k, info := info, id := p, src := q.src, from_ := q.slot })
    | _ => .next s

/-! ## Barriers (R338 to R342) -/

def Bar.reset : Bar := { ph := 0, acnt := 0, tpart := 0, cont := false, reports := [], after := [], delayed := none }

def Tile.bar (x : Tile) (b : Nat) : Bar := Map.find Bar.reset x.bars b

def Tile.setBar (x : Tile) (b : Nat) (v : Bar) : Tile := { x with bars := Map.set x.bars b v }

/-- SINFO of trap 0x24 (R341). -/
def barInfo (reason bar port : Nat) : Word := BitVec.ofNat 64 (reason * 2 ^ 56 + bar * 2 ^ 16 + port)

/-- What stops a barrier operation before its word has any effect (R341). -/
def barCheck (s : State) (port : Nat) : Option (Nat × Word) :=
  let c := netC s
  let b := c.bits 3 0
  if c.bits 63 12 ≠ 0 ∨ c.bits 7 4 ≠ 0 ∨ (port != 0x1EA && c.bits 11 8 != 0) then some (0x26, sinfoOp 11 port)
  else if port = 0x1EB ∧ s.me.hnd then some (0x0A, sinfoOp 0 port)
  else if port = 0x1EA ∧ (s.me.bars.any fun e => e.1 == b) then some (0x24, barInfo 0 b port)
  else if port = 0x1EA ∧ (s.here.bar b).cont then some (0x24, barInfo 1 b port)
  else none

/-- A barrier operation whose checks are made before its word. -/
def barOp (port : Nat) (f : State → State) (s : State) : Out :=
  match barCheck s port with
  | some (c, i) => .next (trapP s s.cur.1 s.cur.2 c i)
  | none => .next (f s)

/-- net.arrive: the token, and the contribution once the tile's count is reached, on its way to the tile's own router
when what came before its arrivals has been performed (R339, R342). -/
def arrive (s : State) : State :=
  let (t, k) := s.cur
  let b := (netC s).bits 3 0
  let x := s.here
  let q := x.bar b
  let parties := if q.acnt = 0 then (netC s).bits 11 8 + 1 else q.tpart
  let ids := (if q.acnt = 0 then [] else q.after) ++ s.earlier t k 4
  let full := q.acnt + 1 = parties
  let q' := { q with tpart := parties, acnt := q.acnt + 1, cont := full, after := ids }
  let st := s.me
  let s := s.setHere ((x.setBar b q').setStrand k { st with bars := (b, q.ph.toNat) :: st.bars })
  let s := s.resultLocked .net (q.ph.zeroExtend 64) 2
  let s := if full then s.send t 16 t (.barReport b x.ltile) ids else s
  s.renegotiate

def execNetArrive (_v : Word) (s : State) : Out := barOp 0x1EA arrive s

/-- The distance of the phase from a token (R340). -/
def phaseDist (s : State) (v : Word) : Nat :=
  ((s.here.bar ((netC s).bits 3 0)).ph.toNat + 65536 - v.bits 15 0) % 65536

/-- A net.barwait is held: its token's phase is not yet released. -/
def barHeld (s : State) (v : Word) : Bool := (barCheck s 0x1EB).isNone && phaseDist s v == 0

/-- The wait when its word proceeds: 0 after a hold, 1 one phase ago, 2 stale (R340). -/
def barwait (v : Word) (s : State) : State :=
  let d := phaseDist s v
  let held := (s.me.hold.map Hold.bar).getD false
  s.resultLocked .net (if held || d == 0 then 0 else if d = 1 then 1 else 2) 2

def execNetBarwait (v : Word) (s : State) : Out := barOp 0x1EB (barwait v) s

/-- The test without waiting (R340). -/
def trybarwait (v : Word) (s : State) : State :=
  let d := phaseDist s v
  s.resultLocked .net (if d = 0 then 3 else if d = 1 then 1 else 2) 2

def execNetTrybarwait (v : Word) (s : State) : Out := barOp 0x1EC (trybarwait v) s

/-- The logical tile a router reports to; none: the root (R338). -/
def barParent (x lt : Nat) : Option Nat :=
  if lt % x ≠ 0 then some (lt - 1) else if lt ≠ 0 then some (lt - x) else none

/-- The logical tiles that report to a router (R338). -/
def barChildren (x y lt : Nat) : List Nat :=
  (if lt % x + 1 < x then [lt + 1] else []) ++ (if lt % x = 0 ∧ lt / x + 1 < y then [lt + x] else [])

/-- PHREL of the partition a tile runs in (R375). -/
def State.phrelOf (s : State) (t : Nat) : Word := (s.part (s.partOf t)).phrel

/-- A router whose tile and children have all reported reports on, or at the root releases (R338). -/
def barTry (s : State) (t b : Nat) : State :=
  let x := s.tile t
  let (w, h) := s.shape t
  let q := x.bar b
  if w = 0 then s
  else if ((x.ltile :: barChildren w h x.ltile).all fun i => q.reports.contains i) then
    let s := s.setTile t (x.setBar b { q with reports := [] })
    match barParent w x.ltile with
    | some lt =>
      match s.physical t lt with
      | some u => s.send t 16 u (.barReport b x.ltile) []
      | none => s
    | none => s.send t 16 t (.barRelease b s.time (s.phrelOf t)) []
  else s

/-- BARRIER_REPORT: a report reaches a router (R338). -/
def execBarrierReport (p : Nat) (s : State) : Out :=
  match s.packet p with
  | none => .next s
  | some q =>
    match q.body with
    | .barReport b child =>
      if !s.performed q.after then .next s
      else
        let s := s.drop p
        let x := s.tile q.dst
        let v := x.bar b
        .next (barTry (s.setTile q.dst (x.setBar b { v with reports := child :: v.reports })) q.dst b)
    | _ => .next s

/-- A release at its own tile: the phase advances, every open arrival closes, and a completed tile contributes to the
next phase (R338). -/
def barPerform (s : State) (t b : Nat) : State :=
  let x := s.tile t
  let v := x.bar b
  let x := x.setBar b { v with ph := v.ph + 1, acnt := 0, cont := false, after := [], delayed := none }
  let x := { x with strands := x.strands.map fun e => (e.1, { e.2 with bars := e.2.bars.filter fun a => a.1 != b }) }
  let s := s.setTile t x
  if x.done then s.send t 16 t (.barReport b x.ltile) [] else s

/-- When a release stamped at a time is performed at a tile (R375). -/
def releaseAt (t stamp : Nat) (phrel : Word) : Nat :=
  if phrel.bit 0 then stamp + phrel.bits 31 16 + phrel.bits 15 8 * colOf t else 0

/-- BARRIER_RELEASE: the release is forwarded to the children and performed here, at once or when PHREL allows. -/
def execBarrierRelease (p : Nat) (s : State) : Out :=
  match s.packet p with
  | none => .next s
  | some q =>
    match q.body with
    | .barRelease b stamp phrel =>
      let t := q.dst
      let s := s.drop p
      let x := s.tile t
      let (w, h) := s.shape t
      let s := (barChildren w h x.ltile).foldl (fun s lt => match s.physical t lt with
        | some u => s.send t 16 u (.barRelease b stamp phrel) []
        | none => s) s
      let at' := releaseAt t stamp phrel
      if at' ≤ s.time then .next (barPerform s t b)
      else
        let x := s.tile t
        .next (s.setTile t (x.setBar b { (x.bar b) with delayed := some at' }))
    | _ => .next s

/-- BARRIER_RELEASE_DELAYED: the time of a release held back has come (R375). -/
def execBarrierReleaseDelayed (t b : Nat) (s : State) : Out :=
  match ((s.tile t).bar b).delayed with
  | some d => if d ≤ s.time then .next (barPerform s t b) else .next s
  | none => .next s

end Sys2Proof.Machine
end

