-- ==== Sys2Proof/Machine/Stream.lean ====
section
/-! DEFINITION. Channels and stream entries (R257 to R285): lines, the five operations of net.chsend, the receive side of a
channel, the merge rule, and the frames of the scale-up fabric. -/
namespace Sys2Proof.Machine

/-! ## Lines (R257 to R262) -/

/-- The exclusive or of a list of bytes. -/
def xorBytes (bs : List Byte) : Byte := bs.foldl (fun a b => a ^^^ b) 0

/-- The 64 bytes of a line: payload, then the flag word with its check byte (R258, R260); flag has [7:0] zero. -/
def lineBytes (payload : List Byte) (flag : Nat) : List Byte :=
  let p := (payload ++ zeros 56).take 56
  let f := (leBytes flag 8).drop 1
  p ++ [xorBytes (p ++ f)] ++ f

/-- Sparse capacity of a value format (R262). -/
def sparseCap (vf : Nat) : Nat := if vf ≤ 1 then 7 else if vf = 2 then 9 else 11

/-- Bytes of a value in a sparse line (R261). -/
def sparseWidth (vf : Nat) : Nat := if vf ≤ 1 then 4 else if vf = 2 then 2 else 1

/-- The narrow float format of a value format. -/
def streamFmt (vf : Nat) : FFmt := if vf = 2 then bf16 else if vf = 3 then e4m3 else if vf = 4 then e5m2 else fp32

/-- A value in the accumulation type: an INT32 or FP32 code (R262, R278). -/
def accCode (vf c : Nat) : Nat :=
  if vf = 1 then c % 2 ^ 32
  else (fp32.convert .rne false ((streamFmt vf).decode (c % 2 ^ (8 * sparseWidth vf)))).code

/-- Terminators (R257). -/
def isTerm (kind : Nat) : Bool := kind == 3 || kind == 4

/-! ## Channels: state and checks -/

def Chan.reset : Chan :=
  { base := 0, depth := 0, lines := 1, rsem := 0xFF, src := 0xFFFF, peer := 0xFFFF, pch := 0, ssem := 0xFF, pdepth := 0,
    plines := 1, seqS := 0, lineS := 0, cred := 0, rseq := 0, rline := 0, done := 0, resync := false, errs := [] }

def Ent.reset : Ent :=
  { nsets := 0, vfmt := 0, k := 6, f := 0, dch := 0xFF, esem := 0xFF, ins := [], outs := [], uport := 0xFF, udev := 0,
    utile := 0, uent := 0, set := 0, bufs := [], taken := [], prev := [], span := [], part := [], flags := 0,
    discard := [], out := [] }

def Tile.chan (x : Tile) (c : Nat) : Chan := Map.find Chan.reset x.chans c
def Tile.setChan (x : Tile) (c : Nat) (v : Chan) : Tile := { x with chans := Map.set x.chans c v }
def Tile.ent (x : Tile) (e : Nat) : Ent := Map.find Ent.reset x.ents e
def Tile.setEnt (x : Tile) (e : Nat) (v : Ent) : Tile := { x with ents := Map.set x.ents e v }

/-- The fields of net.c (R264). -/
def opOf (c : Word) : Nat := c.bits 2 0
def numOf (c : Word) : Nat := c.bits 15 8
def kindOf (c : Word) : Nat := c.bits 19 16
def cntOf (c : Word) : Nat := c.bits 23 20

/-- SINFO of traps 0x21 to 0x23 (R265). -/
def streamInfo (reason tile ent ch : Nat) : Nat := reason * 2 ^ 56 + tile % 65536 * 2 ^ 40 + ent * 2 ^ 32 + ch * 2 ^ 24

/-- A line that a SEND may not send (order 3 of R265). -/
def sendBad (kind cnt : Nat) (p : List Byte) : Bool :=
  match kind with
  | 0 => cnt != 0
  | 1 => decide (cnt < 1 ∨ 11 < cnt)
  | 2 => decide (cnt < 1 ∨ 13 < cnt) || decide (2 ^ 32 ≤ fld p 0 4 + cnt - 1)
  | 3 | 4 => cnt != 0 || p.any fun b => b != 0
  | _ => true

/-- A logical tile of the shape, or 0xFFFF. -/
def tileOrNone (s : State) (lt : Nat) : Bool := lt == 0xFFFF || (s.physical s.cur.1 lt).isSome

/-- A configuration line of CHCONF lies outside its ranges (R270). -/
def chconfBad (s : State) (l : List Byte) : Bool :=
  let depth := fld l 4 2
  !(fld l 0 4 % 64 == 0 && decide (fld l 0 4 < 2 ^ 20) && (depth == 0 || decide (2 ≤ depth ∧ depth ≤ 256))
    && decide (1 ≤ fld l 6 1 ∧ fld l 6 1 ≤ 16) && tileOrNone s (fld l 8 2) && tileOrNone s (fld l 10 2)
    && decide (fld l 12 1 ≤ 63) && decide (2 ≤ fld l 14 2 ∧ fld l 14 2 ≤ 256)
    && decide (1 ≤ fld l 16 1 ∧ fld l 16 1 ≤ 16) && (l.drop 17).all fun b => b == 0)

/-- The ring leaves the partitions it may use (R270). -/
def ringBad (s : State) (l : List Byte) : Bool :=
  let base := fld l 0 4
  fld l 4 2 != 0 && (region s.here.partword base == .register || decide (2 ^ 20 < base + 64 * fld l 4 2 * fld l 6 1))

/-- A configuration line of STCONF lies outside its ranges (R275). -/
def stconfBad (l : List Byte) : Bool :=
  let ns := fld l 0 1
  let masks := (List.range 4).map fun i => (decide (i < ns), fld l (8 + 2 * i) 1, fld l (9 + 2 * i) 1)
  let noU := fld l 16 1 == 0xFF
  !(decide (ns ≤ 4) && decide (fld l 1 1 ≤ 4) && decide (6 ≤ fld l 2 1 ∧ fld l 2 1 ≤ 16) && decide (fld l 3 1 ≤ 16)
    && (decide (fld l 4 1 ≤ 63) || fld l 4 1 == 0xFF) && (decide (fld l 16 1 ≤ 71) || noU)
    && decide (fld l 18 2 ≤ 1023) && decide (fld l 22 1 ≤ 63) && fld l 6 2 == 0 && fld l 17 1 == 0
    && ((l.drop 23).all fun b => b == 0))
    || masks.any fun (u, i, o) =>
      decide (63 < i ∨ 63 < o) || u != (i != 0) || u != (o != 0) || (noU && (decide (32 ≤ i) || decide (32 ≤ o)))
        || (o % 2 == 1 && fld l 4 1 == 0xFF)

/-- The checks of R265 in order, for the operation of net.c with trigger value v. -/
def chCheck (s : State) (v : Word) : Option (Nat × Word) :=
  let c := netC s
  let op := opOf c
  let num := numOf c
  let off := v.bits 19 0
  let t := s.cur.1
  let x := s.here
  let bad26 (r : Nat) : Option (Nat × Word) := some (0x26, sinfoOp r 0x1EE)
  let ch := x.chan num
  if c.bits 63 24 ≠ 0 ∨ c.bits 7 4 ≠ 0 ∨ 4 < op ∨ (op ≠ 0 ∧ (c.bits 23 16 ≠ 0 ∨ c.bit 3)) then bad26 7
  else if 63 < num then bad26 8
  else if op = 0 ∧ sendBad (kindOf c) (cntOf c) (s.poolRead t off 56) then
    some (0x22, BitVec.ofNat 64 (streamInfo 0 x.ltile (if c.bit 3 then num else 0) (if c.bit 3 then 0 else num) + 0x1EE))
  else
    let line := op = 0 ∨ op = 2 ∨ op = 3
    if line ∧ (lineCheck s off).isSome then lineCheck s off
    else if line ∧ (lineBad s off (if op = 0 then 56 else 64)).isSome then lineBad s off (if op = 0 then 56 else 64)
    else if op = 0 ∧ !c.bit 3 ∧ ch.peer = 0xFFFF then bad26 9
    else if op = 1 ∧ (v.toNat = 0 ∨ 256 < v.toNat ∨ ch.done < v.toNat) then bad26 9
    else
      let l := s.poolRead t off 64
      if op = 2 ∧ chconfBad s l then bad26 10
      else if op = 2 ∧ ringBad s l then some (0x0F, sinfo78 3 0 5 (ownAddr (fld l 0 4)))
      else if op = 3 ∧ stconfBad l then bad26 10
      else if op = 1 ∨ op = 2 ∨ op = 4 then
        match ch.errs with
        | (cause, info) :: _ => some (cause, info + 0x1EE)
        | [] => none
      else none

/-- A failed check: a pending channel error that is taken clears (R265). -/
def chFail (s : State) (v : Word) (e : Nat × Word) : Out :=
  let c := netC s
  let x := s.here
  let ch := x.chan (numOf c)
  let op := opOf c
  let s := if e.1 = 0x31 then s.poolLog s.cur.1 (v.bits 19 0) else s
  let s := if 0x21 ≤ e.1 ∧ e.1 ≤ 0x23 ∧ op ≠ 0 then
      s.setHere (x.setChan (numOf c) { ch with errs := Map.erase ch.errs e.1 }) else s
  netTrap s 0x1EE v e

/-- Lines that stand in, or are on their way to, an input of an entry: its credits (R277). -/
def inputUse (s : State) (t e port : Nat) : Nat :=
  (Map.find [] ((s.tile t).ent e).bufs port).length
    + (s.flight.filter fun p => p.dst == t && match p.body with
        | .stLine f q _ => f == e && q == port
        | _ => false).length

/-- An input of an entry has room for one more line. -/
def inputRoom (s : State) (t e port : Nat) : Bool := decide (inputUse s t e port < 16)

/-- An entry is idle (R277); one that has still to discard a faulty segment is not (R279). -/
def entIdle (en : Ent) : Bool :=
  en.nsets == 0 || (en.set == 0 && (en.bufs.all fun b => b.2.isEmpty) && en.out.isEmpty && en.span.isEmpty && en.part.isEmpty
    && en.discard.isEmpty && en.flags / 4 % 4 == 0)

/-- The lines that the strand has sent on channel n of its tile and that are still on their way (R270). -/
def linesOut (s : State) (t k n : Nat) : Bool :=
  s.flight.any fun p => p.src == t && p.slot == k && match p.body with
    | .chLine _ _ _ _ num _ => num == n
    | _ => false

/-- A net.chsend that passes its checks is held (R240, R266, R270, R277). -/
def chHeld (s : State) (v : Word) : Bool :=
  let c := netC s
  let (t, k) := s.cur
  let ch := s.here.chan (numOf c)
  if (chCheck s v).isSome then false
  else
    match opOf c with
    | 0 => decide (8 ≤ s.sends t k)
        || (if c.bit 3 then !inputRoom s t (numOf c) 0 else ch.lineS == 0 && ch.cred == 0)
    | 1 => decide (8 ≤ s.sends t k)
    | 2 => linesOut s t k (numOf c)
    | 3 => !entIdle (s.here.ent (numOf c))
    | _ => false

/-! ## The operations (R266 to R268, R270, R275) -/

/-- An operation of net.chsend after its checks. -/
def chOp (f : Word → State → State) (v : Word) (s : State) : Out :=
  match chCheck s v with
  | some e => chFail s v e
  | none => .next (f v s)

/-- SEND (R266). -/
def sendLine (v : Word) (s : State) : State :=
  let c := netC s
  let (t, k) := s.cur
  let off := v.bits 19 0
  let l : Line := { data := s.poolRead t off 56, kind := kindOf c, cnt := cntOf c, fmt := 0, loc := true }
  let after := s.earlier t k 4
  let s := s.poolScrub t off 56
  let n := numOf c
  if c.bit 3 then s.send t k t (.stLine n 0 l) after
  else
    let x := s.here
    let ch := x.chan n
    let last := isTerm l.kind || decide (ch.plines ≤ ch.lineS + 1)
    let ch' := { ch with
      cred := if ch.lineS = 0 then ch.cred - 1 else ch.cred
      seqS := if last then (ch.seqS + 1) % 2 ^ 32 else ch.seqS
      lineS := if last then 0 else ch.lineS + 1 }
    let u := (s.physical t ch.peer).getD t
    (s.setHere (x.setChan n ch')).send t k u (.chLine ch.pch ch.seqS ch.lineS l n ch.pdepth) after

def execChSend (v : Word) (s : State) : Out := chOp sendLine v s

/-- FREE (R267). -/
def freeChunks (v : Word) (s : State) : State :=
  let (t, k) := s.cur
  let n := numOf (netC s)
  let x := s.here
  let ch := x.chan n
  let after := s.earlier t k 4
  let s := s.setHere (x.setChan n { ch with done := ch.done - v.toNat })
  s.send t k (if ch.src = 0xFFFF then t else (s.physical t ch.src).getD t) (.credit n v.toNat (ch.src == 0xFFFF)) after

def execChFree (v : Word) (s : State) : Out := chOp freeChunks v s

/-- CHCONF (R270). -/
def configChan (v : Word) (s : State) : State :=
  let t := s.cur.1
  let n := numOf (netC s)
  let l := s.poolRead t (v.bits 19 0) 64
  let s := s.poolScrub t (v.bits 19 0) 64
  let x := s.here
  s.setHere (x.setChan n
    { (x.chan n) with
      base := fld l 0 4, depth := fld l 4 2, lines := fld l 6 1, rsem := fld l 7 1, src := fld l 8 2, peer := fld l 10 2
      pch := fld l 12 1, ssem := fld l 13 1, pdepth := fld l 14 2, plines := fld l 16 1
      seqS := 0, lineS := 0, cred := fld l 14 2, rseq := 0, rline := 0, done := 0, resync := false })

def execChConf (v : Word) (s : State) : Out := chOp configChan v s

/-- The records an entry reserves of the merge store (R277). -/
def reserved (ns k f : Nat) : Nat := if ns = 0 ∨ 16 ≤ f then 0 else f * 2 ^ k / 16 + 1

/-- STCONF: status 1 when the reservation does not fit, else the entry is configured (R275, R277). -/
def configEnt (v : Word) (s : State) : State :=
  let t := s.cur.1
  let n := numOf (netC s)
  let l := s.poolRead t (v.bits 19 0) 64
  let s := s.poolScrub t (v.bits 19 0) 64
  let x := s.here
  let ns := fld l 0 1
  let used := ((x.ents.filter fun e => e.1 != n).map fun e => reserved e.2.nsets e.2.k e.2.f).sum
  if 8192 < used + reserved ns (fld l 2 1) (fld l 3 1) then s.resultLocked .net 1 2
  else
    let en : Ent :=
      { nsets := ns, vfmt := fld l 1 1, k := fld l 2 1, f := fld l 3 1, dch := fld l 4 1, esem := fld l 5 1
        ins := (List.range ns).map fun i => fld l (8 + 2 * i) 1, outs := (List.range ns).map fun i => fld l (9 + 2 * i) 1
        uport := fld l 16 1, udev := fld l 18 2, utile := fld l 20 2, uent := fld l 22 1, set := 0
        bufs := (x.ent n).bufs, taken := [], prev := [], span := [], part := [], flags := 0, discard := [], out := [] }
    (s.setHere (x.setEnt n en)).resultLocked .net 0 2

def execStConf (v : Word) (s : State) : Out := chOp configEnt v s

/-- QUERY (R268). -/
def queryChan (_v : Word) (s : State) : State :=
  let ch := s.here.chan (numOf (netC s))
  s.resultLocked .net
    (BitVec.ofNat 64 (ch.rseq * 2 ^ 32 + ch.cred % 512 * 2 ^ 23 + ch.done % 512 * 2 ^ 14 + ch.rline % 16)) 2

def execChQuery (v : Word) (s : State) : Out := chOp queryChan v s

/-! ## The receive side (R271, R273) -/

/-- Note a channel error: each cause keeps the fields of its first (R265). -/
def noteError (ch : Chan) (cause info : Nat) : Chan :=
  if (Map.get? ch.errs cause).isSome then ch else { ch with errs := Map.set ch.errs cause (BitVec.ofNat 64 info) }

/-- RSEM with error status, and the incomplete chunk abandoned (R273). -/
def abandon (s : State) (t c : Nat) (ch : Chan) : State :=
  (s.setTile t ((s.tile t).setChan c { ch with rline := 0 })).semAdd t ch.rsem 1 true

/-- Where line l of chunk q is written (R271). -/
def ringAt (ch : Chan) (q l : Nat) : Nat := ch.base + 64 * (q % ch.depth * ch.lines + l)

/-- A line that passed its checks is written, and may complete its chunk (R271). -/
def writeLine (s : State) (t c : Nat) (ch : Chan) (seq line : Nat) (l : Line) : State :=
  let flag := seq % 2 ^ 32 * 2 ^ 32 + c * 2 ^ 24 + line * 2 ^ 16 + l.cnt * 2 ^ 12 + l.kind * 2 ^ 8
  let s := s.poolWrite t (ringAt ch seq line) (lineBytes l.data flag)
  if line + 1 = ch.lines ∨ isTerm l.kind then
    (s.setTile t ((s.tile t).setChan c { ch with rseq := (ch.rseq + 1) % 2 ^ 32, done := ch.done + 1, rline := 0 })).semAdd
      t ch.rsem 1 false
  else s.setTile t ((s.tile t).setChan c { ch with rline := line + 1 })

/-- A line arrives for channel c of tile t from a logical tile, or 0xFFFF the local entry (R271, R273). A line of a sender
whose PDEPTH differs from the channel's DEPTH is a sequence error (R272; log entry 32). -/
def receiveLine (s : State) (t c src seq line pdepth : Nat) (l : Line) : State :=
  let ch := (s.tile t).chan c
  if ch.resync ∧ !(src == ch.src && line == 0) then s
  else
    let ch := if ch.resync then { ch with resync := false, rseq := seq } else ch
    if src = ch.src ∧ seq = ch.rseq ∧ line = ch.rline ∧ line < ch.lines ∧ pdepth = ch.depth then writeLine s t c ch seq line l
    else abandon s t c { (noteError ch 0x23 (streamInfo 1 src 0 c)) with resync := true }

/-- The ring line that the next line of a channel would be written to is held by a locked reservation. -/
def ringLocked (s : State) (t c : Nat) : Bool :=
  let ch := (s.tile t).chan c
  ch.depth != 0 && s.lockedOut t (ringAt ch ch.rseq ch.rline) 64

/-- CHANNEL_LINE_ARRIVE: a line waits in the mesh until its channel is configured (R270), then is received. -/
def execChannelLineArrive (p : Nat) (s : State) : Out :=
  match s.packet p with
  | none => .next s
  | some q =>
    match q.body with
    | .chLine c seq line l _ pd =>
      if !s.performed q.after || s.routeAhead q || ((s.tile q.dst).chan c).depth == 0 || ringLocked s q.dst c then .next s
      else .next (receiveLine (s.drop p) q.dst c (s.tile q.src).ltile seq line pd l)
    | _ => .next s

/-- CREDIT_ARRIVE: the lowest-numbered channel that names the tile and channel takes the credit (R267). -/
def execCreditArrive (p : Nat) (s : State) : Out :=
  match s.packet p with
  | none => .next s
  | some q =>
    match q.body with
    | .credit c n loc =>
      if !s.performed q.after || s.routeAhead q then .next s
      else
        let y := s.tile q.src
        let s := s.drop p
        let x := s.tile q.dst
        if loc then .next s
        else
          match x.chans.find? fun e => e.2.peer == y.ltile && e.2.pch == c with
          | none => .next s
          | some (i, ch) => .next ((s.setTile q.dst (x.setChan i { ch with cred := ch.cred + n })).semAdd q.dst ch.ssem n false)
    | _ => .next s

/-! ## Stream entries: inputs -/

/-- STREAM_LINE_ARRIVE: a line enters an entry's input buffer (R266, R277). -/
def execStreamLineArrive (p : Nat) (s : State) : Out :=
  match s.packet p with
  | none => .next s
  | some q =>
    match q.body with
    | .stLine e port l =>
      let x := s.tile q.dst
      let en := x.ent e
      let buf := Map.find [] en.bufs port
      if !s.performed q.after || s.routeAhead q || decide (16 ≤ buf.length) then .next s
      else .next ((s.drop p).setTile q.dst (x.setEnt e { en with bufs := Map.set en.bufs port (buf ++ [l]) }))
    | _ => .next s

/-- What an input stands at (R278, R279). -/
inductive Head where
  | record (i v : Nat)
  | term (marker : Bool) (stat : Nat)
  | data (l : Line)
  /-- an order fault (4) or a format fault (8) -/
  | fault (flag : Nat)
deriving DecidableEq, Repr

/-- A line is malformed for an entry (R279). -/
def lineFault (vf : Nat) (l : Line) : Bool :=
  (!l.loc && l.fmt != vf) || decide (4 < l.kind)
    || (l.kind == 1 && decide (l.cnt < 1 ∨ sparseCap vf < l.cnt))
    || (l.kind == 2 && (decide (l.cnt < 1 ∨ 13 < l.cnt) || decide (2 ^ 32 ≤ fld l.data 0 4 + l.cnt - 1)))

/-- Record j of a line: index and value in the accumulation type (R261, R278). -/
def recordAt (vf : Nat) (l : Line) (j : Nat) : Nat × Nat :=
  if l.kind = 2 then (fld l.data 0 4 + j, accCode (if vf = 1 then 1 else 0) (fld l.data (4 + 4 * j) 4))
  else
    (fld l.data (4 * j) 4, accCode vf (fld l.data (4 * sparseCap vf + sparseWidth vf * j) (sparseWidth vf)))

/-- The head of an input; none: nothing has arrived. -/
def headOf (en : Ent) (port : Nat) : Option Head :=
  match Map.find [] en.bufs port with
  | [] => none
  | l :: _ =>
    if lineFault en.vfmt l then some (.fault 8)
    else if l.kind = 0 then some (.data l)
    else if isTerm l.kind then some (.term (l.kind == 3) (fld l.data 0 4))
    else
      let (i, v) := recordAt en.vfmt l (Map.find 0 en.taken port)
      match Map.get? en.prev port with
      | some p => if i ≤ p then some (.fault 4) else some (.record i v)
      | none => some (.record i v)

/-- The head line of an input has been used up. -/
def popLine (en : Ent) (port : Nat) : Ent :=
  { en with bufs := Map.set en.bufs port ((Map.find [] en.bufs port).drop 1), taken := Map.erase en.taken port }

/-- Advance an input past one record. -/
def advance (en : Ent) (port i : Nat) : Ent :=
  let en := { en with prev := Map.set en.prev port i }
  match Map.find [] en.bufs port with
  | [] => en
  | l :: _ =>
    let n := Map.find 0 en.taken port + 1
    if l.cnt ≤ n then popLine en port else { en with taken := Map.set en.taken port n }

/-! ## Stream entries: output (R280, R281) -/

/-- The output mask of the current set. -/
def Ent.outMask (en : Ent) : Nat := en.outs.getD en.set 0

/-- Emit a line on the current set's outputs. -/
def Ent.emit (en : Ent) (kind cnt : Nat) (data : List Byte) : Ent :=
  let l : Line := { data := (data ++ zeros 56).take 56, kind := kind, cnt := cnt, fmt := en.vfmt, loc := false }
  { en with out := en.out ++ [(en.outMask, l)] }

/-- Send out the partly filled sparse line. -/
def Ent.flush (en : Ent) : Ent :=
  if en.part.isEmpty then en
  else
    let cap := sparseCap en.vfmt
    let w := sparseWidth en.vfmt
    let pad (n : Nat) : List Byte := zeros (n * (cap - en.part.length))
    let data := (en.part.flatMap fun r => leBytes r.1 4) ++ pad 4 ++ (en.part.flatMap fun r => leBytes r.2 w) ++ pad w
    { en.emit 1 en.part.length data with part := [] }

/-- One record into the sparse lines. -/
def Ent.sparse (en : Ent) (r : Nat × Nat) : Ent :=
  let en := { en with part := en.part ++ [r] }
  if sparseCap en.vfmt ≤ en.part.length then en.flush else en

/-- A dense value: the record's, exactly widened, or zero. -/
def denseValue (en : Ent) (i : Nat) : Nat :=
  match en.span.find? fun r => r.1 == i with
  | some r => accCode en.vfmt r.2
  | none => 0

/-- The j-th dense line of a span of S indices from base. -/
def Ent.dense (en : Ent) (base size j : Nat) : Ent :=
  let n := min 13 (size - 13 * j)
  en.emit 2 n (leBytes (base + 13 * j) 4 ++ (List.range n).flatMap fun c => leBytes (denseValue en (base + 13 * j + c)) 4)

/-- Close the open span: dense when it holds more than T records, else sparse (R281). -/
def Ent.close (en : Ent) : Ent :=
  match en.span with
  | [] => en
  | (i, _) :: _ =>
    let size := 2 ^ en.k
    let en' :=
      if en.f * size / 16 < en.span.length then
        (List.range ((size + 12) / 13)).foldl (fun e j => e.dense (i / size * size) size j) en.flush
      else en.span.foldl Ent.sparse en
    { en' with span := [] }

/-- An output record: narrowed, and put in the open span (R278, R281). -/
def Ent.record (en : Ent) (i acc : Nat) : Ent :=
  let (c, ovf) :=
    if en.vfmt ≤ 1 then (acc, false)
    else
      let r := (streamFmt en.vfmt).convert .rne false (fp32.decode acc)
      (r.code, Nat.land r.flags flOverflow != 0)
  let en := match en.span with
    | (j, _) :: _ => if j / 2 ^ en.k = i / 2 ^ en.k then en else en.close
    | [] => en
  { en with span := en.span ++ [(i, c)], flags := en.flags ||| ovf.toNat }

/-- The sum of two values in the accumulation type, with the flag it raises (R278, R280). -/
def streamAdd (vf a b : Nat) : Nat × Nat :=
  if vf = 1 then
    let x := signedBits 32 a + signedBits 32 b
    let y := satInt x (-(2 ^ 31)) (2 ^ 31 - 1)
    ((y % 2 ^ 32).toNat, if x = y then 0 else 2)
  else
    let r := fp32.finish .rne (FVal.add .rne (fp32.decode a) (fp32.decode b))
    (r.code, if Nat.land r.flags flOverflow = 0 then 0 else 1)

/-! ## The merge rule (R278 to R283) -/

/-- The input ports of the current set, ascending. -/
def Ent.inPorts (en : Ent) : List Nat := maskSlots (en.ins.getD en.set 0) |>.filter fun p => decide (p < 6)

/-- A fault: what the entry holds for the segment is gone, and the rest of it is discarded on every input of the set (R279). -/
def Ent.faulted (en : Ent) (flag : Nat) : Ent :=
  { en with span := [], part := [], flags := en.flags ||| flag, discard := en.inPorts }

/-- A fault whose segment is still being discarded, or has been: ORD or FMTE is set. -/
def Ent.inFault (en : Ent) : Bool := en.flags / 4 % 4 != 0

/-- The end of a faulty segment, after its discards: the end line, and set 0 (R279); ESEM is the caller's. -/
def Ent.faultEnd (en : Ent) : Ent := { en.emit 4 0 (leBytes en.flags 4) with flags := 0, set := 0 }

/-- Discard one line of an input, up to its terminator. -/
def Ent.discardLine (en : Ent) (port : Nat) : Ent :=
  match Map.find [] en.bufs port with
  | [] => en
  | l :: _ =>
    let e := popLine en port
    if isTerm l.kind then
      { e with discard := e.discard.filter fun p => p != port, prev := Map.erase e.prev port } else e

/-- Every input stands at a terminator: the segment closes (R280). -/
def Ent.segment (en : Ent) (heads : List (Nat × Head)) : Ent :=
  let en := en.close.flush
  let stat := heads.foldl (fun a h => match h.2 with
    | .term _ st => a ||| st % 16
    | _ => a) en.flags
  let marker := heads.all fun h => match h.2 with
    | .term m _ => m
    | _ => false
  let en := en.emit (if marker then 3 else 4) 0 (leBytes stat 4)
  let en := heads.foldl (fun e h => { popLine e h.1 with prev := Map.erase e.prev h.1 }) en
  { en with flags := 0, set := if marker then (en.set + 1) % en.nsets else 0 }

/-- The records at the least index are summed in port order and leave the inputs (R278). -/
def Ent.mergeLeast (en : Ent) (heads : List (Nat × Head)) (m : Nat) : Ent :=
  let (en, acc) := heads.foldl (fun (a : Ent × Option Nat) h => match h.2 with
    | .record i v =>
      if i = m then
        let e := advance a.1 h.1 i
        match a.2 with
        | none => (e, some v)
        | some x =>
          let (y, fl) := streamAdd e.vfmt x v
          ({ e with flags := e.flags ||| fl }, some y)
      else a
    | _ => a) (en, none)
  match acc with
  | some v => en.record m v
  | none => en

/-- The heads of the current set's inputs, when each has one. -/
def Ent.heads (en : Ent) : Option (List (Nat × Head)) :=
  en.inPorts.foldr (fun p acc => match acc, (if en.discard.contains p then none else headOf en p) with
    | some l, some h => some ((p, h) :: l)
    | _, _ => none) (some [])

/-- One step of an entry, and whether it ended a faulty segment. -/
def Ent.step (en : Ent) : Ent × Bool :=
  match en.discard.find? fun p => !(Map.find [] en.bufs p).isEmpty with
  | some p => (en.discardLine p, false)
  | none =>
    if !en.discard.isEmpty then (en, false)
    else if en.inFault then (en.faultEnd, true)
    else match en.heads with
    | none => (en, false)
    | some heads =>
      let flag := heads.findSome? fun h => match h.2 with
        | .fault f => some f
        | .data _ => if 1 < heads.length then some 8 else none
        | _ => none
      match flag with
      | some f => (en.faulted f, false)
      | none =>
        match heads with
        | [(p, .data l)] => ((popLine (en.close.flush.emit 0 0 l.data) p), false)
        | _ =>
          let least := heads.foldl (fun (a : Option Nat) h => match h.2, a with
            | .record i _, none => some i
            | .record i _, some j => some (min i j)
            | _, _ => a) none
          match least with
          | some m => (en.mergeLeast heads m, false)
          | none => (en.segment heads, false)

/-- MERGE_RECORD: one record, data line, terminator or fault of the entry's current set (R278 to R283). -/
def execMergeRecord (t e : Nat) (s : State) : Out :=
  let x := s.tile t
  let en := x.ent e
  if en.nsets = 0 ∨ !en.out.isEmpty ∨ x.stopped then .next s
  else
    let (en', fault) := en.step
    let s := s.setTile t (x.setEnt e en')
    .next (if fault then s.semAdd t en.esem 1 true else s)

/-! ## Outputs (R274, R282, R284) -/

/-- The neighbour on a port of the logical torus (R274). -/
def neighbour (x y lt port : Nat) : Nat :=
  let px := lt % x
  let py := lt / x
  match port with
  | 1 => (py + y - 1) % y * x + px
  | 2 => py * x + (px + 1) % x
  | 3 => (py + 1) % y * x + px
  | _ => py * x + (px + x - 1) % x

/-- The input on which a line sent on a port arrives. -/
def facing (port : Nat) : Nat :=
  match port with
  | 1 => 3
  | 2 => 4
  | 3 => 1
  | _ => 2

/-- Credits for freed chunks of a channel that have not yet left (R267). -/
def owed (s : State) (t c : Nat) : Nat :=
  (s.flight.map fun p => match p.body with
    | .credit d n _ => if p.src = t ∧ p.dst = t ∧ d = c then n else 0
    | _ => 0).sum

/-- The local channel has a free slot for an output line (R282). -/
def slotFree (s : State) (t c : Nat) : Bool :=
  let ch := (s.tile t).chan c
  ch.depth != 0 && (ch.rline != 0 || decide (ch.done + owed s t c < ch.depth)) && !ringLocked s t c

/-- Output L: the line is delivered into channel DCH, an end with ORD or FMTE as an error (R282). -/
def outputLocal (s : State) (t e : Nat) (en : Ent) (l : Line) : State :=
  let c := en.dch
  let ch := (s.tile t).chan c
  let stat := fld l.data 0 4
  let lt := (s.tile t).ltile
  if l.kind = 4 ∧ stat / 4 % 4 ≠ 0 then
    let ch := if stat / 4 % 2 = 1 then noteError ch 0x21 (streamInfo 1 lt e c) else ch
    let ch := if stat / 8 % 2 = 1 then noteError ch 0x22 (streamInfo 1 lt e c) else ch
    abandon s t c ch
  else receiveLine s t c 0xFFFF ch.rseq ch.rline ch.depth l

/-- The transit flag word without CHK (R259). -/
def transitFlag (e : Nat) (l : Line) : Nat := e * 2 ^ 24 + l.fmt * 2 ^ 16 + l.cnt * 2 ^ 12 + l.kind * 2 ^ 8

/-- The frame of a line sent on U (R284). -/
def upFrame (e : Nat) (en : Ent) (l : Line) : List Byte :=
  leBytes (en.udev % 1024) 2 ++ leBytes en.utile 2 ++ [BitVec.ofNat 8 en.uent, 1] ++ leBytes Config.deviceNumber 2
    ++ zeros 8 ++ lineBytes l.data (transitFlag e l)

/-- Send the head output line of an entry on one port, where there is room. -/
def outputOn (s : State) (t e port : Nat) (en : Ent) (l : Line) : Option State :=
  let (x, y) := s.shape t
  match port with
  | 0 => if slotFree s t en.dch then some (outputLocal s t e en l) else none
  | 5 => some { s with hostOut := s.hostOut ++ [.frame en.uport (upFrame e en l)] }
  | _ =>
    match s.physical t (neighbour x y (s.tile t).ltile port) with
    | none => none
    | some u => if inputRoom s u e (facing port) then some (s.send t 16 u (.stLine e (facing port) l) []) else none

/-- STREAM_OUTPUT: the entry's oldest output line leaves on each port of its mask that has room (R274, R282). -/
def execStreamOutput (t e : Nat) (s : State) : Out :=
  let x := s.tile t
  let en := x.ent e
  match en.out with
  | [] => .next s
  | (mask, l) :: rest =>
    if x.stopped then .next s
    else
      let (s, left) := (maskSlots mask).foldl (fun (a : State × Nat) p => match outputOn a.1 t e p en l with
        | some s => (s, a.2)
        | none => (a.1, a.2 + 2 ^ p)) (s, 0)
      let y := s.tile t
      .next (s.setTile t (y.setEnt e { (y.ent e) with out := if left = 0 then rest else (left, l) :: rest }))

end Sys2Proof.Machine
end

