-- ==== Sys2Proof/Machine/Sfu.lean ====
section
/-! DEFINITION. The special-function unit (R166 to R170). The manual fixes special and exact inputs and bounds every other
result; the bits inside the bound are a free value (log entry 8). The value that a bound is measured from is computed
here in fixed point with 256 fraction bits. -/
namespace Sys2Proof.Machine

/-! ## Fixed point with 256 fraction bits -/

def fxBits : Nat := 256
def fxOne : Int := 2 ^ 256

def fxMul (a b : Int) : Int := a * b / fxOne
def fxDiv (a b : Int) : Int := if b = 0 then 0 else a * fxOne / b

/-- ± m × 2^e. -/
def fxOf (neg : Bool) (m : Nat) (e : Int) : Int :=
  let (a, b) := scale2 m (e + 256)
  if neg then -((a / b : Nat) : Int) else ((a / b : Nat) : Int)

/-- Σ of z^(2i+1) / (2i+1), with alternating signs when alt: p is the power reached, i the term. -/
def oddSeries (alt : Bool) (z2 p : Int) (i fuel : Nat) : Int :=
  match fuel with
  | 0 => 0
  | fuel + 1 =>
    let t := p / (2 * i + 1)
    (if alt && i % 2 == 1 then -t else t) + oddSeries alt z2 (fxMul p z2) (i + 1) fuel

/-- artanh z for |z| ≤ 1/3. -/
def fxArtanh (z : Int) : Int := oddSeries false (fxMul z z) z 0 90

/-- arctan (1/n). -/
def fxArctan (n : Nat) : Int := oddSeries true (fxOne / (n * n)) (fxOne / n) 0 70

/-- π by Machin's formula. -/
def fxPi : Int := 16 * fxArctan 5 - 4 * fxArctan 239

/-- ln 2 = 2 artanh (1/3). -/
def fxLn2 : Int := 2 * fxArtanh (fxOne / 3)

/-- Σ of t over terms t, t × r / i, … from i on. -/
def expSeries (r t : Int) (i fuel : Nat) : Int :=
  match fuel with
  | 0 => 0
  | fuel + 1 => t + expSeries r (fxMul t r / (i : Int)) (i + 1) fuel

/-- a × 2^k. -/
def fxShift (a k : Int) : Int :=
  match k with
  | .ofNat n => a * 2 ^ n
  | .negSucc n => a / 2 ^ (n + 1)

/-- e^y. -/
def fxExp (y : Int) : Int :=
  let k := y / fxLn2
  fxShift (expSeries (y - k * fxLn2) fxOne 1 64) k

/-- ln x for x = m × 2^e, m > 0. -/
def fxLn (m : Nat) (e : Int) : Int :=
  let k : Int := (Nat.log2 m : Int)
  let f := fxOf false m (-k)
  (k + e) * fxLn2 + 2 * fxArtanh (fxDiv (f - fxOne) (f + fxOne))

/-- Σ of the alternating series of sine or cosine: t, −t × a² / (i (i + 1)), … -/
def trigSeries (a2 t : Int) (i fuel : Nat) : Int :=
  match fuel with
  | 0 => 0
  | fuel + 1 => t + trigSeries a2 (-(fxMul t a2 / ((i * (i + 1) : Nat) : Int))) (i + 2) fuel

/-- x mod 2 as −1 to 1. -/
def fxWrap (x : Int) : Int := (x + fxOne) % (2 * fxOne) - fxOne

def fxSinPi (x : Int) : Int := let a := fxMul fxPi (fxWrap x); trigSeries (fxMul a a) a 2 60
def fxCosPi (x : Int) : Int := let a := fxMul fxPi (fxWrap x); trigSeries (fxMul a a) fxOne 1 60

/-- The square root of a value that is not negative. -/
def fxSqrt (a : Int) : Int := (isqrt (a.toNat * 2 ^ fxBits) : Nat)

/-- Σ of (−1)^i u^(2i+1) / (i! (2i+1)): p is ± u^(2i+1) / i!. -/
def erfSeries (u2 p : Int) (i fuel : Nat) : Int :=
  match fuel with
  | 0 => 0
  | fuel + 1 => p / ((2 * i + 1 : Nat) : Int) + erfSeries u2 (-(fxMul p u2 / ((i + 1 : Nat) : Int))) (i + 1) fuel

/-- erf u; ±1 beyond 7. -/
def fxErf (u : Int) : Int :=
  if 7 * fxOne < u then fxOne
  else if u < -(7 * fxOne) then -fxOne
  else fxDiv (2 * erfSeries (fxMul u u) u 0 260) (fxSqrt fxPi)

/-- 1 / (1 + e^−x). -/
def fxSigm (x : Int) : Int :=
  if 128 * fxOne < x then fxOne
  else if x < -(200 * fxOne) then 0
  else fxDiv fxOne (fxOne + fxExp (-x))

/-- tanh x. -/
def fxTanh (x : Int) : Int :=
  if 64 * fxOne < x then fxOne
  else if x < -(64 * fxOne) then -fxOne
  else
    let p := fxExp (2 * x)
    fxDiv (p - fxOne) (p + fxOne)

/-! ## The operations -/

/-- The functions of R167, in port order; the number is the offset from 0x142. -/
inductive SfuFn where
  | rcp | rsqrt | sqrt | exp2 | exp | log2 | ln | sinpi | cospi | tanh | sigm | gelu | silu | erf
deriving DecidableEq, Repr

def SfuFn.num (f : SfuFn) : Nat :=
  match f with
  | .rcp => 0
  | .rsqrt => 1
  | .sqrt => 2
  | .exp2 => 3
  | .exp => 4
  | .log2 => 5
  | .ln => 6
  | .sinpi => 7
  | .cospi => 8
  | .tanh => 9
  | .sigm => 10
  | .gelu => 11
  | .silu => 12
  | .erf => 13

/-- e^y where it lies between 2^−400 and 2^400; far below, 0; far above, 2^400. -/
def fxExpClamped (y : Int) : Int :=
  if 277 * fxOne < y then 2 ^ 656 else if y < -(277 * fxOne) then 0 else fxExp y

/-- f(± m × 2^e) with 256 fraction bits, for a finite input that is not zero and lies in f's domain. -/
def SfuFn.value (f : SfuFn) (neg : Bool) (m : Nat) (e : Int) : Int :=
  let x := fxOf neg m e
  match f with
  | .rcp =>
    let (a, b) := scale2 1 (256 - e)
    let q : Int := ((a / (b * m) : Nat) : Int)
    if neg then -q else q
  | .rsqrt =>
    let (a, b) := scale2 1 (512 - e)
    (isqrt (a / (b * m)) : Nat)
  | .sqrt => fxSqrt x
  | .exp2 => fxExpClamped (if 400 * fxOne < x then 400 * fxOne else if x < -(400 * fxOne) then -(400 * fxOne)
      else fxMul x fxLn2)
  | .exp => fxExpClamped x
  | .log2 => fxDiv (fxLn m e) fxLn2
  | .ln => fxLn m e
  | .sinpi => fxSinPi x
  | .cospi => fxCosPi x
  | .tanh => fxTanh x
  | .sigm => fxSigm x
  | .gelu => fxMul x (fxOne + fxErf (fxDiv x (fxSqrt (2 * fxOne)))) / 2
  | .silu => fxMul x (fxSigm x)
  | .erf => fxErf x

/-- The bound of R167: units in the last place, and the absolute bound as the exponent of 2, if any. -/
def SfuFn.bound (f : SfuFn) : Nat × Option Nat :=
  match f with
  | .rcp | .rsqrt | .exp2 => (1, none)
  | .sqrt => (0, none)
  | .exp | .tanh | .sigm | .erf => (2, none)
  | .log2 | .ln => (2, some 23)
  | .sinpi | .cospi => (2, some 24)
  | .gelu | .silu => (4, some 22)

/-- What a special input gives (R168): a value and its conditions; none: not a special input. A NaN gives NaN. -/
def SfuFn.special (f : SfuFn) (v : FVal) : Option (FVal × Nat) :=
  let one : FVal := .fin false 1 0
  match v with
  | .nan => some (.nan, 0)
  | .inf neg =>
    match f with
    | .rcp => some (.fin neg 0 0, 0)
    | .rsqrt => some (if neg then (.nan, flInvalid) else (.fin false 0 0, 0))
    | .sqrt | .log2 | .ln => some (if neg then (.nan, flInvalid) else (.inf false, 0))
    | .exp2 | .exp => some (if neg then (.fin false 0 0, 0) else (.inf false, 0))
    | .sinpi | .cospi => some (.nan, flInvalid)
    | .tanh | .erf => some (.fin neg 1 0, 0)
    | .sigm => some (if neg then (.fin false 0 0, 0) else (one, 0))
    | .gelu | .silu => some (if neg then (.fin true 0 0, 0) else (.inf false, 0))
  | .fin neg 0 _ =>
    match f with
    | .rcp | .rsqrt => some (.inf neg, flDivZero)
    | .sqrt | .sinpi | .tanh | .erf | .gelu | .silu => some (.fin neg 0 0, 0)
    | .exp2 | .exp | .cospi => some (one, 0)
    | .log2 | .ln => some (.inf true, flDivZero)
    | .sigm => some (.fin false 1 (-1), 0)
  | .fin true (_ + 1) _ =>
    match f with
    | .rsqrt | .sqrt | .log2 | .ln => some (.nan, flInvalid)
    | _ => none
  | _ => none

/-- Twice the value, when it is an integer. -/
def halves (neg : Bool) (m : Nat) (e : Int) : Option Int :=
  let (a, b) := scale2 m (e + 1)
  if a % b = 0 then some (if neg then -((a / b : Nat) : Int) else ((a / b : Nat) : Int)) else none

/-- The exponent k when m × 2^e is 2^k. -/
def powerOf (m : Nat) (e : Int) : Option Int := if m = 2 ^ Nat.log2 m then some (Nat.log2 m + e) else none

/-- The exact results of R169, before the test that the format holds them. -/
def SfuFn.exact (f : SfuFn) (neg : Bool) (m : Nat) (e : Int) : Option FVal :=
  match f with
  | .rcp => (powerOf m e).map fun k => .fin neg 1 (-k)
  | .rsqrt => (powerOf m e).bind fun k => if k % 2 = 0 then some (.fin false 1 (-(k / 2))) else none
  | .exp2 => (halves neg m e).bind fun h => if h % 2 = 0 ∧ h.natAbs < 4096 then some (.fin false 1 (h / 2)) else none
  | .log2 => (powerOf m e).map fun k => .fin (decide (k < 0)) k.natAbs 0
  | .ln => (powerOf m e).bind fun k => if k = 0 then some (.fin false 0 0) else none
  | .sinpi => (halves neg m e).map fun h =>
      if h % 2 = 0 then .fin neg 0 0 else .fin (decide (h % 4 = 3)) 1 0
  | .cospi => (halves neg m e).map fun h =>
      if h % 2 = 0 then .fin (decide (h % 4 = 2)) 1 0 else .fin false 0 0
  | _ => none

/-! ## The results a bound allows -/

/-- The code of the greatest FP32 magnitude not above n / 2^256, the exponent going on past the largest finite. -/
def codeFloor (n : Nat) : Nat :=
  if n = 0 then 0
  else
    let b : Int := max ((Nat.log2 n : Int) - 256) (-126)
    (b + 126).toNat * 2 ^ 23 + n / 2 ^ (b + 233).toNat

/-- The code of the least FP32 magnitude not below n / 2^256. -/
def codeCeil (n : Nat) : Nat :=
  if n = 0 then 0
  else
    let b : Int := max ((Nat.log2 n : Int) - 256) (-126)
    codeFloor n + (if n % 2 ^ (b + 233).toNat = 0 then 0 else 1)

/-- The magnitude of such a code: mantissa and exponent. -/
def codeMag (c : Nat) : Nat × Int :=
  if c < 2 ^ 23 then (c, -149) else (2 ^ 23 + c % 2 ^ 23, ((c / 2 ^ 23 : Nat) : Int) - 150)

/-- The least and the greatest signed codes within b of v. -/
def codeRange (v b : Int) : Int × Int :=
  let lo := v - b
  let hi := v + b
  (if 0 ≤ lo then (codeCeil lo.toNat : Int) else -(codeFloor (-lo).toNat : Int),
   if 0 ≤ hi then (codeFloor hi.toNat : Int) else -(codeCeil (-hi).toNat : Int))

/-- The bound of R167 around v in fixed point. -/
def SfuFn.slack (f : SfuFn) (v : Int) : Int :=
  let (n, a) := f.bound
  let binade : Int := if v = 0 then -126 else (Nat.log2 v.natAbs : Int) - 256
  let ulp : Int := 2 ^ (fp32.ulpExp binade + 256).toNat
  let abs : Int := match a with
    | some k => 2 ^ (256 - k)
    | none => 0
  max (n * ulp) abs

/-- What v itself may be off (log entry 8). -/
def SfuFn.widen (f : SfuFn) (v : Int) : Int :=
  (v.natAbs : Int) / 2 ^ (if f = .erf ∨ f = .gelu then 90 else 200) + 2 ^ 60

/-- The least and the greatest value in fixed point between which f(x) itself lies, of a finite input that is not zero and has no
exact result: what f cannot reach is left out. -/
def SfuFn.limits (f : SfuFn) (x : Int) : Int × Int :=
  let top : Int := 2 ^ 1024
  let half (hi : Int) : Int × Int := if 0 < x then (1, hi) else (-hi, -1)
  match f with
  | .exp2 | .exp => if 0 < x then (fxOne + 1, top) else (1, fxOne - 1)
  | .sigm => (1, fxOne - 1)
  | .rsqrt | .sqrt => (1, top)
  | .log2 | .ln => if fxOne < x then (1, top) else (-top, -1)
  | .sinpi | .cospi => (1 - fxOne, fxOne - 1)
  | .erf => half (fxOne - 1)
  | .tanh => half (min (x.natAbs - 1) (fxOne - 1))
  | .gelu | .silu => half (x.natAbs - 1)
  | .rcp => half top

/-- The least and the greatest code that the bound allows, v being the result for x as the model has it. -/
def SfuFn.codes (f : SfuFn) (x v : Int) : Int × Int :=
  let lo := max (v - f.widen v) (f.limits x).1
  let hi := min (v + f.widen v) (f.limits x).2
  let least := (codeRange lo (f.slack lo)).1
  (least, max least (codeRange hi (f.slack hi)).2)

/-- The FP32 value an operation evaluates to: a free value among those the bound allows (R167, R170, log entry 8).
A zero takes the sign of the exact result. -/
def SfuFn.evaluate (f : SfuFn) (fmt input : Nat) (neg : Bool) (m : Nat) (e : Int) : FVal :=
  let v := f.value neg m e
  let below := if f = .gelu ∨ f = .silu then neg else decide (v < 0)
  let (lo, hi) := f.codes (fxOf neg m e) v
  let n := (hi - lo).toNat + 1
  let c := lo + ((Config.sfuBits f.num fmt input % n : Nat) : Int)
  if c = 0 then .fin below 0 0
  else
    let (a, k) := codeMag c.natAbs
    .fin (decide (c < 0)) a k

/-- Underflow of an inexact result: it is a subnormal (R169), or a zero delivered for an exact value below the least normal
of the format (R71). -/
def SfuFn.tiny (f : SfuFn) (ff : FFmt) (neg : Bool) (m : Nat) (e : Int) (mag : Nat) : Bool :=
  decide (0 < mag ∧ mag < 2 ^ ff.mb)
    || (mag == 0 && decide ((f.value neg m e).natAbs < 2 ^ (ff.ulpExp (-(2 ^ 10)) + ff.mb + 256).toNat))

/-- An operation in a format on an input code: result code and conditions (R167 to R169). fmt is the SF code. -/
def SfuFn.apply (f : SfuFn) (ff : FFmt) (fmt input : Nat) : Nat × Nat :=
  let x := ff.decode (input % 2 ^ ff.width)
  match f.special x with
  | some (y, fl) => ((ff.convert .rne false y).code, fl)
  | none =>
    match x with
    | .fin neg m e =>
      if f = .sqrt then
        let r := ff.squareRoot .rne x
        (r.code, r.flags)
      else
        let held := (f.exact neg m e).bind fun y =>
          let r := ff.convert .rne false y
          if r.flags = 0 then some r.code else none
        match held with
        | some c => (c, 0)
        | none =>
          let c := (ff.convert .rne false (f.evaluate fmt (input % 2 ^ ff.width) neg m e)).code
          let mag := c % 2 ^ (ff.width - 1)
          let ovf := mag / 2 ^ ff.mb == 2 ^ ff.eb - 1
          (c, flInexact + flagIf ovf flOverflow + flagIf (f.tiny ff neg m e mag) flUnderflow)
    | _ => (ff.nanCode, 0)

/-- The format of SF (R166). -/
def sfFmt (c : Nat) : FFmt :=
  match c with
  | 1 => fp16
  | 2 => bf16
  | _ => fp32

/-- SF with 3 acting as 0. -/
def sfCode (s : State) : Nat := (s.opnd 0x140).bits 1 0 % 3

/-- An sfu operation: trap 0x28, or deliver (R153, R164, R167). -/
def sfu (f : SfuFn) (L : Nat) (v : Word) (s : State) : Out :=
  let sf := sfCode s
  let (y, fl) := f.apply (sfFmt sf) sf v.toNat
  let port := 0x142 + f.num
  if fpTraps s.me fl then s.trapA port v 0x28 (fpInfo fl port)
  else .next (s.result .sfu (BitVec.ofNat 64 y) none L)

def execSfuRcp (v : Word) (s : State) : Out := sfu .rcp 4 v s
def execSfuRsqrt (v : Word) (s : State) : Out := sfu .rsqrt 4 v s
def execSfuSqrt (v : Word) (s : State) : Out := sfu .sqrt 4 v s
def execSfuExp2 (v : Word) (s : State) : Out := sfu .exp2 4 v s
def execSfuExp (v : Word) (s : State) : Out := sfu .exp 6 v s
def execSfuLog2 (v : Word) (s : State) : Out := sfu .log2 4 v s
def execSfuLn (v : Word) (s : State) : Out := sfu .ln 6 v s
def execSfuSinpi (v : Word) (s : State) : Out := sfu .sinpi 6 v s
def execSfuCospi (v : Word) (s : State) : Out := sfu .cospi 6 v s
def execSfuTanh (v : Word) (s : State) : Out := sfu .tanh 6 v s
def execSfuSigm (v : Word) (s : State) : Out := sfu .sigm 6 v s
def execSfuGelu (v : Word) (s : State) : Out := sfu .gelu 6 v s
def execSfuSilu (v : Word) (s : State) : Out := sfu .silu 6 v s
def execSfuErf (v : Word) (s : State) : Out := sfu .erf 6 v s

end Sys2Proof.Machine
end

