-- ==== Sys2Proof/Machine/Vec.lean ====
section
/-! DEFINITION. The shared vector pool (R171 to R194). -/
namespace Sys2Proof.Machine

/-! ## Types, grants and checks -/

/-- An element type (R176). -/
def vecFmt (c : Nat) : NumFmt :=
  match c with
  | 0 => .float fp32
  | 1 => .float bf16
  | 2 => .float fp16
  | 3 => .int 32 true
  | 4 => .int 16 true
  | 5 => .int 8 true
  | 6 => .float e4m3
  | _ => .float e5m2

/-- w of R176. -/
def vecWidth (c : Nat) : Nat := (vecFmt c).width

/-- The types an operation permits (R182 to R189). -/
def anyType (_ : Nat) : Bool := true
def arithType (c : Nat) : Bool := decide (c ≤ 5)
def intType (c : Nat) : Bool := decide (3 ≤ c ∧ c ≤ 5)
def floatType (c : Nat) : Bool := decide (c ≤ 2)

/-- The fields of a control word (R178). -/
def ctlType (v : Word) : Nat := v.bits 18 16
def ctlType2 (v : Word) : Nat := v.bits 21 19
def ctlRm (v : Word) : Rnd := rndOf (v.bits 23 22)

/-- SINFO of trap 0x1C (R181). -/
def info1C (reason port : Nat) : Word := BitVec.ofNat 64 (reason * 2 ^ 60 + port)

/-- Orders 1 to 3 of R181. -/
def vecGate (s : State) (port : Nat) (ok : Bool) (v : Word) : Option (Nat × Word) :=
  if !s.here.hasVec s.cur.2 then some (0x1C, info1C 2 port)
  else if s.me.vgrant.1 = 0 then some (0x1C, info1C 0 port)
  else if !ok then some (0x19, BitVec.ofNat 64 (v.bits 21 16 * 2 ^ 16 + port))
  else none

/-! ## Registers -/

/-- Containers of 32 bits from bytes. -/
def words32 (bs : List Byte) : List Nat :=
  match bs with
  | a :: b :: c :: d :: r => leNat [a, b, c, d] :: words32 r
  | _ => []

/-- The first E containers of vector register m (R175). -/
def vecRead (s : State) (m E : Nat) : List Nat := words32 (s.poolRead s.cur.1 (vecPlace s.cur.2 m) (4 * E))

/-- Write the first containers of vector register m. -/
def vecWrite (s : State) (m : Nat) (xs : List Nat) : State :=
  s.poolWrite s.cur.1 (vecPlace s.cur.2 m) (xs.flatMap fun x => leBytes x 4)

/-- Bytes of these vector registers cannot be read (R181, R380). -/
def vecBad (s : State) (ms : List Nat) (E : Nat) : Option Nat :=
  ms.findSome? fun m => hasBad s.here.poolBad (vecPlace s.cur.2 m) (4 * E)

/-- E of the strand's grant. -/
def vecCount (s : State) : Nat := s.me.vgrant.1 * s.me.vgrant.2

/-- The active elements (R179). -/
def vecActive (s : State) (v : Word) (E : Nat) : List Bool :=
  if v.bit 15 then (vecRead s (v.bits 14 12) E).map fun c => c % 2 == 1 else List.replicate E true

/-- Registers read beside the operands: the mask, and the destination where masked elements keep their value. -/
def maskRegs (v : Word) : List Nat :=
  if v.bit 15 then v.bits 14 12 :: (if v.bit 25 then [] else [v.bits 2 0]) else []

/-- A vector operation delivers: the status to vec.z, and y where the operation has one. Data-locked, vec.z is read once
every operation has delivered and gives the status of the latest (R180). -/
def vecDone (y : Option Word) (z L : Nat) (s : State) : State :=
  let st := s.me
  let lk := st.locked .vec
  let b := st.bank
  let b := if lk then
      { b with res := b.res.map fun r =>
          if r.unit == .vec && r.due == none then { r with z := some (BitVec.ofNat 64 z) } else r }
    else b
  s.setMe (st.setBank (b.push .vec y (some (BitVec.ofNat 64 z)) L s.here.cycle lk false))

/-! ## Element-wise operations (R179) -/

/-- One pass over the elements: results and the OR of the conditions of the active ones. -/
def elementwise (f : Nat → Nat → Nat → Nat × Nat) (zm : Bool) (act : List Bool) (as bs cs ds : List Nat) :
    List Nat × Nat :=
  match act, as, bs, cs, ds with
  | t :: act, a :: as, b :: bs, c :: cs, d :: ds =>
    let (out, fl) := elementwise f zm act as bs cs ds
    if t then
      let (x, g) := f a b c
      (x :: out, g ||| fl)
    else ((if zm then 0 else d) :: out, fl)
  | _, _, _, _, _ => ([], 0)

/-- Operand b: register VB, or the low bits of vec.b for every element (R178). -/
def vecOperandB (s : State) (v : Word) (E : Nat) : List Nat :=
  if v.bit 24 then List.replicate E ((s.opnd 0x241).toNat % 2 ^ vecWidth (ctlType v)) else vecRead s (v.bits 8 6) E

/-- An element-wise operation with n register operands. -/
def vecElem (port n : Nat) (ok : Nat → Bool) (L : Nat) (f : Nat → Nat → Nat → Nat × Nat) (v : Word) (s : State) : Out :=
  match vecGate s port (ok (ctlType v)) v with
  | some (c, i) => s.trapA port v c i
  | none =>
    let E := vecCount s
    let srcs := (if 0 < n then [v.bits 5 3] else []) ++ (if 1 < n && !v.bit 24 then [v.bits 8 6] else [])
      ++ (if 2 < n then [v.bits 11 9] else []) ++ maskRegs v
    match vecBad s srcs E with
    | some b => poolBadTrap s port v b 0
    | none =>
      let s := srcs.foldl (fun s m => s.poolScrub s.cur.1 (vecPlace s.cur.2 m) (4 * E)) s
      let (out, z) := elementwise f (v.bit 25) (vecActive s v E) (vecRead s (v.bits 5 3) E) (vecOperandB s v E)
        (vecRead s (v.bits 11 9) E) (vecRead s (v.bits 2 0) E)
      .next (vecDone none z L (vecWrite s (v.bits 2 0) out))

/-- An integer of w bits as stored. -/
def wrapTo (w : Nat) (x : Int) : Nat := (x % (2 ^ w : Int)).toNat

/-- A result of the arithmetic of a float type. -/
def ofRes (r : RRes) : Nat × Nat := (r.code, r.flags)

/-- Float or integer arithmetic on two or three operands (R183). -/
def vecArith (v : Word) (g : Rnd → FVal → FVal → FVal → FVal × Bool) (h : Int → Int → Int → Int) (a b c : Nat) :
    Nat × Nat :=
  let w := vecWidth (ctlType v)
  match vecFmt (ctlType v) with
  | .float f =>
    let rm := ctlRm v
    ofRes (f.finish rm (g rm (f.decode (a % 2 ^ w)) (f.decode (b % 2 ^ w)) (f.decode (c % 2 ^ w))))
  | _ => (wrapTo w (h (signedBits w a) (signedBits w b) (signedBits w c)), 0)

def execVecAdd (v : Word) (s : State) : Out :=
  vecElem 0x24A 2 arithType 4 (vecArith v (fun m x y _ => FVal.add m x y) (fun x y _ => x + y)) v s
def execVecSub (v : Word) (s : State) : Out :=
  vecElem 0x24B 2 arithType 4 (vecArith v (fun m x y _ => FVal.add m x y.neg) (fun x y _ => x - y)) v s
def execVecMul (v : Word) (s : State) : Out :=
  vecElem 0x24C 2 arithType 5 (vecArith v (fun _ x y _ => FVal.mul x y) (fun x y _ => x * y)) v s
def execVecFma (v : Word) (s : State) : Out :=
  vecElem 0x24D 3 arithType 5 (vecArith v (fun m x y z => FVal.fma m x y z) (fun x y z => x * y + z)) v s
def execVecFms (v : Word) (s : State) : Out :=
  vecElem 0x24E 3 arithType 5 (vecArith v (fun m x y z => FVal.fma m x y z.neg) (fun x y z => x * y - z)) v s
def execVecFnma (v : Word) (s : State) : Out :=
  vecElem 0x24F 3 arithType 5 (vecArith v (fun m x y z => FVal.fma m x.neg y z) (fun x y z => -(x * y) + z)) v s

/-- Minimum and maximum (R157, R183). -/
def vecPick (ty : Nat) (wantMax : Bool) (a b : Nat) : Nat :=
  let w := vecWidth ty
  match vecFmt ty with
  | .float f => f.pick wantMax (a % 2 ^ w) (b % 2 ^ w)
  | _ =>
    let x := signedBits w a
    let y := signedBits w b
    wrapTo w (if wantMax then max x y else min x y)

def execVecMin (v : Word) (s : State) : Out :=
  vecElem 0x250 2 arithType 4 (fun a b _ => (vecPick (ctlType v) false a b, 0)) v s
def execVecMax (v : Word) (s : State) : Out :=
  vecElem 0x251 2 arithType 4 (fun a b _ => (vecPick (ctlType v) true a b, 0)) v s

/-- A sign operation: on floats the canonical NaN for a NaN (R157), on integers with wrap (R183). -/
def vecSign (ty : Nat) (onBits : Nat → Nat → Nat) (onInt : Int → Int) (a : Nat) : Nat :=
  let w := vecWidth ty
  match vecFmt ty with
  | .float f => if (f.decode (a % 2 ^ w)).isNan then f.nanCode else onBits w (a % 2 ^ w)
  | _ => wrapTo w (onInt (signedBits w a))

def execVecAbs (v : Word) (s : State) : Out :=
  vecElem 0x252 1 arithType 4
    (fun a _ _ => (vecSign (ctlType v) (fun w x => x % 2 ^ (w - 1)) (fun x => (x.natAbs : Int)) a, 0)) v s
def execVecNeg (v : Word) (s : State) : Out :=
  vecElem 0x253 1 arithType 4
    (fun a _ _ => (vecSign (ctlType v) (fun w x => (x + 2 ^ (w - 1)) % 2 ^ w) (fun x => -x) a, 0)) v s

/-- A saturating sum (R182, R184). -/
def vecSat (ty : Nat) (h : Int → Int → Int) (a b : Nat) : Nat × Nat :=
  let w := vecWidth ty
  let x := h (signedBits w a) (signedBits w b)
  (wrapTo w (satInt x (-(2 ^ (w - 1) : Int)) (2 ^ (w - 1) - 1)), flagIf (!fitsSigned x w) flSat)

def execVecAdds (v : Word) (s : State) : Out :=
  vecElem 0x26D 2 intType 4 (fun a b _ => vecSat (ctlType v) (fun x y => x + y) a b) v s
def execVecSubs (v : Word) (s : State) : Out :=
  vecElem 0x26E 2 intType 4 (fun a b _ => vecSat (ctlType v) (fun x y => x - y) a b) v s

/-- clamp: lo from vec.a, hi from vec.b (R182). -/
def execVecClamp (v : Word) (s : State) : Out :=
  let lo := (s.opnd 0x240).toNat
  let hi := (s.opnd 0x241).toNat
  vecElem 0x26F 1 arithType 4
    (fun a _ _ => (vecPick (ctlType v) false (vecPick (ctlType v) true a lo) hi, 0)) v s

/-- A bitwise operation on the low w bits (R182). -/
def vecBits (v : Word) (g : Nat → Nat → Nat) (a b : Nat) : Nat × Nat :=
  (g a b % 2 ^ vecWidth (ctlType v), 0)

def execVecAnd (v : Word) (s : State) : Out := vecElem 0x254 2 anyType 4 (fun a b _ => vecBits v Nat.land a b) v s
def execVecOr (v : Word) (s : State) : Out := vecElem 0x255 2 anyType 4 (fun a b _ => vecBits v Nat.lor a b) v s
def execVecXor (v : Word) (s : State) : Out := vecElem 0x256 2 anyType 4 (fun a b _ => vecBits v Nat.xor a b) v s

/-- The shift count: bits [4:0] of b, modulo w (R182). -/
def vecCountOf (v : Word) (b : Nat) : Nat := b % 32 % vecWidth (ctlType v)

def execVecShl (v : Word) (s : State) : Out :=
  vecElem 0x257 2 intType 4 (fun a b _ => vecBits v (fun a b => a * 2 ^ vecCountOf v b) a b) v s
def execVecShr (v : Word) (s : State) : Out :=
  vecElem 0x258 2 intType 4
    (fun a b _ => vecBits v (fun a b => a % 2 ^ vecWidth (ctlType v) / 2 ^ vecCountOf v b) a b) v s
def execVecSar (v : Word) (s : State) : Out :=
  vecElem 0x259 2 intType 4
    (fun a b _ => (wrapTo (vecWidth (ctlType v)) (signedBits (vecWidth (ctlType v)) a / 2 ^ vecCountOf v b), 0)) v s

/-- A comparison: 1 or 0 as INT32 (R185). -/
def vecCmp (v : Word) (onFloat : FVal → FVal → Bool) (onInt : Int → Int → Bool) (a b : Nat) : Nat × Nat :=
  let w := vecWidth (ctlType v)
  match vecFmt (ctlType v) with
  | .float f => ((onFloat (f.decode (a % 2 ^ w)) (f.decode (b % 2 ^ w))).toNat, 0)
  | _ => ((onInt (signedBits w a) (signedBits w b)).toNat, 0)

def execVecCeq (v : Word) (s : State) : Out :=
  vecElem 0x25A 2 arithType 4 (fun a b _ => vecCmp v FVal.eq (fun x y => x == y) a b) v s
def execVecCne (v : Word) (s : State) : Out :=
  vecElem 0x25B 2 arithType 4 (fun a b _ => vecCmp v (fun x y => !(x.eq y)) (fun x y => x != y) a b) v s
def execVecClt (v : Word) (s : State) : Out :=
  vecElem 0x25C 2 arithType 4 (fun a b _ => vecCmp v FVal.lt (fun x y => decide (x < y)) a b) v s
def execVecCle (v : Word) (s : State) : Out :=
  vecElem 0x25D 2 arithType 4 (fun a b _ => vecCmp v FVal.le (fun x y => decide (x ≤ y)) a b) v s

/-- The mask operations on bit 0 (R185). -/
def execVecMskand (v : Word) (s : State) : Out := vecElem 0x271 2 anyType 2 (fun a b _ => (a % 2 * (b % 2), 0)) v s
def execVecMskor (v : Word) (s : State) : Out :=
  vecElem 0x272 2 anyType 2 (fun a b _ => (max (a % 2) (b % 2), 0)) v s
def execVecMsknot (v : Word) (s : State) : Out := vecElem 0x273 1 anyType 2 (fun a _ _ => (1 - a % 2, 0)) v s

/-- sel copies whole containers (R185). -/
def execVecSel (v : Word) (s : State) : Out :=
  vecElem 0x25E 3 anyType 4 (fun a b c => (if c % 2 = 1 then a else b, 0)) v s

/-- mov copies whole containers (R188). -/
def execVecMov (v : Word) (s : State) : Out := vecElem 0x26A 1 anyType 2 (fun a _ _ => (a, 0)) v s

/-- bcs (R188). -/
def execVecBcs (v : Word) (s : State) : Out :=
  let x := (s.opnd 0x240).toNat
  vecElem 0x263 0 anyType 2 (fun _ _ _ => (x % 2 ^ vecWidth (ctlType v), 0)) v s

/-- SAT of a conversion: a clamp into an integer type (R184). -/
def cvtFlags (dst : NumFmt) (r : RRes) : Nat := r.flags ||| flagIf (r.sat && dst.isInt) flSat

/-- cvt (R187). -/
def execVecCvt (v : Word) (s : State) : Out :=
  let src := vecFmt (ctlType v)
  let dst := vecFmt (ctlType2 v)
  let satf := s.me.satf
  vecElem 0x25F 1 anyType 4
    (fun a _ _ =>
      let r := dst.convert (ctlRm v) satf src.isInt (src.decode a)
      (r.code, cvtFlags dst r)) v s

/-- rcp, rsqrt, exp2: the sfu's values (R183). -/
def vecSfu (fn : SfuFn) (port : Nat) (v : Word) (s : State) : Out :=
  let sf := if ctlType v = 1 then 2 else if ctlType v = 2 then 1 else 0
  vecElem port 1 floatType 6 (fun a _ _ => fn.apply (sfFmt sf) sf a) v s

def execVecRcp (v : Word) (s : State) : Out := vecSfu .rcp 0x267 v s
def execVecRsqrt (v : Word) (s : State) : Out := vecSfu .rsqrt 0x268 v s
def execVecExp2 (v : Word) (s : State) : Out := vecSfu .exp2 0x269 v s

/-! ## Operations that place elements -/

/-- An operation that computes each element from its place q and register VA, written under R179. -/
def vecPlaced (port n : Nat) (ok : Nat → Bool) (g : List Nat → Nat → Nat) (v : Word) (s : State) : Out :=
  match vecGate s port (ok (ctlType v)) v with
  | some (c, i) => s.trapA port v c i
  | none =>
    let E := vecCount s
    let srcs := (if n = 0 then [] else [v.bits 5 3]) ++ maskRegs v
    match vecBad s srcs E with
    | some b => poolBadTrap s port v b 0
    | none =>
      let s := srcs.foldl (fun s m => s.poolScrub s.cur.1 (vecPlace s.cur.2 m) (4 * E)) s
      let va := vecRead s (v.bits 5 3) E
      let ds := vecRead s (v.bits 2 0) E
      let (out, _) := elementwise (fun a _ _ => (a, 0)) (v.bit 25) (vecActive s v E) ((List.range E).map (g va)) ds ds ds
      .next (vecDone none 0 2 (vecWrite s (v.bits 2 0) out))

/-- bcrow (R188). -/
def execVecBcrow (v : Word) (s : State) : Out :=
  let (R, L) := s.me.vgrant
  let r := (s.opnd 0x240).toNat % R
  vecPlaced 0x261 1 anyType (fun va q => va.getD (r * L + q % L) 0) v s

/-- bccol (R188). -/
def execVecBccol (v : Word) (s : State) : Out :=
  let (_, L) := s.me.vgrant
  let c := (s.opnd 0x240).toNat % L
  vecPlaced 0x262 1 anyType (fun va q => va.getD (q / L * L + c) 0) v s

/-- rotr (R188). -/
def execVecRotr (v : Word) (s : State) : Out :=
  let (_, L) := s.me.vgrant
  let c := (s.opnd 0x240).toNat % L
  vecPlaced 0x274 1 anyType (fun va q => va.getD (q / L * L + (q % L + L - c) % L) 0) v s

/-- iota (R188). -/
def execVecIota (v : Word) (s : State) : Out :=
  let (_, L) := s.me.vgrant
  let a := (s.opnd 0x240).toInt
  let b := (s.opnd 0x241).toInt
  vecPlaced 0x270 0 intType
    (fun _ q => wrapTo (vecWidth (ctlType v)) (a + ((q / L : Nat) : Int) * b + ((q % L : Nat) : Int))) v s

/-- edge writes every element, ignoring ME and ZM (R186). -/
def execVecEdge (v : Word) (s : State) : Out :=
  match vecGate s 0x245 true v with
  | some (c, i) => s.trapA 0x245 v c i
  | none =>
    let (_, L) := s.me.vgrant
    let a := (s.opnd 0x240).toInt
    let b := (s.opnd 0x241).toInt
    let out := (List.range (vecCount s)).map fun q =>
      (decide (((q / L : Nat) : Int) < a ∧ ((q % L : Nat) : Int) < b)).toNat
    .next (vecDone none 0 2 (vecWrite s (v.bits 2 0) out))

/-- The draws of cvtsr over the elements, inactive ones included (R187). -/
def cvtsrRow (dst : FFmt) (satf zm : Bool) (key : Word) (act : List Bool) (as ds : List Nat) : List Nat × Word × Nat :=
  match act, as, ds with
  | t :: act, a :: as, d :: ds =>
    let k := xs64 key
    let (out, k', fl) := cvtsrRow dst satf zm k act as ds
    if t then
      let r := dst.convert (.sr (k.bits 63 48)) satf (fp32.decode a)
      (r.code :: out, k', r.flags ||| fl)
    else ((if zm then 0 else d) :: out, k', fl)
  | _, _, _ => ([], key, 0)

/-- The float format that cvtsr narrows to (R187). -/
def cvtsrTo (c : Nat) : Option FFmt :=
  match c with
  | 1 => some bf16
  | 2 => some fp16
  | 6 => some e4m3
  | 7 => some e5m2
  | _ => none

/-- cvtsr (R187). -/
def execVecCvtsr (v : Word) (s : State) : Out :=
  match vecGate s 0x260 (ctlType v == 0 && (cvtsrTo (ctlType2 v)).isSome) v with
  | some (c, i) => s.trapA 0x260 v c i
  | none =>
    let E := vecCount s
    let srcs := v.bits 5 3 :: maskRegs v
    match vecBad s srcs E with
    | some b => poolBadTrap s 0x260 v b 0
    | none =>
      let s := srcs.foldl (fun s m => s.poolScrub s.cur.1 (vecPlace s.cur.2 m) (4 * E)) s
      let st := s.me
      let (out, key, z) := cvtsrRow ((cvtsrTo (ctlType2 v)).getD bf16) st.satf (v.bit 25) st.srkey (vecActive s v E)
        (vecRead s (v.bits 5 3) E) (vecRead s (v.bits 2 0) E)
      let s := vecWrite s (v.bits 2 0) out
      .next (vecDone none z 4 (s.setMe { s.me with srkey := key }))

/-! ## Row reductions (R189) -/

/-- Combine two tree positions. -/
def combine (op : Nat → Nat → Nat × Nat) (x y : Option Nat) : Option Nat × Nat :=
  match x, y with
  | none, y => (y, 0)
  | x, none => (x, 0)
  | some a, some b => (some (op a b).1, (op a b).2)

/-- One level of the tree. A place beyond the row is EMPTY and leaves its neighbour unchanged. -/
def treeLevel (op : Nat → Nat → Nat × Nat) (xs : List (Option Nat)) : List (Option Nat) × Nat :=
  match xs with
  | x :: y :: r =>
    let (t, fl) := combine op x y
    let (ts, gl) := treeLevel op r
    (t :: ts, fl ||| gl)
  | _ => (xs, 0)

/-- All levels; six reduce a row of 64. -/
def tree (op : Nat → Nat → Nat × Nat) (xs : List (Option Nat)) (levels : Nat) : Option Nat × Nat :=
  match levels with
  | 0 => (xs.headD none, 0)
  | n + 1 =>
    let (ys, fl) := treeLevel op xs
    let (t, gl) := tree op ys n
    (t, fl ||| gl)

/-- The rows of VD after a reduction. -/
def reduceRows (op : Nat → Nat → Nat × Nat) (ident L : Nat) (rows : Nat) (as : List Nat) (act : List Bool) :
    List Nat × Nat :=
  match rows with
  | 0 => ([], 0)
  | n + 1 =>
    let lanes := (as.take L).zipWith (fun a t => if t then some a else none) (act.take L)
    let (t, fl) := tree op lanes 6
    let (out, gl) := reduceRows op ident L n (as.drop L) (act.drop L)
    (t.getD ident :: List.replicate (L - 1) 0 ++ out, fl ||| gl)

/-- A reduction. -/
def vecReduce (port : Nat) (op : Nat → Nat → Nat × Nat) (ident : Nat) (v : Word) (s : State) : Out :=
  match vecGate s port (arithType (ctlType v)) v with
  | some (c, i) => s.trapA port v c i
  | none =>
    let E := vecCount s
    let srcs := v.bits 5 3 :: (if v.bit 15 then [v.bits 14 12] else [])
    match vecBad s srcs E with
    | some b => poolBadTrap s port v b 0
    | none =>
      let s := srcs.foldl (fun s m => s.poolScrub s.cur.1 (vecPlace s.cur.2 m) (4 * E)) s
      let w := vecWidth (ctlType v)
      let (out, z) := reduceRows op ident s.me.vgrant.2 s.me.vgrant.1
        ((vecRead s (v.bits 5 3) E).map fun a => a % 2 ^ w) (vecActive s v E)
      .next (vecDone none z 6 (vecWrite s (v.bits 2 0) out))

def execVecRsum (v : Word) (s : State) : Out :=
  vecReduce 0x264 (fun a b => vecArith v (fun m x y _ => FVal.add m x y) (fun x y _ => x + y) a b 0) 0 v s

/-- The identity of rmax (low) or rmin (R189). -/
def pickIdent (ty : Nat) (low : Bool) : Nat :=
  let w := vecWidth ty
  match vecFmt ty with
  | .float f => f.infCode low
  | _ => if low then 2 ^ (w - 1) else 2 ^ (w - 1) - 1

def execVecRmax (v : Word) (s : State) : Out :=
  vecReduce 0x265 (fun a b => (vecPick (ctlType v) true a b, 0)) (pickIdent (ctlType v) true) v s
def execVecRmin (v : Word) (s : State) : Out :=
  vecReduce 0x266 (fun a b => (vecPick (ctlType v) false a b, 0)) (pickIdent (ctlType v) false) v s

/-! ## Memory operations (R190 to R192) -/

/-- An active element with its address: (container, address). -/
abbrev Elem := Nat × Word

/-- The addresses of vec.ld and vec.st (R190). -/
def rowAddr (s : State) (w L q : Nat) : Word :=
  s.opnd 0x240 + BitVec.ofNat 64 (q / L) * Word.sx (s.opnd 0x241) 32 + BitVec.ofNat 64 (q % L * (w / 8))

/-- The addresses of vec.gath and vec.scat (R190). -/
def indexAddr (s : State) (vb : List Nat) (q : Nat) : Word :=
  s.opnd 0x240 + Word.sx (BitVec.ofNat 64 (vb.getD q 0)) 32

/-- The active elements with their addresses, ascending. -/
def vecElems (act : List Bool) (addr : Nat → Word) : List Elem :=
  (List.range act.length).filterMap fun q => if act.getD q false then some (q, addr q) else none

/-- Order 4 of R191 for an address: its REASON. -/
def vecPlaceBad (s : State) (a : Word) : Option Nat :=
  match classify a with
  | .ok p =>
    match s.poolTarget s.cur.1 p with
    | none => some 2
    | some (_, off) => if region s.here.partword off == .register then some 3 else none
  | .error _ => none

/-- The checks of R191, order by order over the active elements, then the watch of R390: cause and SINFO. -/
def vecMemCheck (s : State) (contig : Bool) (w access : Nat) (es : List Elem) : Option (Nat × Word) :=
  let cls (e : Elem) : Bool := e.2.bits 63 56 == 0xF0 || (contig && e.2.bits 63 56 == 0xE1)
  let zero (e : Elem) : Bool := match classify e.2 with
    | .error 1 => true
    | _ => false
  match es.find? fun e => !cls e with
  | some e => some (0x0F, sinfo78 0 0 access e.2)
  | none =>
    match es.find? zero with
    | some e => some (0x0F, sinfo78 1 0 access e.2)
    | none =>
      match es.find? fun e => e.2.toNat % (w / 8) != 0 with
      | some e => some (0x0E, sinfo78 0 0 access e.2)
      | none =>
        (es.findSome? fun e => (vecPlaceBad s e.2).map fun r => (0x0F, sinfo78 r 0 access e.2)).or
          ((es.find? fun e => watchHit s access e.2).map fun e => (0x2E, sinfo78 0 0 access e.2))

/-- The tile and offset of an element that passed the checks. -/
def elemAt (s : State) (a : Word) : Nat × Nat :=
  match classify a with
  | .ok p => (s.poolTarget s.cur.1 p).getD (s.cur.1, 0)
  | .error _ => (s.cur.1, 0)

/-- A row for each active element, ascending (R190). -/
def elemRows (s : State) (ld : Bool) (w : Nat) (as : List Nat) (es : List Elem) : List VecRow :=
  es.map fun e =>
    let (u, off) := elemAt s e.2
    { tile := u, off := off, lanes := [(0, 4 * e.1)], data := if ld then [] else leBytes (as.getD e.1 0) (w / 8) }

/-- The rows of a sorus access, ascending: those that have active elements (R192). -/
def vecRows (s : State) (ld : Bool) (w L : Nat) (as : List Nat) (es : List Elem) (R : Nat) : List VecRow :=
  (List.range R).filterMap fun i =>
    match es.filter fun e => e.1 / L == i with
    | [] => none
    | e :: r =>
      let (u, off) := elemAt s e.2
      some { tile := u, off := off, lanes := (e :: r).map fun f => (f.1 - e.1, 4 * f.1)
             data := if ld then [] else (e :: r).flatMap fun f => leBytes (as.getD f.1 0) (w / 8) }

/-- A load or store of elements. -/
def vecMem (port : Nat) (ld contig : Bool) (v : Word) (s : State) : Out :=
  match vecGate s port true v with
  | some (c, i) => s.trapA port v c i
  | none =>
    let (R, L) := s.me.vgrant
    let E := R * L
    let w := vecWidth (ctlType v)
    let access := if ld then 0 else 1
    let act := vecActive s v E
    let vb := vecRead s (v.bits 8 6) E
    let es := vecElems act (if contig then rowAddr s w L else indexAddr s vb)
    match vecMemCheck s contig w access es with
    | some (c, i) => s.trapA port v c i
    | none =>
      let t := s.cur.1
      let srcs := (if ld then [] else [v.bits 5 3]) ++ (if contig then [] else [v.bits 8 6])
        ++ (if v.bit 15 then v.bits 14 12 :: (if ld && !v.bit 25 then [v.bits 2 0] else []) else [])
      let own := es.all fun e => (elemAt s e.2).1 == t
      let bad := (vecBad s srcs E).or
        (if ld && own then es.findSome? fun e => hasBad s.here.poolBad (elemAt s e.2).2 (w / 8) else none)
      match bad with
      | some b => poolBadTrap s port v b access
      | none =>
        let s := srcs.foldl (fun s m => s.poolScrub t (vecPlace s.cur.2 m) (4 * E)) s
        let as := vecRead s (v.bits 5 3) E
        let due := ownDue s ld !ld
        let L' := if contig then 4 else 6
        if !own || !due.isEmpty then
          let o : VecOp :=
            { load := ld, w := w / 8, vd := v.bits 2 0
              zero := if ld && v.bit 25 then ((List.range E).filter fun q => !act.getD q false).map (4 * ·) else []
              rows := if own then elemRows s ld w as es else vecRows s ld w L as es R
              pos := 0, got := [], trap := s.me.tl }
          let s := s.send t s.cur.2 (o.rows.head?.map VecRow.tile |>.getD t) (.vmem o)
            (if own then due else s.dueOrder ld (!ld) 2)
          if ld then .next (s.resultLate .vec (some 0) L') else .next (vecDone none 0 L' s)
        else
          let s := if ld then
              let ds := vecRead s (v.bits 2 0) E
              let addr := if contig then rowAddr s w L else indexAddr s vb
              let got (q : Nat) : Nat :=
                if !act.getD q false then (if v.bit 25 then 0 else ds.getD q 0)
                else leNat (s.poolRead t (elemAt s (addr q)).2 (w / 8))
              vecWrite (es.foldl (fun s e => s.poolScrub t (elemAt s e.2).2 (w / 8)) s) (v.bits 2 0) ((List.range E).map got)
            else es.foldl (fun s e => s.poolWrite t (elemAt s e.2).2 (leBytes (as.getD e.1 0) (w / 8))) s
          .next (vecDone none 0 L' s)

def execVecLd (v : Word) (s : State) : Out := vecMem 0x246 true true v s
def execVecSt (v : Word) (s : State) : Out := vecMem 0x247 false true v s
def execVecGath (v : Word) (s : State) : Out := vecMem 0x248 true false v s
def execVecScat (v : Word) (s : State) : Out := vecMem 0x249 false false v s

/-! ## Common registers (R193) -/

/-- The common register of element q. -/
def crOf (a : Word) (q : Nat) : Nat := (a.toNat + q) % 1024

/-- tocr: the active elements go to common registers; their number goes to vec.y. -/
def execVecTocr (v : Word) (s : State) : Out :=
  match vecGate s 0x26B true v with
  | some (c, i) => s.trapA 0x26B v c i
  | none =>
    let E := vecCount s
    let srcs := v.bits 5 3 :: (if v.bit 15 then [v.bits 14 12] else [])
    match vecBad s srcs E with
    | some b => poolBadTrap s 0x26B v b 0
    | none =>
      let s := srcs.foldl (fun s m => s.poolScrub s.cur.1 (vecPlace s.cur.2 m) (4 * E)) s
      let w := vecWidth (ctlType v)
      let value (c : Nat) : Word :=
        let x := BitVec.ofNat 64 c
        if intType (ctlType v) then Word.sx x w else Word.zx x w
      let act := vecActive s v E
      let as := vecRead s (v.bits 5 3) E
      let a := s.opnd 0x240
      let qs := (List.range E).filter fun q => act.getD q false
      let s := qs.foldl (fun s q => s.setCreg s.cur.1 (crOf a q) (value (as.getD q 0))) s
      .next (vecDone (some (BitVec.ofNat 64 qs.length)) 0 2 s)

/-- The common register with an uncorrectable error that an active element of fromcr reads (R181, R379). -/
def crBad (s : State) (v : Word) : Option Nat :=
  let act := vecActive s v (vecCount s)
  let qs := (List.range (vecCount s)).filter fun q => act.getD q false
  qs.findSome? fun q => hasBad s.here.poolBad (8 * crOf (s.opnd 0x240) q) 8

/-- fromcr (R193). -/
def execVecFromcr (v : Word) (s : State) : Out :=
  let a := s.opnd 0x240
  let t := s.cur.1
  match if (vecGate s 0x26C true v).isSome then none else crBad s v with
  | some b => poolBadTrap s 0x26C v b 0
  | none =>
    let s := if (vecGate s 0x26C true v).isSome then s
      else
        let act := vecActive s v (vecCount s)
        ((List.range (vecCount s)).filter fun q => act.getD q false).foldl (fun s q => s.poolScrub t (8 * crOf a q) 8) s
    vecPlaced 0x26C 0 anyType (fun _ q => (s.creg t (crOf a q)).toNat % 2 ^ vecWidth (ctlType v)) v s

/-! ## Claims (R171 to R174, R320) -/

/-- The weight of a claimant (R320). -/
def weight (st : Strand) : Nat := if st.prio then 2 else 1

/-- The account of a first grant (R320). -/
def firstShare (x : Tile) (k : Nat) : Int :=
  let w := weight (x.strand k)
  let others := ((slots.filter fun j => j != k && (x.strand j).vgrant.1 != 0).map fun j => weight (x.strand j)).sum
  ((x.q * w / (others + w) : Nat) : Int)

/-- shape (R171, R172). -/
def execVecShape (v : Word) (s : State) : Out :=
  let R := v.bits 4 0
  let L := v.bits 14 8
  if !s.here.hasVec s.cur.2 then s.trapA 0x244 v 0x1C (info1C 2 0x244)
  else if R ≠ 0 ∧ (16 < R ∨ L = 0 ∨ 64 < L ∨ 256 < R * L) then s.trapA 0x244 v 0x1C (info1C 1 0x244)
  else
    let req := if R = 0 then s.me.vreq else (R, L)
    if req.1 = 0 then .next (vecDone (some 0) 0 2 s)
    else
      let g := negotiate s s.cur.1 s.cur.2 req
      let st := s.me
      let acct := if st.vgrant.1 = 0 then firstShare s.here s.cur.2 else st.acct
      let s := s.setMe { st with vreq := req, acct := acct, next := { st.next with grant := some g } }
      .next (vecDone (some (BitVec.ofNat 64 (g.1 + 256 * g.2))) 0 2 s)

/-- A strand gives up its claim (R174). -/
def Strand.unclaim (st : Strand) : Strand :=
  { st with vreq := (0, 0), vgrant := (0, 0), acct := 0, next := { st.next with grant := none } }

/-- rel (R174). -/
def execVecRel (v : Word) (s : State) : Out :=
  if !s.here.hasVec s.cur.2 then s.trapA 0x275 v 0x1C (info1C 2 0x275)
  else .next (vecDone none 0 2 (s.setMe s.me.unclaim))

/-! ## What the issue asks of the unit -/

/-- The cost of an operation per 64 elements: on 32-bit types, on narrower ones (R194). -/
def vecCost (port ty : Nat) : Nat × Nat :=
  if port = 0x246 ∨ port = 0x247 ∨ port = 0x26B ∨ port = 0x26C then (6, 4)
  else if port = 0x248 ∨ port = 0x249 then (10, 8)
  else if 0x24C ≤ port ∧ port ≤ 0x24F then (8, 5)
  else if port = 0x24A ∨ port = 0x24B ∨ (0x250 ≤ port ∧ port ≤ 0x253) ∨ port = 0x26D ∨ port = 0x26E ∨ port = 0x26F then
    (if intType ty then (3, 3) else (4, 3))
  else if 0x25A ≤ port ∧ port ≤ 0x25D then (3, 3)
  else if port = 0x25F ∨ port = 0x260 then (4, 4)
  else if 0x264 ≤ port ∧ port ≤ 0x266 then (6, 5)
  else if 0x267 ≤ port ∧ port ≤ 0x269 then (12, 8)
  else if port = 0x244 ∨ port = 0x275 then (0, 0)
  else (2, 2)

/-- The charge of a vector trigger under the strand's grant (R194). -/
def vecCharge (s : State) (port : Nat) (v : Word) : Nat :=
  let ty := ctlType v
  let wide := vecWidth ty == 32 || ((port == 0x25F || port == 0x260) && vecWidth (ctlType2 v) == 32)
  let (a, b) := vecCost port ty
  (if wide then a else b) * ((vecCount s + 63) / 64)

/-- A store to the own pool meets a locked reservation (R235). -/
def vecLockedOut (s : State) (port : Nat) (v : Word) : Bool :=
  if port = 0x247 ∨ port = 0x249 then
    match vecGate s port true v with
    | some _ => false
    | none =>
      let (R, L) := s.me.vgrant
      let E := R * L
      let w := vecWidth (ctlType v)
      let es := vecElems (vecActive s v E)
        (if port = 0x247 then rowAddr s w L else indexAddr s (vecRead s (v.bits 8 6) E))
      (vecMemCheck s (port == 0x247) w 1 es).isNone &&
        es.any fun e => (elemAt s e.2).1 == s.cur.1 && s.lockedOut s.cur.1 (elemAt s e.2).2 (w / 8)
  else false

end Sys2Proof.Machine
end

