-- ==== Sys2Proof/Machine/Launch.lean ====
section
/-! DEFINITION. Work queues, launch records, placement, loading, the start of control strands, and completion (R302 to R312,
R323, R324, R366, R372, R374, R376, R392). -/
namespace Sys2Proof.Machine

/-! ## HBM as the sequencer reads it -/

/-- Translate for the sequencer in a context (R80 to R85). -/
def seqXl (s : State) (ctx : Nat) (va : Word) (wr : Bool) : Option Nat :=
  match pageAccess va true wr (walkTables s ctx va) with
  | .ok pa => some pa
  | .fault _ _ _ _ => none

/-- The sequencer's access to one of these runs of HBM waits at the controller of a channel in training (R422). -/
def State.trains (s : State) (rs : List (Nat × Nat)) : Bool :=
  (s.hbmCh.any fun e => e.2.ctl.getLsbD 1) && rs.any fun r => (linesOf r.1 r.2).any fun i => s.training (64 * i)

/-- What the sequencer reads is corrected where it can be; an error that cannot be is logged and raises the error vector, and the
bytes are used as they stand (R380; log entry 22). -/
def State.devRead (s : State) (r : Nat × Nat) : State :=
  if isHost r.1 then s
  else if s.hbmFault r.1 r.2 then (s.hbmLog r.1 (s.errLevel r.1 r.2)).errIntr
  else s.hbmScrub r.1 r.2

def State.devReads (s : State) (rs : List (Nat × Nat)) : State := rs.foldl State.devRead s

/-- The sequencer translates an address (R380). -/
def State.devWalk (s : State) (ctx : Nat) (va : Word) : State :=
  match walkTables s ctx va with
  | .bad _ _ => (s.walked ctx va).errIntr
  | _ => s.walked ctx va

/-- The sequencer writes bytes at a PA; a channel out of service takes none (R422). -/
def State.devWrite (s : State) (pa : Nat) (bs : List Byte) : State :=
  if s.chanDown pa then (s.hbmLog pa 3).errIntr else s.paWrite pa bs

/-- n bytes at a PA as an unsigned value. -/
def State.paNat (s : State) (pa n : Nat) : Nat := leNat (s.paRead pa n)

/-- Write a value of n bytes at a PA. -/
def State.paSet (s : State) (pa n v : Nat) : State := s.devWrite pa (leBytes v n)

/-- The partition save descriptor of a partition (R356). -/
def State.psdAt (s : State) (p : Nat) : Nat := s.psbase.bits 51 12 * 4096 + 128 * p

/-- A field of the descriptor. -/
def State.psd (s : State) (p off n : Nat) : Nat := s.paNat (s.psdAt p + off) n

/-- The descriptor of a partition, as a run of HBM. -/
def State.psdRun (s : State) (p : Nat) : Nat × Nat := (s.psdAt p, 128)

/-- Set a partition's STATE, in the machine and in its descriptor (R356). -/
def State.setPState (s : State) (p v : Nat) : State :=
  (s.setPart p { (s.part p) with state := v }).paSet (s.psdAt p + 82) 1 v

/-! ## Queues and doorbells (R304, R392) -/

/-- An entry of the queue table. -/
structure QEnt where
  ring : Word
  n : Nat
  weight : Nat
  ctx : Nat
  part : Nat
deriving DecidableEq, Repr

/-- Where a queue's entry lies. -/
def State.qentAt (s : State) (q : Nat) : Nat := s.qtbase.bits 51 12 * 4096 + 32 * q

/-- The entry of a queue; none: EN = 0 or a field out of range. -/
def State.qent (s : State) (q : Nat) : Option QEnt :=
  let a := s.qentAt q
  let e : QEnt := { ring := s.pa64 a, n := s.paNat (a + 8) 1, weight := s.paNat (a + 9) 1, ctx := s.paNat (a + 10) 2
                    part := s.paNat (a + 12) 2 }
  let zero := s.paNat (a + 15) 1 == 0 && s.paNat (a + 20) 12 == 0
  if s.paNat (a + 14) 1 = 1 ∧ e.ring.bits 7 0 = 0 ∧ 4 ≤ e.n ∧ e.n ≤ 16 ∧ 1 ≤ e.weight ∧ e.weight ≤ 16 ∧ e.part < 288 ∧ zero
  then some e else none

def State.queue (s : State) (q : Nat) : Queue := Map.find { head := 0, tail := 0 } s.queues q

/-- DOORBELL: an aligned 8-byte write supplies TAIL; other writes are dropped, one to a bad entry is logged. A TAIL equal to
HEAD leaves the queue without a record (R304, R377). -/
def execDoorbell (iod off size : Nat) (v : Word) (s : State) : Out :=
  if size ≠ 8 ∨ off % 8 ≠ 0 ∨ 0x80000 ≤ off ∨ v.bits 63 32 ≠ 0 then .next s
  else
    let q := 65536 * iod + off / 8
    match s.qent q with
    | none => .next (s.log (logIod iod) 9 0 iod (BitVec.ofNat 64 off) (BitVec.ofNat 64 q))
    | some e =>
      let u := s.queue q
      if 2 ^ e.n < (v.bits 31 0 + 2 ^ 32 - u.head) % 2 ^ 32 then .next s
      else
        .next { s with
          queues := Map.set s.queues q { u with tail := v.bits 31 0 }
          idleSince := if u.tail ≠ u.head ∧ v.bits 31 0 = u.head then s.time else s.idleSince }

/-- HEAD moves past the head record and is written to the queue table. -/
def State.advance (s : State) (q : Nat) : State :=
  let u := s.queue q
  let h := (u.head + 1) % 2 ^ 32
  { s with queues := Map.set s.queues q { u with head := h }, idleSince := s.time }.paSet (s.qentAt q + 16) 4 h

/-! ## Completion (R324, R376, R381) -/

/-- The launches that hold sori. -/
def State.placed (s : State) : List Launch := (s.launches.map Prod.snd).filter fun l => 1 ≤ l.phase

/-- Sori of the package that a launch holds, over all launches. -/
def State.busySori (s : State) : List Nat := s.placed.flatMap Launch.sori

/-- The compute part of the split of each class, in hundredths (R376). -/
def splitOf (pclass : Nat) : Nat := if pclass = 0 then 80 else if pclass = 2 then 55 else 65

/-- The split is recomputed: the share of a compute die in mW, idle sori counting as balanced (R376). -/
def State.powerSplit (s : State) : State :=
  let used := (s.placed.map fun l => l.sori.length).sum
  let sum := (s.placed.map fun l => l.sori.length * splitOf l.record.pclass).sum + (288 - used) * 65
  { s with dieShare := 3300000 * sum / 28800 / 8 }

/-- The last steps for a record: TDONE, STATUS, the completion semaphore, the host interrupt (R302, R324). -/
def State.finishRecord (s : State) (r : Record) (status : Nat) : State :=
  let s := s.devWrite (r.pa + 240) (leBytes s.time 8 ++ leBytes status 4 ++ zeros 4)
  let s := match r.csem with
    | some pa => (s.devRead (pa, 4)).paSet pa 4 (s.paNat pa 4 + r.cinc)
    | none => s
  if !r.hint then s
  else if r.msiv < 2048 then s.hostIntr (Config.queueFunction r.queue % 256) r.msiv
  else s.log (logIod (r.queue / 65536)) 9 0 (r.queue / 65536) r.va (BitVec.ofNat 64 (r.msiv * 2 ^ 32 + r.queue))

/-! ## Reading and checking a record (R302, R303) -/

/-- The record in 256 bytes, its DEP and CSEM VAs still to be translated. -/
def parseRecord (bs : List Byte) (q : Nat) (va : Word) (pa : Nat) : Record :=
  let g (off n : Nat) : Nat := leNat ((bs.drop off).take n)
  let w (off : Nat) : Word := BitVec.ofNat 64 (g off 8)
  { va := va, queue := q, ver := g 0 1, pri := g 1 1 % 4, pclass := g 1 1 / 4 % 4, hint := g 1 1 / 16 % 2 == 1
    msiv := g 2 2, obj := w 8, hash := (bs.drop 16).take 32, arg := w 48, lid := w 56, partword := w 64, x := g 72 2
    y := g 74 2, pa := pa, deps := [], csem := none, cinc := g 136 4, tnote := g 140 4, snote := g 144 4
    reserved := g 1 1 / 32 != 0 || g 4 4 != 0 || g 76 4 != 0 || g 148 92 != 0 }

/-- The DEP VAs of a record that are not 0, with their thresholds. -/
def recordDeps (bs : List Byte) : List (Word × Nat) :=
  ([0, 1, 2, 3].map fun d =>
      (BitVec.ofNat 64 (leNat ((bs.drop (80 + 12 * d)).take 8)), leNat ((bs.drop (88 + 12 * d)).take 4))).filter
    fun e => e.1 != 0

/-- A note that names one, with a tile outside the shape (R303 order 2, R323). -/
def noteBad (n cells : Nat) : Bool := (n / 2 ^ 31 == 1 || n / 2 ^ 16 % 256 != 0xFF) && decide (cells ≤ n % 65536)

/-- The object a record names, in the context's memory (log entry 6). -/
def State.findObj (s : State) (ctx : Nat) (va : Word) : Option Nat := s.objects.findIdx? fun o => o.ctx == ctx && o.va == va

/-- Every page of a run can be read. -/
def readable (s : State) (ctx : Nat) (va : Word) (n : Nat) : Bool :=
  (List.range ((va.bits 15 0 + n + 65535) / 65536)).all fun i =>
    (seqXl s ctx (if i = 0 then va else BitVec.ofNat 64 ((va.toNat / 65536 + i) * 65536)) false).isSome

/-- PARTWORD refused by R111. -/
def partwordBad (w : Word) : Bool :=
  let regs := w.bits 7 0
  let acc := w.bits 15 8
  w.bits 63 16 != 0 || decide (regs < 1 ∨ 9 < regs ∨ 64 < regs + acc)

/-- Sori of a partition that are in service. -/
def State.partSori (s : State) (p : Nat) : List Nat := (s.part p).sori.filter fun k => !s.outSori.contains k

/-- Sori of a shape (R308). -/
def soriOf (x y : Nat) : Nat := (x + 3) / 4 * ((y + 3) / 4)

/-- Checks 2 to 6 of R303, with the header check before 4: a STATUS, 0 for none. -/
def checkRecord (s : State) (e : QEnt) (r : Record) (misaligned : Bool) (o : Option KObj) : Nat :=
  let cells := r.x * r.y
  if r.ver ≠ 1 ∨ r.pclass = 3 ∨ r.reserved ∨ misaligned ∨ noteBad r.tnote cells ∨ noteBad r.snote cells then 1
  else if r.x = 0 ∨ r.y = 0 ∨ (s.partSori e.part).length < soriOf r.x r.y then 2
  else
    match o with
    | none => 6
    | some o =>
      if o.badHead then 6
      else if o.torus.isSome ∧ o.torus ≠ some (r.x, r.y) then 3
      else if partwordBad r.partword ∨ r.partword ≠ o.partword then 4
      else if r.hash ≠ o.hash then 5
      else 0

/-- Checks 7 and 8 of R303, made at loading. -/
def checkLoad (r : Record) (o : KObj) : Nat :=
  if o.badBody ∨ 512 < o.table.length ∨ (!o.overlays.isEmpty ∧ 256 < o.table.length) then 6
  else if 0x100000 - 0x4000 * (r.partword.bits 7 0 + r.partword.bits 15 8) < o.data.length then 7
  else 0

/-- The launch of a queue that waits to be placed. -/
def State.waiting (s : State) (q : Nat) : Option (Nat × Launch) :=
  s.launches.find? fun e => e.2.phase == 0 && e.2.record.queue == q

/-- The VA of a queue's head record. -/
def State.headAt (s : State) (q : Nat) (e : QEnt) : Word := e.ring + BitVec.ofNat 64 (256 * ((s.queue q).head % 2 ^ e.n))

/-- The addresses that the sequencer translates for a record: its own, and those of its DEPs, CSEM and object. -/
def recordVas (va : Word) (bs : List Byte) : List Word :=
  let w (off : Nat) : Word := BitVec.ofNat 64 (leNat ((bs.drop off).take 8))
  va :: ((recordDeps bs).map Prod.fst ++ [w 8]) ++ if w 128 = 0 then [] else [w 128]

/-- What RECORD_TAKE reads of HBM: the queue's entry, the record, and the walks. -/
def State.recordRuns (s : State) (q : Nat) (e : QEnt) : List (Nat × Nat) :=
  let va := s.headAt q e
  let walk (v : Word) : List (Nat × Nat) := (s.walk e.ctx v).1.map fun a => (a, 8)
  (s.qentAt q, 32) :: match seqXl s e.ctx va true with
    | none => walk va
    | some pa => (pa, 256) :: (recordVas va (s.paRead pa 256)).flatMap walk

/-- RECORD_TAKE: the head record is read and checked; it is refused, or waits for its dependences and a place. -/
def execRecordTake (q : Nat) (s : State) : Out :=
  let u := s.queue q
  match s.qent q with
  | none => .next s
  | some e =>
    if u.head = u.tail ∨ (s.waiting q).isSome ∨ s.trains (s.recordRuns q e) then .next s
    else
      let va := s.headAt q e
      let s := s.devReads (s.recordRuns q e)
      match seqXl s e.ctx va true with
      | none =>
        let s := s.log (logIod (q / 65536)) 8 0 (q / 65536) va (BitVec.ofNat 64 q)
        .next (s.errIntr.advance q)
      | some pa =>
        let bs := s.paRead pa 256
        let r := parseRecord bs q va pa
        let deps := recordDeps bs
        let csemVa : Word := BitVec.ofNat 64 (leNat ((bs.drop 128).take 8))
        let csem := if csemVa = 0 then none else seqXl s e.ctx csemVa true
        let pas := deps.filterMap fun d => (seqXl s e.ctx d.1 false).map fun p => (p, d.2)
        let r := { r with deps := pas, csem := csem }
        let idx := s.findObj e.ctx r.obj
        let o := idx.bind fun i => s.objects[i]?
        let size := match o with
          | some o => o.size
          | none => 64
        let fault := pas.length != deps.length || (csemVa != 0 && csem.isNone) || !readable s e.ctx r.obj size
        let mis := (deps.any fun d => d.1.bits 1 0 != 0) || csemVa.bits 1 0 != 0 || r.obj.bits 5 0 != 0
        let status := if fault then 8 else checkRecord s e r mis o
        if status ≠ 0 then .next ((s.finishRecord r status).advance q)
        else
          let l : Launch :=
            { record := r, ctx := e.ctx, part := e.part, phase := 0, status := 0, sori := [], tiles := [], doneTiles := [],
              doneSori := [], doneAt := 0, objIdx := idx.getD 0 }
          .next { s with launches := Map.set s.launches s.nextId l, nextId := s.nextId + 1 }

/-! ## Arbitration (R305 to R307) -/

/-- Every dependence of a record is met, as its semaphores stand at the home L2 (R306). -/
def State.ready (s : State) (r : Record) : Bool := r.deps.all fun d => serialGe (s.paNat d.1 4) d.2 32

/-- Records of queue q's earlier launches have all started (R305). -/
def State.started (s : State) (id q : Nat) : Bool :=
  s.launches.all fun e => e.2.record.queue != q || e.1 == id || decide (2 ≤ e.2.phase ∨ id < e.1)

/-- The launches that wait for a place on a partition with their dependences met. -/
def State.readyOn (s : State) (p : Nat) : List (Nat × Launch) :=
  s.launches.filter fun e => e.2.phase == 0 && e.2.part == p && s.ready e.2.record

def Arb.reset : Arb := { queue := 0, used := 0, cand := none }

/-- The visit of a level on a partition (R307): key 4p + level. -/
def State.visit (s : State) (p lvl : Nat) : Arb := Map.find Arb.reset s.arb (4 * p + lvl)

/-- A queue bound to the partition holds a record that has not been read. -/
def State.unread (s : State) (p : Nat) : Bool :=
  s.queues.any fun e => e.2.head != e.2.tail && (s.waiting e.1).isNone &&
    match s.qent e.1 with
    | some q => q.part == p
    | none => false

/-- The choice among ready records of the highest level: the visited queue while its weight is left, else the next
higher queue, else the lowest (R307). -/
def chooseQueue (s : State) (p lvl : Nat) (qs : List Nat) : Option (Nat × Arb) :=
  let a := s.visit p lvl
  let weight := match s.qent a.queue with
    | some e => e.weight
    | none => 0
  if qs.contains a.queue ∧ 0 < a.used ∧ a.used < weight then some (a.queue, { a with used := a.used + 1 })
  else
    let next := (qs.filter fun q => decide (a.queue < q) || (a.used == 0 && q == a.queue))
    match (if next.isEmpty then qs else next).min? with
    | some q => some (q, { a with queue := q, used := 1 })
    | none => none

/-- The visit of a level ends where its queue's head is not a ready record of the level. -/
def endVisits (s : State) (p : Nat) (ready : List (Nat × Launch)) : State :=
  [0, 1, 2, 3].foldl (fun s lvl =>
    let a := s.visit p lvl
    if a.used = 0 ∨ (ready.any fun e => e.2.record.queue == a.queue && e.2.record.pri == lvl) then s
    else { s with arb := Map.set s.arb (4 * p + lvl) { a with used := 17 } }) s

/-- Choose the only candidate of a partition. -/
def chooseCand (s : State) (p : Nat) : State :=
  let ready := s.readyOn p
  let s := endVisits s p ready
  match (ready.map fun e => e.2.record.pri).max? with
  | none => s
  | some lvl =>
    let mine := ready.filter fun e => e.2.record.pri == lvl
    match chooseQueue s p lvl (mine.map fun e => e.2.record.queue) with
    | none => s
    | some (q, a) =>
      let id := ((mine.find? fun e => e.2.record.queue == q).map Prod.fst).getD 0
      let s := { s with arb := Map.set s.arb (4 * p + lvl) { a with cand := (s.visit p lvl).cand } }
      { s with arb := Map.set s.arb (4 * p) { (s.visit p 0) with cand := some id } }

/-! ## Placement and loading (R308, R309, R366, R372, R374) -/

/-- A list of pairs sorted rising by key. -/
def least (f : Nat → Nat × Nat) (xs : List Nat) : Option Nat :=
  xs.foldl (fun b k => match b with
    | none => some k
    | some j => if (f k).1 < (f j).1 ∨ ((f k).1 = (f j).1 ∧ (f k).2 < (f j).2) then some k else some j) none

/-- The classes of the launches on a die, once per occupied sorus (R374). -/
def State.dieLoad (s : State) (d : Nat) : Nat :=
  (s.placed.map fun l => ((l.sori.filter fun k => k / 36 == d).length) * ((s.objects[l.objIdx]?).map KObj.cls).getD 1).sum

/-- Place n logical sori one after another on the free sorus of the least loaded die, then the lowest (R374). -/
def pickSori (s : State) (cls n : Nat) (free : List Nat) (extra : Nat → Nat) : List Nat :=
  match n with
  | 0 => []
  | n + 1 =>
    match least (fun k => (s.dieLoad (k / 36) + extra (k / 36), k)) free with
    | none => []
    | some k => k :: pickSori s cls n (free.filter (· != k)) fun d => extra d + if d = k / 36 then cls else 0

/-- The physical column that stands at a column place of a row band: a spare where one was mapped in (R384). -/
def State.columnAt (s : State) (die band col : Nat) : Nat :=
  match Map.get? s.spares (die * 6 + band) with
  | some c => if c = col then 24 else col
  | none => col

/-- The TILEID of a place in a physical sorus (R122, R367, log entry 14). -/
def State.placeTile (s : State) (sorus cx cy : Nat) : Nat :=
  let die := sorus / 36
  let band := sorus % 36 / 6
  die * 1024 + s.columnAt die band (4 * (sorus % 6) + cx) * 32 + 4 * band + cy

/-- The logical sorus of a logical tile (R308). -/
def logicalSorus (x lt : Nat) : Nat := lt / x / 4 * ((x + 3) / 4) + lt % x / 4

/-- The TILEIDs of a shape on sori (R308, R367). -/
def State.mapTiles (s : State) (x y : Nat) (sori : List Nat) : List Nat :=
  (List.range (x * y)).map fun lt => s.placeTile (sori.getD (logicalSorus x lt) 0) (lt % x % 4) (lt / x % 4)

/-- Q0 and MQ0 of a class (R372). -/
def quota (pclass : Nat) : Nat × Nat :=
  match pclass with
  | 0 => (1024, 256)
  | 1 => (2048, 224)
  | _ => (2048, 160)

/-- A tile loaded for a launch: registers, table, pool with the data image, everything else empty (R309); the setting of its
ballast is its stipe controller's (R369). -/
def loadTile (x : Tile) (id lt : Nat) (l : Launch) (o : KObj) : Tile :=
  let base := 0x4000 * (l.record.partword.bits 7 0 + l.record.partword.bits 15 8)
  let (q, mq) := quota l.record.pclass
  { Tile.reset with
    loaded := true, launch := id, ltile := lt, ctx := BitVec.ofNat 16 l.ctx, partword := l.record.partword, hwin := o.hwin
    pool := Memory.writeBytes [] base o.data, table := (List.range o.table.length).zip o.table, cycle := x.cycle, q := q
    mq := mq, mbudget := 2 * mq, refillAt := x.cycle + 256, counters := x.counters, watched := x.watched, bal := x.bal, rf := 8 }

/-- The four tiles of a stipe place of a sorus. -/
def State.stipeTiles (s : State) (sorus col : Nat) : List Nat := [0, 1, 2, 3].map fun pos => s.placeTile sorus col pos

/-- Unloaded tiles of a stipe that carries loaded ones start with BAL = 1 (R374). -/
def ballastRest (s : State) (tiles : List Nat) (sori : List Nat) : State :=
  (sori.flatMap fun k => [0, 1, 2, 3].flatMap fun c =>
      let ts := s.stipeTiles k c
      if ts.any tiles.contains then ts.filter fun t => !tiles.contains t else []).foldl
    (fun s t => s.setTile t { (s.tile t) with bal := true }) s

/-- The core and route tables of the context (R366). -/
def writeTables (s : State) (p x y : Nat) (tiles : List Nat) : State :=
  let core := s.psd p 64 8
  let route := s.psd p 72 8
  (List.range (x * y)).foldl (fun s lt =>
    let s := s.paSet (core + 4 * lt) 4 (2 ^ 31 + tiles.getD lt 0)
    s.devWrite (route + 16 * lt)
      (([1, 2, 3, 4].flatMap fun d => leBytes (tiles.getD (neighbour x y lt d) 0) 2) ++ zeros 8)) s

/-- Load every tile of a launch on sori. -/
def loadLaunch (s : State) (id : Nat) (l : Launch) (o : KObj) (sori : List Nat) : State :=
  let tiles := s.mapTiles l.record.x l.record.y sori
  let l := { l with phase := 1, sori := sori, tiles := tiles }
  let s := { s with launches := Map.set s.launches id l }
  let s := (List.range tiles.length).foldl (fun s lt =>
    let t := tiles.getD lt 0
    s.setTile t (loadTile (s.tile t) id lt l o)) s
  let s := ballastRest s tiles sori
  let s := writeTables s l.part l.record.x l.record.y tiles
  let s := if (s.part l.part).state = 0 then s.setPState l.part 1 else s
  let p := s.part l.part
  let per := s.psd l.part 84 4
  let s := if per ≠ 0 ∧ p.nextCk = none then s.setPart l.part { p with nextCk := some (s.time + 1000 * per) } else s
  s.powerSplit

/-- The candidate of a partition. -/
def State.candOf (s : State) (p : Nat) : Option (Nat × Launch) :=
  match (s.visit p 0).cand with
  | some id => (Map.get? s.launches id).map fun l => (id, l)
  | none => none

/-- Forget the candidate of a partition. -/
def State.dropCand (s : State) (p : Nat) : State := { s with arb := Map.set s.arb (4 * p) { (s.visit p 0) with cand := none } }

/-- Free sori of a partition. -/
def State.freeSori (s : State) (p : Nat) : List Nat := (s.partSori p).filter fun k => !s.busySori.contains k

/-- The candidate is placed where its turn has come and its sori are free. -/
def placeCand (s : State) (p id : Nat) (l : Launch) : State :=
  let need := soriOf l.record.x l.record.y
  let free := s.freeSori p
  if !s.started id l.record.queue || free.length < need then s
  else
    match s.objects[l.objIdx]? with
    | none => s
    | some o =>
      let s := (s.dropCand p).advance l.record.queue
      let st := checkLoad l.record o
      if st ≠ 0 then { s with launches := Map.erase s.launches id }.finishRecord l.record st
      else loadLaunch s id l o (pickSori s o.cls need free fun _ => 0)

/-- What a placement on the partition can read or write of HBM: its descriptor, the dependences of the records that wait for it, and its core and
route tables. -/
def State.placeRuns (s : State) (p : Nat) : List (Nat × Nat) :=
  s.psdRun p :: (s.launches.filter fun e => e.2.phase == 0 && e.2.part == p).flatMap fun e =>
    let n := e.2.record.x * e.2.record.y
    (s.psd p 64 8, 4 * n) :: (s.psd p 72 8, 16 * n) :: e.2.record.deps.map fun d => (d.1, 4)

/-- PLACEMENT: the arbiter chooses a ready record of the partition, and places it once it has room (R307). -/
def execPlacement (p : Nat) (s : State) : Out :=
  if 2 ≤ (s.part p).state ∨ (s.part p).phase ≠ 0 ∨ s.trains (s.placeRuns p) then .next s
  else
    match s.candOf p with
    | some (id, l) => .next (placeCand s p id l)
    | none =>
      if s.unread p then .next s
      else
        let s := chooseCand s p
        match s.candOf p with
        | some (id, l) => .next (placeCand s p id l)
        | none => .next s

/-! ## Start (R116, R309) -/

/-- The control strand of a tile at entry (R116). -/
def controlStrand (x : Tile) (l : Launch) (o : KObj) : Strand :=
  let lt : Word := BitVec.ofNat 64 x.ltile
  let key := l.record.lid ^^^ (lt <<< 32) ^^^ 0x9E3779B97F4A7C15
  Strand.fresh o.entry [lt, l.record.arg, l.record.lid, ownBase, sorusBase] (o.lock.zeroExtend 24) o.fmt key x.cycle
    (x.strand 0)

/-- CONTROL_STRAND_START: every control strand of a loaded launch starts at one TIME (R309). -/
def execControlStrandStart (id : Nat) (s : State) : Out :=
  match Map.get? s.launches id with
  | none => .next s
  | some l =>
    match s.objects[l.objIdx]? with
    | none => .next s
    | some o =>
      if l.phase ≠ 1 ∨ (s.part l.part).phase ≠ 0 then .next s
      else
        let s := { s with launches := Map.set s.launches id { l with phase := 2 } }
        .next (l.tiles.foldl (fun s t =>
          let x := s.tile t
          s.setTile t ({ x with refillAt := x.cycle + 256 }.setStrand 0 (controlStrand x l o))) s)

/-! ## Completion of tiles, sori and launches (R312, R323, R324) -/

/-- What tiles have sent that is still on its way, barrier packets apart: their completion releases it (R323). -/
def State.sentBy (s : State) (ts : List Nat) : List Nat :=
  (s.flight.filter fun q => ts.contains q.src && !(q.body matches .barReport _ _) && !(q.body matches .barRelease _ _ _)).map
    Packet.id

/-- Perform a note from a tile (R323): a semaphore increment, or a 0x36 interrupt with a payload, after what the tiles that
it completes have sent. -/
def sendNote (s : State) (t note pay : Nat) (of : List Nat) : State :=
  if note / 2 ^ 31 ≠ 1 ∧ note / 2 ^ 16 % 256 = 0xFF then s
  else
    match s.physical t (note % 65536) with
    | none => s
    | some u =>
      if note / 2 ^ 31 = 1 then
        (s.send t 16 u (.ipi (note / 2 ^ 24 % 16) (BitVec.ofNat 64 ((s.tile t).ltile % 65536 * 2 ^ 32 + pay % 2 ^ 32)))
          (s.sentBy of)).countSent t
      else s.send t 16 u (.sem (note / 2 ^ 16 % 256) 1 false) (s.sentBy of)

/-- A note of one of these tiles is still to be performed. -/
def State.notesOut (s : State) (ts : List Nat) : Bool :=
  s.flight.any fun q => ts.contains q.src && q.slot == 16 && match q.body with
    | .ipi _ _ | .sem _ _ _ => true
    | _ => false

/-- A tile whose barrier count is still open contributes by itself once complete (R338). -/
def closeBarriers (s : State) (t : Nat) : State :=
  (List.range 16).foldl (fun s b =>
    let v := (s.tile t).bar b
    if v.cont then s else s.send t 16 t (.barReport b (s.tile t).ltile) v.after) s

/-- The tile is complete: its armed entries are discarded, its TNOTE is performed (R312, R323). -/
def completeTile (s : State) (t : Nat) : State :=
  match s.launchOf t with
  | none => s
  | some l =>
    let x := s.tile t
    let s := s.setTile t { x with done := true, wtt := [] }
    let s := { s with launches := Map.set s.launches x.launch { l with doneTiles := x.ltile :: l.doneTiles } }
    closeBarriers (sendNote s t l.record.tnote x.ltile [t]) t

/-- The logical tiles of a logical sorus inside the shape. -/
def sorusTiles (x y o : Nat) : List Nat := (List.range (x * y)).filter fun lt => logicalSorus x lt == o

/-- SORUS_COMPLETE: every tile of a logical sorus has completed, and its SNOTE is performed (R323). -/
def execSorusComplete (id o : Nat) (s : State) : Out :=
  match Map.get? s.launches id with
  | none => .next s
  | some l =>
    let lts := sorusTiles l.record.x l.record.y o
    if l.phase ≠ 2 ∨ lts.isEmpty ∨ l.doneSori.contains o ∨ !(lts.all l.doneTiles.contains) then .next s
    else
      let s := { s with launches := Map.set s.launches id { l with doneSori := o :: l.doneSori, doneAt := s.time } }
      match l.doneTiles.find? lts.contains with
      | some lt => .next (sendNote s (l.tiles.getD lt 0) l.record.snote (0x10000 + o) (lts.map fun i => l.tiles.getD i 0))
      | none => .next s

/-- A tile that leaves its launch: its clock, counters and stipe settings go on. -/
def unloadTile (x : Tile) : Tile :=
  { Tile.reset with cycle := x.cycle, counters := x.counters, bal := x.bal, rf := x.rf }

/-- A tile whose launch has ended: memories, semaphores, table and the registers of its strands stand, under the tile's
logical number, until the tile is loaded again (R309, R324, R403, R408; log entry 72). -/
def endTile (x : Tile) : Tile :=
  { unloadTile x with
    done := x.done, launch := x.launch, ltile := x.ltile, ctx := x.ctx, partword := x.partword, hwin := x.hwin
    pool := x.pool, poolBad := x.poolBad, poolWeak := x.poolWeak, opmem := x.opmem, opBad := x.opBad, opWeak := x.opWeak
    scale := x.scale, scaleBad := x.scaleBad, scaleWeak := x.scaleWeak, table := x.table, overlay := x.overlay
    sems := x.sems, strands := x.strands.map fun e => (e.1, e.2.ended), inbox := x.inbox, ingress := x.ingress
    cellBad := x.cellBad, cellWeak := x.cellWeak }

/-- Tiles whose launch has ended. -/
def endTiles (s : State) (tiles : List Nat) : State := tiles.foldl (fun s t => s.setTile t (endTile (s.tile t))) s

/-- Tiles that leave their launch. -/
def unloadTiles (s : State) (tiles : List Nat) : State := tiles.foldl (fun s t => s.setTile t (unloadTile (s.tile t))) s

/-- A launch ends with a STATUS: its record is completed, its packets are gone and its sori are free (R324). -/
def endLaunch (s : State) (id : Nat) (l : Launch) (status : Nat) : State :=
  let s := s.finishRecord l.record status
  let s := { s with flight := s.flight.filter fun q => !l.tiles.contains q.dst && !l.tiles.contains q.src }
  let s := endTiles s l.tiles
  let s := { s with launches := Map.erase s.launches id }
  let last := !(s.launches.any fun e => e.2.part == l.part && e.2.phase != 0) && (s.part l.part).state == 1
  let s := if last then s.setPState l.part 0 else s
  let s := if last then s.setPart l.part { (s.part l.part) with nextCk := none } else s
  { s.powerSplit with idleSince := s.time }

/-- LAUNCH_COMPLETE: every logical sorus has completed and every note is performed; with periodic checkpoints the steps wait for the next one (R324,
R381). -/
def execLaunchComplete (id : Nat) (s : State) : Out :=
  match Map.get? s.launches id with
  | none => .next s
  | some l =>
    if l.part = 288 ∨ l.phase < 2 ∨ l.doneSori.length < soriOf l.record.x l.record.y ∨ (s.part l.part).phase ≠ 0
        ∨ s.trains (s.psdRun l.part :: (l.record.pa + 240, 16) :: (l.record.csem.toList.map fun a => (a, 4))) then .next s
    else if s.notesOut l.tiles || l.tiles.any fun t => !(s.tile t).faultq.isEmpty then .next s
    else if s.psd l.part 84 4 ≠ 0 ∧ (s.part l.part).ckts < l.doneAt then
      .next { s with launches := Map.set s.launches id { l with phase := 3 } }
    else .next (endLaunch s id l 0)

end Sys2Proof.Machine
end

