-- ==== Sys2Proof/Machine/Trap.lean ====
section
/-! DEFINITION. What comes about between two issues of a strand: results (R432), the causes taken at a boundary (R348), the
watchdog (R353), and fault records (R351). -/
namespace Sys2Proof.Machine

/-! ## Results (R23, R432) -/

/-- A bank holds a result of a unit that is ready at a cycle and not yet delivered. -/
def Bank.readyNow (b : Bank) (u : UnitId) (c : Nat) : Bool :=
  b.res.any fun r => r.unit == u && r.due == none && !r.wait && decide (r.ready ≤ c)

/-- RESULT_DELIVERY: the unit's ready results fill its port. -/
def execResultDelivery (t k : Nat) (u : UnitId) (s : State) : Out :=
  let x := s.tile t
  let st := x.strand k
  let lk := st.locked u
  .next (s.setStrand t k { st with user := st.user.deliver u lk x.cycle, trap := st.trap.deliver u lk x.cycle })

/-! ## Boundaries (R348) -/

/-- An operation that still waits until its strand's trap has returned: a failed request, a suspended operation, or a
packet that waits for one of these (R85, R228). -/
def stuckOps (s : State) (t k : Nat) : List Nat :=
  let x := s.tile t
  let own := ((x.strand k).window.filter fun w => w.state != 0).map WinEnt.id
    ++ (x.gets.filter fun g => g.suspended).map NetOp.id ++ (x.mxq.filter fun c => c.suspended).map MxCmd.id
    ++ (x.copies.filter fun e => e.2.state == 3).map fun e => e.2.id
  s.flight.foldl (fun ids p =>
    let behind (q : Packet) : Bool := ids.contains q.id &&
      (s.keepsBehind q p || (q.src == p.src && q.slot == p.slot &&
        q.spans.any fun a => p.spans.any (spanMeets a)))
    if p.stop || (p.after.any fun i => ids.contains i) || (s.before p.id).any behind then ids ++ [p.id] else ids) own

/-- The strand's context can be saved: its divide and its vector operations in flight have finished, and its atomics have been
performed and delivered, but for those that wait for the trap itself (R148, R180, R231, R233). -/
def entryReady (s : State) (t k : Nat) : Bool :=
  let st := s.strand t k
  let stuck := stuckOps s t k
  let waits (p : Packet) : Bool := p.src == t && p.slot == k && !stuck.contains p.id && match p.body with
    | .vmem _ => true
    | .atomic _ => true
    | _ => false
  let coming (b : Bank) : Bool := b.res.any fun r => r.unit == .atm && r.due == none && !r.wait
  !(s.flight.any waits) && !coming st.user && !coming st.trap && ((s.tile t).divOwner.all fun o => o.1 != k)

/-- A cause that is taken between two issues. -/
inductive Boundary where
  /-- the first latched operation's -/
  | latched (l : Latched)
  /-- a fault an operation reported, by its identity -/
  | fault (id cause : Nat) (info : Word)
  | step
  /-- a failed step of an expansion: inner cause and SINFO -/
  | exp (cause : Nat) (info : Word)
  | resume (info : Word)
  | host (pay : BitVec 32)
  | tile (info : Word) (rest : List Word)
deriving DecidableEq, Repr

/-- A reported fault that the strand's mode lets through: in a handler, only those of the handler's own operations. -/
def Strand.reported (st : Strand) : Option (Nat × Nat × Word) :=
  st.pend.find? fun e => !st.tl || decide (st.trapId ≤ e.1)

/-- The strand can take a cause: it is live, and not held where its word has proceeded but cannot be left. -/
def Strand.atBoundary (st : Strand) : Bool :=
  st.status == .live && match st.block with
    | some (.tload _) | some (.going _) => false
    | _ => true

/-- The highest pending interrupt (R348 item 3); a strand whose halt or departure has passed its checks issues no further word
(R253, R297). -/
def Strand.interrupt (st : Strand) : Option Boundary :=
  if !st.ie || st.leaving then none
  else
    match st.irq34, st.irq35, st.irq36 with
    | some i, _, _ => some (.resume i)
    | _, some p, _ => some (.host p)
    | _, _, i :: r => some (.tile i r)
    | _, _, _ => none

/-- The cause taken at the strand's next boundary (R348 items 1 to 3); within an expansion, the fault of its step, or an
interrupt between two steps (R109, R163): an operation that another move of its word left latched takes its trap once the
expansion is over (DESIGN CHOICE, log entry 73). -/
def Strand.boundary (st : Strand) : Option Boundary :=
  if !st.atBoundary then none
  else if st.exp.isSome then
    match st.exp.bind Exp.fault with
    | some (c, w) => some (.exp c w)
    | none => if (st.exp.any fun e => decide (1 ≤ e.step)) && !st.refire then st.interrupt else none
  else if st.latchedDue then (if st.tl then st.latchedT else st.latched).head?.map Boundary.latched
  else if st.refire then none
  else
    match st.reported with
    | some (i, c, w) => some (.fault i c w)
    | none => if st.ereting then none else if st.stepPend && !st.tl && !st.leaving then some .step else st.interrupt

/-- A system call or breakpoint whose trap is taken does not stay latched: it is not fired again (R301). -/
def Strand.takeLatched (st : Strand) (l : Latched) : Strand :=
  if l.op.port = 0x00F ∨ l.op.port = 0x010 then { st with latched := if st.tl then st.latched else st.latched.drop 1 } else st

/-- Take a boundary's cause. -/
def takeBoundary (s : State) (t k : Nat) (b : Boundary) : State :=
  let st := s.strand t k
  match b with
  | .latched l => trapNext (s.setStrand t k (st.takeLatched l)) t k l.cause l.info
  | .fault i c w => trapNext (s.setStrand t k { st with pend := Map.erase st.pend i }) t k c w
  | .exp c w => match st.exp with
    | some e => trapExp s t k e c w
    | none => s
  | .step => trapNext (s.setStrand t k { st with stepPend := false }) t k 0x2B 0
  | .resume i => trapNext (s.setStrand t k { st with irq34 := none }) t k 0x34 i
  | .host p => trapNext (s.setStrand t k { st with irq35 := none }) t k 0x35 (p.zeroExtend 64)
  | .tile i r =>
    let s := s.setStrand t k { st with irq36 := r }
    trapNext (enter36 (s.tile t).wait36.length s t) t k 0x36 i

/-- TRAP_ENTRY: the highest pending cause of the boundary is taken (R348), once the strand's vector operations and
returning atomics are done (R180, R231). -/
def execTrapEntry (t k : Nat) (s : State) : Out :=
  match (s.strand t k).boundary with
  | none => .next s
  | some b => if entryReady s t k then .next (takeBoundary s t k b) else .next s

/-! ## The watchdog (R353) -/

/-- The strand has been held for 2^WDL ticks. -/
def Strand.barked (st : Strand) (now : Nat) : Bool :=
  match st.hold with
  | some h => st.status == .live && !h.clear && st.wdl != 0 && decide (h.since + 2 ^ st.wdl ≤ now)
  | none => false

/-- A strand whose return is not over still has TL = 1 (R350). -/
def Strand.inReturn (st : Strand) : Strand := if st.refire then { st with sstat := setBit16 st.sstat 2 true } else st

/-- WATCHDOG: the hold ends, its word has had no effect, and the strand takes 0x2F, unless a cause of items 1 to 3 comes
first (R348). -/
def execWatchdog (t k : Nat) (s : State) : Out :=
  let st := s.strand t k
  match st.hold with
  | some h =>
    if st.barked s.time && !(s.tile t).stopped && st.boundary.isNone && entryReady s t k then
      .next (trapP (settle (s.setStrand t k st.inReturn) t k) t k 0x2F (BitVec.ofNat 64 (h.port % 1024)))
    else .next s
  | none => .next s

/-! ## Fault records (R351, R356) -/

/-- The 64 bytes of a record. -/
def FaultRec.bytes (r : FaultRec) : List Byte :=
  [BitVec.ofNat 8 r.cause, BitVec.ofNat 8 r.first] ++ leBytes r.ltile 2 ++ [BitVec.ofNat 8 r.slot, BitVec.ofNat 8 r.sup.toNat]
    ++ zeros 2 ++ leBytes r.spc.toNat 8 ++ leBytes r.sinfo.toNat 8 ++ leBytes r.xstep.toNat 8 ++ leBytes r.sds.toNat 8
    ++ leBytes r.time 8 ++ leBytes r.lid.toNat 8 ++ zeros 8

/-- The partition's fault ring has room. -/
def State.faultRoom (s : State) (p : Nat) : Bool :=
  let n := 2 ^ s.psd p 56 1
  decide (((s.part p).ftail + 65536 - s.psd p 60 2) % 65536 < n)

/-- The partition's descriptor and the entry of its fault ring that is written next. -/
def State.faultRuns (s : State) (p : Nat) : List (Nat × Nat) :=
  [s.psdRun p, (s.psd p 48 8 + 64 * ((s.part p).ftail % 2 ^ s.psd p 56 1), 64)]

/-- Write a record to the partition's fault ring and raise the fault-ring vector. -/
def postRecord (s : State) (p : Nat) (r : FaultRec) : State :=
  let x := s.part p
  let a := s.psd p 48 8 + 64 * (x.ftail % 2 ^ s.psd p 56 1)
  let tail := (x.ftail + 1) % 65536
  let s := (s.devWrite a r.bytes).setPart p { x with ftail := tail }
  (s.paSet (s.psdAt p + 62) 2 tail).faultIntr

/-- FAULT_RECORD_POST: the tile's oldest waiting record goes to the ring when there is room, and its channel is not
in training (R422). -/
def execFaultRecordPost (t : Nat) (s : State) : Out :=
  let x := s.tile t
  match x.faultq, s.launchOf t with
  | r :: rest, some l =>
    if s.faultRoom l.part && !s.trains (s.faultRuns l.part) then .next (postRecord (s.setTile t { x with faultq := rest }) l.part r) else .next s
  | _, _ => .next s

end Sys2Proof.Machine
end

