-- ==== Sys2Proof/Machine/Power.lean ====
section
/-! DEFINITION. Budget refills, the stipe controllers, power and temperature (R320, R367 to R378), scrubbing and links (R379 to
R383). -/
namespace Sys2Proof.Machine

/-! ## The pause of a stipe (R373) -/

/-- The four tiles of a tile's stipe. -/
def stipeOf (t : Nat) : List Nat := [0, 1, 2, 3].map fun j => t / 4 * 4 + j

/-- Something of the tile is at work: a live strand, an engine, the divider, an overlay being loaded, a host piece to be
applied, a locked reservation that runs out. -/
def Tile.works (x : Tile) : Bool :=
  (x.strands.any fun e => e.2.status == .live) || !x.opIds.isEmpty || x.loading.isSome || x.divOwner.isSome || !x.ingress.isEmpty
    || x.resv.any fun e => e.locked.isSome

/-- The tile's clock stands: all four tiles of its stipe pause together (R373), or the device is in S1 or deeper (R377); a
service tile lies in an I/O die, which runs on. -/
def State.pausedAt (s : State) (t : Nat) : Bool :=
  !isService t && (s.pwrst != 0 || (stipeOf t).all fun u => !(s.tile u).works)

/-! ## Refills (R320, R372) -/

/-- A claimant's account after a refill of q over the weight sum w. -/
def refillAccount (q w : Nat) (st : Strand) : Strand :=
  if st.vgrant.1 = 0 then st
  else
    let inc : Int := ((q * weight st / w : Nat) : Int)
    { st with acct := min (st.acct + inc) (2 * inc) }

/-- The refill of a tile whose launch has class c. -/
def refillTile (x : Tile) (c : Nat) : Tile :=
  let (q0, mq0) := quota c
  let q := q0 * x.rf / 8
  let mq := mq0 * x.rf / 8
  let w := (x.strands.map fun e => if e.2.vgrant.1 = 0 then 0 else weight e.2).sum
  { x with
    q := q, mq := mq, wsum := w, mbudget := min (x.mbudget + mq) (2 * mq), refillAt := x.refillAt + 256
    strands := x.strands.map fun e => (e.1, refillAccount q w e.2) }

/-- BUDGET_REFILL: every 256 cycles while the tile's cycles run on: until its save area is written, and from its restart on. -/
def execBudgetRefill (t : Nat) (s : State) : Out :=
  let x := s.tile t
  match s.launchOf t with
  | none => .next s
  | some l =>
    if x.halted ∨ (x.stopped ∧ 4 < (s.part l.part).phase) ∨ x.cycle < x.refillAt ∨ l.phase < 2 then .next s else .next (s.setTile t (refillTile x l.record.pclass))

/-! ## Retiring a stipe (R384, R385) -/

/-- The column place a tile stands for, its own or the one its spare was mapped into (R384). -/
def State.columnPlace (s : State) (t : Nat) : Nat :=
  if colOf t = 24 then (Map.get? s.spares (dieOf t * 6 + rowOf t / 4)).getD 24 else colOf t

/-- The sorus a tile stands in (R131, R384). -/
def State.sorusPlace (s : State) (t : Nat) : Nat := dieOf t * 36 + rowOf t / 4 * 6 + s.columnPlace t / 4

/-- The stipe is out of service already, or is a spare that stands nowhere. -/
def State.retired (s : State) (t : Nat) : Bool :=
  isService t || s.columnPlace t == 24 || s.outSori.contains (s.sorusPlace t)
    || Map.get? s.spares (dieOf t * 6 + rowOf t / 4) == some (colOf t)

/-- The stipe of a tile is retired: the row band's spare takes its place, or its sorus leaves service (R384, R385). -/
def retireStipe (s : State) (t : Nat) : State :=
  if s.retired t then s
  else
    let key := dieOf t * 6 + rowOf t / 4
    let place := s.sorusPlace t
    let col := s.columnPlace t
    let s := { s with recurs := s.recurs.filter fun u => !(stipeOf t).contains u }
    let s := (s.log t 7 4 t 0 0).tick
    if (Map.get? s.spares key).isNone ∧ Config.spareGood s.oracle then { s with spares := Map.set s.spares key col }
    else { s with outSori := place :: s.outSori }

/-- The firmware is to retire the stipe of a tile: by a recovery of the partition that runs on it, else at once (R384). -/
def retireSoon (s : State) (t : Nat) : State :=
  match (stipeOf t).find? fun u => (s.tile u).loaded with
  | none => retireStipe s t
  | some u =>
    let p := s.partOf u
    if s.retired t ∨ (s.part p).recov.contains (u, 16, 0x32) then s
    else s.setPart p { (s.part p) with recov := (s.part p).recov ++ [(u, 16, 0x32)] }

/-! ## The stipe controller (R368 to R371) -/

/-- Nearest integer to n / d, ties to even. -/
def nearest (n : Int) (d : Nat) : Int :=
  let q := n / (d : Int)
  let r := 2 * (n % (d : Int))
  if r < (d : Int) then q else if (d : Int) < r then q + 1 else if q % 2 = 0 then q else q + 1

/-- The tile at position p of a stipe (R367). -/
def stipeTile (i p : Nat) : Nat := i / 150 * 1024 + i % 25 * 32 + 4 * (i % 150 / 25) + p

/-- The four deviations from currents in microamperes (R368). -/
def deviations (cs : List Nat) : List Int :=
  let sum : Int := ((cs.sum : Nat) : Int)
  cs.map fun (c : Nat) => satInt (nearest (256 * (4 * (c : Int) - sum)) 3400000) (-128) 127

/-- The largest deviation. -/
def devMax (ds : List Int) : Nat := (ds.map Int.natAbs).foldl max 0

/-- STR after rows 1 to 3 of R369, m now and the earlier ones newest first. -/
def nextStr (str m : Nat) (hist : List Nat) : Nat :=
  let str := if 96 ≤ m then 8 else str
  let str := if 31 ≤ m ∧ 2 ≤ hist.length ∧ (hist.take 2).all (31 ≤ ·) then min (str + 1) 8 else str
  if m ≤ 20 ∧ 3 ≤ hist.length ∧ (hist.take 3).all (· ≤ 20) ∧ 0 < str then str - 1 else str

/-- BAL and RF of a tile after rows 4 to 7; keep: BAL stays set (R374). -/
def nextBalance (x : Tile) (d : Int) (keep : Bool) : Tile :=
  let bal := if d ≤ -16 then true else x.bal
  let bal := if bal && decide (-8 ≤ d) && !keep then false else bal
  let rf := if 16 ≤ d then max (x.rf - 1) 4 else x.rf
  let rf := if d ≤ 8 ∧ rf < 8 then rf + 1 else rf
  { x with bal := bal, rf := rf }

/-- An unloaded tile keeps its ballast where a launch of class 2 or 3 has loaded others of its stipe (R374). -/
def State.keepsBallast (s : State) (t : Nat) : Bool :=
  !(s.tile t).loaded && (stipeOf t).any fun u => decide (2 ≤ ((s.objOf u).map KObj.cls).getD 0)

/-- One update of a stipe (R369). -/
def updateStipe (s : State) (i : Nat) : State :=
  let p := Map.find Stipe.reset s.stipes i
  let ds := deviations ([0, 1, 2, 3].map fun j => Config.tileCurrent s.oracle i j)
  let m := devMax ds
  let str := nextStr p.str m p.hist
  let hot := if 96 ≤ m then p.hot + 1 else 0
  let p' : Stipe := { str := str, devs := ds, hist := (m :: p.hist).take 3, next := p.next + 1000, hot := hot }
  let s := { s.tick with stipes := Map.set s.stipes i p' }
  let s := [0, 1, 2, 3].foldl (fun s j =>
    let t := stipeTile i j
    s.setTile t (nextBalance (s.tile t) (ds.getD j 0) (s.keepsBallast t))) s
  let t := stipeTile i 0
  let s : State := if 96 ≤ m then s.log t 4 0 t 0 (s.stipeimb t) else s
  if hot == 3 then retireSoon s t else s

/-- STIPE_UPDATE: every 1,000 ticks. -/
def execStipeUpdate (i : Nat) (s : State) : Out :=
  if s.time < (Map.find Stipe.reset s.stipes i).next then .next s else .next (updateStipe s i)

/-! ## Die power (R376) -/

/-- The clock of a die after a measurement of mw milliwatts, in MHz. -/
def nextClock (clk mw share : Nat) : Nat :=
  if share < mw then max (clk - 25) 1500 else if mw * 100 < share * 95 then min (clk + 25) 2500 else clk

/-- DIE_POWER_MEASURE: every 10 µs. -/
def execDiePowerMeasure (d : Nat) (s : State) : Out :=
  let due := Map.find 10000 s.dieNext d
  if s.time < due then .next s
  else
    let clk := nextClock (Map.find 2250 s.dieClk d) (Config.diePower s.oracle d) s.dieShare
    .next { s.tick with dieClk := Map.set s.dieClk d clk, dieNext := Map.set s.dieNext d (due + 10000) }

/-! ## The die L2s (R87, R380) -/

/-- One line of a die L2 is written back and leaves it: a correctable error is corrected, and the line's copy in HBM is
whole again. A dirty line with an uncorrectable error is logged, raises the error vector, and stays (R380). -/
def writeBack (s : State) (e : Nat × Bool) : State :=
  let inLine (b : Nat) : Bool := b / 64 == e.1
  match s.l2Bad.find? inLine with
  | some b => (s.hbmLog b 2).errIntr.tick
  | none =>
    let hit := s.l2Weak.filter inLine
    let keep (bs : List Nat) : List Nat := bs.filter fun b => !(e.2 && inLine b)
    { s with
      l2 := s.l2.filter fun f => f.1 != e.1, l2Weak := s.l2Weak.filter fun b => !inLine b, hbmBad := keep s.hbmBad
      hbmWeak := keep s.hbmWeak }.logFixed 2 hit

/-- Write back every line of the die L2s. -/
def State.writeBackL2 (s : State) : State := s.l2.foldl writeBack s

/-- The lines that a die's 48 MiB hold (R5). -/
def l2Lines : Nat := 786432

/-- A die L2 over its size gives up lines that the manual does not name (log entry 64). -/
def trimL2 (fuel d : Nat) (s : State) : State :=
  match fuel with
  | 0 => s
  | fuel + 1 =>
    let mine := s.l2.filter fun e => homeDie (64 * e.1) == d
    let out := mine.filter fun e => !(s.l2Bad.any fun b => b / 64 == e.1)
    if mine.length ≤ l2Lines then s
    else
      match out[s.choice out.length]? with
      | some e => trimL2 fuel d (writeBack s.tick e)
      | none => s

/-- A line leaves its die L2 at a time the manual leaves open, or none does; none holds more than its lines (log
entry 64). -/
def State.evict (s : State) : State :=
  if s.l2.isEmpty then s
  else
    let s := match s.l2[s.choice (s.l2.length + 1)]? with
      | some e => writeBack s.tick e
      | none => s.tick
    if s.l2.length ≤ l2Lines then s else (List.range 8).foldl (fun s d => trimL2 s.l2.length d s) s

/-! ## Power states (R377) -/

/-- The exit latency of a state, in ticks. -/
def exitTicks (n : Nat) : Nat :=
  match n with
  | 0 => 0
  | 1 => 1000
  | 2 => 20000
  | 3 => 2000000
  | _ => 20000000

/-- The device is idle (R377). -/
def State.idle (s : State) : Bool :=
  (s.launches.all fun e => e.2.part == 288) && (s.queues.all fun e => e.2.head == e.2.tail)
    && s.parts.all fun e => e.2.state != 1 && e.2.state != 3

/-- The next deeper state may be entered. -/
def State.mayDescend (s : State) : Bool :=
  s.idle && decide (s.pwrst < 4) && decide (exitTicks (s.pwrst + 1) ≤ s.ltol.toNat * 1000)
    && decide (s.idleSince + 4 * exitTicks (s.pwrst + 1) ≤ s.time)

/-- A tile that loses its power loses its pool and operand memory, and is no more the tile of its last launch. -/
def losePower (x : Tile) : Tile :=
  { x with
    pool := [], poolBad := [], poolWeak := [], opmem := [], opBad := [], opWeak := [], scale := [], scaleBad := []
    scaleWeak := [], done := false }

/-- S3: the die L2s have been written back, the compute dies are off (R377). -/
def State.enterS3 (s : State) : State :=
  { s with
    pwrst := 3, l2 := [], l2Weak := [], tiles := s.tiles.map fun e => if isService e.1 then e else (e.1, losePower e.2) }

/-- POWER_STATE_DESCEND: one state deeper. Before S3 the die L2s are written back; a line that cannot be stays, and with it
the state (R380; log entry 64). -/
def execPowerStateDescend (s : State) : Out :=
  if !s.mayDescend then .next s
  else if s.pwrst ≠ 2 then .next { s with pwrst := s.pwrst + 1 }
  else
    let s := s.writeBackL2
    if s.l2Bad.isEmpty then .next s.enterS3 else .next { s with idleSince := s.time }

/-- POWER_WAKE: the device is back in S0 after the exit latency of the state it was in. -/
def execPowerWake (s : State) : Out :=
  if s.pwrst = 0 then .next s
  else .next { s with time := s.time + exitTicks s.pwrst, pwrst := 0, idleSince := s.time + exitTicks s.pwrst }

/-! ## HBM temperature (R378) -/

/-- The lower bound of a temperature band. -/
def bandFloor (b : Nat) : Nat :=
  match b with
  | 0 => 0
  | 1 => 86
  | 2 => 96
  | 3 => 101
  | _ => 106

/-- The band a code lies in. -/
def bandOf (c : Nat) : Nat := if 106 ≤ c then 4 else if 101 ≤ c then 3 else if 96 ≤ c then 2 else if 86 ≤ c then 1 else 0

/-- Leave bands downward from b while the code is 3 °C below the lower bound. -/
def bandDown (b c : Nat) : Nat :=
  match b with
  | 0 => 0
  | b + 1 => if c + 3 ≤ bandFloor (b + 1) then bandDown b c else b + 1

/-- The band after a code. -/
def nextBand (b c : Nat) : Nat := if b ≤ bandOf c then bandOf c else bandDown b c

/-- CAP and RSTEP of a band. -/
def bandBits (b : Nat) : Nat :=
  match b with
  | 0 => 0
  | 1 => 1 * 2 ^ 9
  | 2 => 1 * 2 ^ 13 + 2 * 2 ^ 9
  | 3 => 2 * 2 ^ 13 + 2 * 2 ^ 9
  | _ => 3 * 2 ^ 13 + 2 * 2 ^ 9

/-- The band HTEMP shows. -/
def bandShown (h : Nat) : Nat :=
  let cap := h / 2 ^ 13 % 8
  if cap = 0 then min (h / 2 ^ 9 % 4) 1 else cap + 1

/-- One stack's reading. -/
def pollStack (s : State) (k : Nat) : State :=
  let c := Config.hbmTemp s.oracle k % 256
  let b := nextBand (bandShown (Map.find 0 s.htemp k)) c
  let h := bandBits b + c
  let s := { s with htemp := Map.set s.htemp k h }
  if b = 4 then (s.log (logStack k) 5 0 k 0 (BitVec.ofNat 64 h)).errIntr else s

/-- HBM_TEMP_POLL: every 1 ms, all sixteen stacks. -/
def execHbmTempPoll (s : State) : Out :=
  if s.time < s.tempNext then .next s
  else
    let s := slots.foldl pollStack s
    .next { s.tick with tempNext := s.tempNext + 1000000 }

/-! ## Scrubbing and links (R379, R382) -/

/-- What a scrub finds in a word: an uncorrectable error is logged and raises the error vector, a correctable one is
corrected and logged. -/
def scrubWord (s : State) (key level src : Nat) (addr : Nat) (bad weak : Bool) (fix : State → State) : State :=
  if bad then (s.log key 1 level src (BitVec.ofNat 64 addr) (Config.syndrome s.oracle)).errIntr.tick
  else if weak then ((fix s).log key 0 level src (BitVec.ofNat 64 addr) (Config.syndrome s.oracle)).tick
  else s

/-- How often on end scrub has found a correctable error in a word of a tile; the third time its stipe is retired, as it is
where an uncorrectable error recurs (R384). -/
def scrubRun (s : State) (l : ScrubLoc) (t : Nat) (bad weak : Bool) : State :=
  let n := ((s.weakRun.find? fun e => e.1 == l).map Prod.snd).getD 0
  let s := { s with weakRun := s.weakRun.filter fun e => e.1 != l }
  if bad then (if s.recurs.contains t then retireSoon s t else s)
  else if !weak then s
  else if n = 2 then retireSoon s t
  else { s with weakRun := (l, n + 1) :: s.weakRun }

/-- A table entry that a scrub has found in error is whole again: corrected, or loaded again from the kernel object (R379). -/
def State.renewTable (s : State) (t : Nat) (l : ScrubLoc) : State := s.setTile t ((s.tile t).renew l)

/-- SCRUB_VISIT: one read-modify-write of a word in its location's order. Registers, semaphores, inboxes and the parcel cache
are not scrubbed (R382). -/
def execScrubVisit (l : ScrubLoc) (s : State) : Out :=
  match l with
  | .pool t a =>
    let x := s.tile t
    let (b, w) := (x.poolBad.contains a, x.poolWeak.contains a)
    if Map.find 0 s.scrub 0 = 0 then .next s
    else .next (scrubRun (scrubWord s t 0 t a b w
      fun s => s.setTile t { x with poolWeak := x.poolWeak.filter (· != a) }) l t b w)
  | .opmem t a =>
    let x := s.tile t
    let (b, w) := (x.opBad.contains a, x.opWeak.contains a)
    if Map.find 0 s.scrub 0 = 0 then .next s
    else .next (scrubRun (scrubWord s t 1 t a b w
      fun s => s.setTile t { x with opWeak := x.opWeak.filter (· != a) }) l t b w)
  | .scale t a =>
    let x := s.tile t
    let (b, w) := (x.scaleBad.contains a, x.scaleWeak.contains a)
    if Map.find 0 s.scrub 0 = 0 then .next s
    else .next (scrubRun (scrubWord s t 1 t a b w
      fun s => s.setTile t { x with scaleWeak := x.scaleWeak.filter (· != a) }) l t b w)
  | .table t _ =>
    let x := s.tile t
    let (b, w) := (x.isBad l, x.cellWeak.contains l)
    if Map.find 0 s.scrub 0 = 0 then .next s
    else .next (scrubRun (scrubWord s t 0 t (Config.openWord s.oracle).toNat b w
      fun s => s.setTile t (x.renew l)) l t b w |>.renewTable t l)
  | .reg _ _ _ | .sem _ _ | .inbox _ _ | .parcel _ _ => .next s
  | .l2 a =>
    if Map.find 0 s.scrub 1 = 0 then .next s
    else .next (scrubWord s (logL2 (homeDie a)) 2 (a / 2 ^ 36 % 16) a (s.l2Bad.contains a) (s.l2Weak.contains a)
      fun s => { s with l2Weak := s.l2Weak.filter (· != a) })
  | .hbm a =>
    let k := a / 2 ^ 36 % 16
    if Map.find 0 s.scrub 2 = 0 ∨ s.training a then .next s
    else .next (scrubWord s (logStack k) 3 k a (s.chanDown a || s.hbmBad.contains a) (s.hbmWeak.contains a)
      fun s => { s with hbmWeak := s.hbmWeak.filter (· != a) })

/-! ## How storage errors arise (R379, R384; log entry 22) -/

/-- An uncorrectable error at a place that has had one: its word was rewritten since, or the error stands still. -/
def recordBad (s : State) (l : ScrubLoc) (t : Nat) (standing : Bool) : State :=
  if standing then s
  else if s.hadBad.contains l then { s with recurs := t :: s.recurs.filter (· != t) }
  else { s with hadBad := l :: s.hadBad }

/-- An error arises in a word: a correctable one, or an uncorrectable one. -/
def latent (weak : Bool) (a : Nat) (bads weaks : List Nat) : List Nat × List Nat :=
  if weak then (bads, a :: weaks.filter (· != a)) else (a :: bads.filter (· != a), weaks)

/-- An error arises in a semaphore, an inbox entry, a table entry or a line of the parcel cache. -/
def State.cellError (s : State) (l : ScrubLoc) (t : Nat) (weak : Bool) : State :=
  let x := s.tile t
  let s := if weak then s else recordBad s l t (x.isBad l)
  let y := x.renew l
  s.setTile t (if weak then { x with cellWeak := l :: y.cellWeak } else { x with cellBad := l :: y.cellBad })

/-- An error arises at a place; in a die L2 only a line it holds, and an uncorrectable one of a clean line has no effect, for
the line is read again from HBM (R379). -/
def State.errorAt (s : State) (l : ScrubLoc) (weak : Bool) : State :=
  match l with
  | .pool t a =>
    let x := s.tile t
    let s := if weak then s else recordBad s l t (x.poolBad.contains a)
    let (b, w) := latent weak a x.poolBad x.poolWeak
    s.setTile t { x with poolBad := b, poolWeak := w }
  | .opmem t a =>
    let x := s.tile t
    let s := if weak then s else recordBad s l t (x.opBad.contains a)
    let (b, w) := latent weak a x.opBad x.opWeak
    s.setTile t { x with opBad := b, opWeak := w }
  | .scale t a =>
    let x := s.tile t
    let s := if weak then s else recordBad s l t (x.scaleBad.contains a)
    let (b, w) := latent weak a x.scaleBad x.scaleWeak
    s.setTile t { x with scaleBad := b, scaleWeak := w }
  | .table t _ | .sem t _ => s.cellError l t weak
  | .inbox t i => if i < (s.tile t).inbox.length then s.cellError l t weak else s
  | .parcel t i => if (s.tile t).pcache.contains i then s.cellError l t weak else s
  | .reg t k p =>
    let st := s.strand t k
    if st.status == .free then s
    else
      let s := if weak then s else recordBad s l t (st.bad.contains p)
      let (b, w) := latent weak p st.bad st.weak
      s.setStrand t k { st with bad := b, weak := w }
  | .l2 a =>
    match s.l2.find? fun e => e.1 == a / 64 with
    | none => s
    | some (_, dirty) =>
      if !weak && !dirty then s
      else
        let (b, w) := latent weak a s.l2Bad s.l2Weak
        { s with l2Bad := b, l2Weak := w }
  | .hbm a =>
    let (b, w) := latent weak a s.hbmBad s.hbmWeak
    { s with hbmBad := b, hbmWeak := w }

/-! ## Links (R379) -/

/-- LINK_DOWN: after 16 failed retries a link goes down. -/
def execLinkDown (iod link : Nat) (s : State) : Out :=
  .next ({ s with linksDown := link :: s.linksDown.filter (· != link) }.log (logIod iod) 6 5 link 0 0).errIntr

end Sys2Proof.Machine
end

