-- ==== Sys2Proof/Machine/Image.lean ====
section
/-! DEFINITION. The bytes of saved contexts: a tile's save area, a strand record, a bank image (R362, R363), and what a restore
reads back from them (R364). -/
namespace Sys2Proof.Machine

/-! ## Plain values as bytes -/

/-- Free bytes of an image. -/
def openBytes (o off n : Nat) : List Byte := (List.range n).map fun i => Config.saveByte o (off + i)

/-- Values as 8 bytes each. -/
def words (vs : List Nat) : List Byte := vs.flatMap fun v => leBytes v 8

/-- A value that may be absent: 0, else one more than the value. -/
def optNat (v : Option Nat) : Nat := (v.map (· + 1)).getD 0

/-- A signed value in 64 bits. -/
def intNat (v : Int) : Nat := (v % 2 ^ 64).toNat

/-- A list of items behind its length. -/
def counted (items : List (List Byte)) : List Byte := leBytes items.length 8 ++ items.flatten

/-- Bytes behind their length. -/
def sized (bs : List Byte) : List Byte := leBytes bs.length 8 ++ bs

/-- The first n of some bytes, filled up with free ones. -/
def padded (o off n : Nat) (bs : List Byte) : List Byte := (bs ++ openBytes o (off + bs.length) (n - bs.length)).take n

/-- A list of numbers behind its length. -/
def nats (l : List Nat) : List Byte := counted (l.map fun v => words [v])

/-! ## Reading them back -/

/-- n values of 8 bytes, and the bytes after them. -/
def rdW (n : Nat) (bs : List Byte) : List Nat × List Byte :=
  ((List.range n).map fun i => leNat ((bs.drop (8 * i)).take 8), bs.drop (8 * n))

/-- One value. -/
def rdN (bs : List Byte) : Nat × List Byte := (leNat (bs.take 8), bs.drop 8)

/-- Bytes behind their length. -/
def rdSized (bs : List Byte) : List Byte × List Byte :=
  let (n, r) := rdN bs
  (r.take n, r.drop n)

/-- n items one after another. -/
def rdMany {α : Type} (f : List Byte → α × List Byte) (n : Nat) (bs : List Byte) : List α × List Byte :=
  match n with
  | 0 => ([], bs)
  | n + 1 =>
    let (a, r) := f bs
    let (l, r) := rdMany f n r
    (a :: l, r)

/-- A list of items behind its length. -/
def rdList {α : Type} (f : List Byte → α × List Byte) (bs : List Byte) : List α × List Byte :=
  let (n, r) := rdN bs
  rdMany f (min n 8192) r

def rdNats (bs : List Byte) : List Nat × List Byte := rdList rdN bs

/-- A pair of numbers. -/
def rdPair (bs : List Byte) : (Nat × Nat) × List Byte :=
  let (w, r) := rdW 2 bs
  ((w.getD 0 0, w.getD 1 0), r)

/-- The value that optNat and intNat wrote. -/
def natOpt (n : Nat) : Option Nat := if n = 0 then none else some (n - 1)
def natInt (n : Nat) : Int := (BitVec.ofNat 64 n).toInt

/-- The bytes of a list as cells. -/
def cellsOf (bs : List Byte) : Memory := Memory.writeBytes [] 0 bs

/-! ## Bank images (R363) -/

/-- The ports of a bank image (R363). -/
def bankPorts : List (Nat × PortKind × UnitId) :=
  portMap.flatMap fun r => match r.unit with
    | some u => if r.kind == .trigger then [] else (List.range (r.hi + 1 - r.lo)).map fun i => (r.lo + i, r.kind, u)
    | none => []

/-- The units in order of their ids. -/
def unitOrder : List UnitId :=
  [.cu, .alu0, .alu1, .mdu, .prd, .crf, .fpa, .sfu, .lsu, .atm, .sem, .net, .dma, .vec, .sys]

/-- A port of a bank as its image holds it. -/
def Bank.portValue (b : Bank) (e : Nat × PortKind × UnitId) : Word :=
  if e.2.1 == .operand then Map.find 0 b.ops e.1 else if isZ e.1 then b.readZ e.2.2 else b.readY e.2.2

/-- A bank image of 0x400 bytes. -/
def bankBytes (o off : Nat) (b : Bank) : List Byte :=
  let ports := bankPorts
  let vals := ports.flatMap fun e => leBytes (b.portValue e).toNat 8
  let trigs := unitOrder.flatMap fun u => match b.trig.find? fun e => e.1 == u with
    | some e => leBytes e.2.1 8 ++ leBytes e.2.2.toNat 8
    | none => zeros 16
  let full := leBytes (packElems 1 (ports.map fun e => (b.full.contains e.1).toNat)) 7
  vals ++ trigs ++ full ++ openBytes o (off + 679) 345

/-- A result as a restore finds it in its port. -/
def Bank.setResult (b : Bank) (u : UnitId) (z : Bool) (v : Word) : Bank :=
  match b.select u (!z || u != .vec) with
  | some r =>
    { b with res := b.res.map fun q => if q = r then (if z then { q with z := some v } else { q with y := some v }) else q }
  | none =>
    { b with
      res := b.res ++ [{ unit := u, y := if z then none else some v, z := if z then some v else none, due := some b.clock
                         ready := 0, wait := false, lock := false }] }

/-- One port of a bank read back. -/
def Bank.loadPort (b : Bank) (e : Nat × PortKind × UnitId) (v : Word) : Bank :=
  if v = b.portValue e then b
  else if e.2.1 == .operand then { b with ops := Map.set b.ops e.1 v }
  else b.setResult e.2.2 (isZ e.1) v

/-- A bank as its image in an area holds it. -/
def Bank.load (b : Bank) (m : Memory) (o : Nat) : Bank :=
  let ports := bankPorts
  let at_ (i : Nat) : Nat := leNat (m.readBytes (o + i) 8)
  let b := ((List.range ports.length).zip ports).foldl (fun b e => b.loadPort e.2 (BitVec.ofNat 64 (at_ (8 * e.1)))) b
  let t := 8 * ports.length
  let trig := ((List.range unitOrder.length).zip unitOrder).filterMap fun e =>
    if at_ (t + 16 * e.1) = 0 then none else some (e.2, at_ (t + 16 * e.1), BitVec.ofNat 64 (at_ (t + 16 * e.1 + 8)))
  let bits := leNat (m.readBytes (o + t + 16 * unitOrder.length) 7)
  let full := (((List.range ports.length).zip ports).filter fun e => bits / 2 ^ e.1 % 2 == 1).map fun e => e.2.1
  { b with trig := trig, full := full }

/-! ## Strand records (R363) -/

/-- The state code of a strand record. -/
def Strand.code (st : Strand) : Nat :=
  match st.status with
  | .free => 0
  | .live => if st.block.isSome || (st.hold.any fun h => h.held && !h.clear) then 2 else 1
  | .stopped => 3

/-- 0x0B0 to 0x0CF: TBANK, MXS, RDEPTH, SDEPTH, the vector request and grant, the account, the SC count (log entry 69). -/
def Strand.miscBytes (st : Strand) : List Byte :=
  leBytes st.tbank.toNat 1 ++ leBytes st.ret.length 1 ++ leBytes st.sdepth 2 ++ leBytes st.mxs.toNat 4
    ++ leBytes st.vreq.1 1 ++ leBytes st.vreq.2 1 ++ leBytes st.vgrant.1 1 ++ leBytes st.vgrant.2 1 ++ zeros 4
    ++ leBytes (intNat st.acct) 8 ++ leBytes st.scSeq 8

/-- A request's kind with its size, and what it carries. -/
def LsuKind.image (k : LsuKind) : Nat × Nat :=
  match k with
  | .load n sg => (1 + 256 * n + 65536 * sg.toNat, 0)
  | .store n v => (2 + 256 * n, v.toNat)
  | .ldl near => (3, near)
  | .stl line => (4, leNat (line.take 8))
  | .pf => (5, 0)

/-- A kind as its words say; a line longer than they hold is the saved one. -/
def LsuKind.read (was : Option LsuKind) (code d : Nat) : LsuKind :=
  match code % 256 with
  | 1 => .load (code / 256 % 256) ((code / 65536).testBit 0)
  | 2 => .store (code / 256 % 256) (BitVec.ofNat 64 d)
  | 3 => .ldl d
  | 4 => .stl (match was with
    | some (.stl line) => leBytes d 8 ++ line.drop 8
    | _ => leBytes d 8 ++ zeros 56)
  | _ => .pf

/-- An entry of the request window in 32 bytes (log entry 69). -/
def WinEnt.image (e : WinEnt) : List Byte :=
  words [e.kind.image.1 + 2 ^ 32 * (e.state + 4 * e.trap.toNat), e.far.toNat, e.kind.image.2, e.id]

def Latched.image (l : Latched) : List Byte :=
  words [l.op.port + 2 ^ 16 * l.cause + 2 ^ 32 * l.op.g.toNat + 2 ^ 33 * l.op.chop + 2 ^ 36 * l.wgo.toNat, l.op.v.toNat,
    l.info.toNat]

/-- The code of an expanded operation. -/
def ExpOp.code (o : ExpOp) : Nat :=
  match o with
  | .divd => 1
  | .sqrtd => 2
  | .blk => 3

def Exp.image (e : Exp) : List Byte :=
  words [e.op.code + 4 * e.trap.toNat + 8 * e.resumed.toNat + 2 ^ 8 * e.step + 2 ^ 32 * e.rep, e.id, e.v.toNat, e.a.toNat, e.b.toNat,
    e.c.toNat, e.ia.toNat, optNat (e.fault.map Prod.fst), ((e.fault.map Prod.snd).getD 0).toNat]

/-- What 0x350 to 0x3FF hold: latched operations, pending traps and interrupts, open arrivals; what is longer goes on in the unit
state (log entry 69). -/
def Strand.pendBytes (st : Strand) : List Byte :=
  words [st.stepPend.toNat + 2 * st.latchedDue.toNat + 4 * st.refire.toNat + 8 * st.ereting.toNat,
      optNat (st.irq34.map BitVec.toNat), optNat (st.irq35.map BitVec.toNat)]
    ++ counted (st.latched.map Latched.image) ++ counted (st.latchedT.map Latched.image)
    ++ counted (st.pend.map fun e => words [e.1, e.2.1, e.2.2.toNat]) ++ nats (st.irq36.map BitVec.toNat)
    ++ counted (st.meets.map fun e => words [e.1, e.2]) ++ counted (st.bars.map fun e => words [e.1, e.2])
    ++ counted (st.exp.toList.map Exp.image) ++ counted (st.savedExp.toList.map Exp.image)

def Latched.read (bs : List Byte) : Latched × List Byte :=
  let (w, r) := rdW 3 bs
  let c := w.getD 0 0
  let op : Fired := { port := c % 2 ^ 16, v := BitVec.ofNat 64 (w.getD 1 0), g := c.testBit 32, chop := c / 2 ^ 33 % 8 }
  ({ op := op, cause := c / 2 ^ 16 % 2 ^ 16, info := BitVec.ofNat 64 (w.getD 2 0), wgo := c.testBit 36 }, r)

/-- An expansion read back; the delay state after it is the saved one's. -/
def Exp.read (was : Option Exp) (bs : List Byte) : Exp × List Byte :=
  let (w, r) := rdW 9 bs
  let c := w.getD 0 0
  let v (i : Nat) : Word := BitVec.ofNat 64 (w.getD i 0)
  ({ id := w.getD 1 0, op := if c % 4 = 1 then .divd else if c % 4 = 2 then .sqrtd else .blk, v := v 2, a := v 3, b := v 4
     c := v 5, step := c / 2 ^ 8 % 2 ^ 24, trap := c.testBit 2, ia := BitVec.ofNat 24 (w.getD 6 0), rep := c / 2 ^ 32
     last := was.bind Exp.last, resumed := c.testBit 3, fault := (natOpt (w.getD 7 0)).map fun n => (n, v 8) }, r)

/-- The strand with what its pending bytes say. -/
def Strand.loadPend (st : Strand) (bs : List Byte) : Strand :=
  let (w, r) := rdW 3 bs
  let f := w.getD 0 0
  let (latched, r) := rdList Latched.read r
  let (latchedT, r) := rdList Latched.read r
  let (pend, r) := rdList (fun bs => rdW 3 bs) r
  let (irq36, r) := rdNats r
  let (meets, r) := rdList rdPair r
  let (bars, r) := rdList rdPair r
  let (exp, r) := rdList (Exp.read st.exp) r
  let (savedExp, _) := rdList (Exp.read st.savedExp) r
  { st with
    stepPend := f.testBit 0, latchedDue := f.testBit 1, refire := f.testBit 2, ereting := f.testBit 3
    irq34 := (natOpt (w.getD 1 0)).map (BitVec.ofNat 64), irq35 := (natOpt (w.getD 2 0)).map (BitVec.ofNat 32)
    latched := latched, latchedT := latchedT
    pend := pend.map fun e => (e.getD 0 0, e.getD 1 0, BitVec.ofNat 64 (e.getD 2 0))
    irq36 := irq36.map (BitVec.ofNat 64), meets := meets, bars := bars, exp := exp.head?, savedExp := savedExp.head? }

/-- The overlay word of which a strand has made a part of the issues (R39): the one being repeated, or the one a trap took it
from. -/
def Strand.overlayWord (st : Strand) : Option (BitVec 256) :=
  let part (r : Option RepSave) : Option (BitVec 256) := r.bind fun r => if r.overlaid then some r.word else none
  if 0 < st.rep then (part st.rword).or (part st.savedRep) else part st.savedRep

/-- A strand record of 4 KiB. -/
def strandBytes (o off : Nat) (st : Strand) : List Byte :=
  words ([st.code] ++ (List.range 10).map (fun i => (Map.find 0 st.regs i).toNat) ++
    [(st.pw ||| 1).toNat, st.pc.toNat, st.sstat.toNat, st.spc.toNat, st.scause.toNat, st.sinfo.toNat, st.sds.toNat,
     st.xstep.toNat, st.mode.toNat, st.fmt.toNat, st.srkey.toNat])
    ++ st.miscBytes ++ words ((List.range 16).map fun i => (st.ret.getD i 0).toNat)
    ++ padded o (off + 0x150) 512 (st.window.flatMap WinEnt.image) ++ padded o (off + 0x350) 176 st.pendBytes
    ++ bankBytes o (off + 0x400) st.user ++ bankBytes o (off + 0x800) st.trap
    ++ leBytes ((st.overlayWord.map BitVec.toNat).getD 0) 32 ++ zeros 992

/-- The request window as its 16 entries hold it; what they have no place for is the saved one's. -/
def Strand.loadWindow (st : Strand) (bs : List Byte) (n : Nat) : List WinEnt :=
  (List.range n).map fun i =>
    let (w, _) := rdW 4 (bs.drop (32 * i))
    let c := w.getD 0 0
    let was := st.window.find? fun e => e.id == w.getD 3 0
    { id := w.getD 3 0, kind := LsuKind.read (was.map WinEnt.kind) (c % 2 ^ 32) (w.getD 2 0), far := BitVec.ofNat 64 (w.getD 1 0)
      trap := c.testBit 34, state := c / 2 ^ 32 % 4, after := (was.map WinEnt.after).getD [] }

/-- The strand with the overlay word of its record (R39). -/
def Strand.loadWord (st : Strand) (w : BitVec 256) : Strand :=
  let put (r : Option RepSave) : Option RepSave := r.map fun r => if r.overlaid then { r with word := w } else r
  if (0 < st.rep) && (st.rword.any RepSave.overlaid) then { st with rword := put st.rword } else { st with savedRep := put st.savedRep }

/-- A strand as its record in an area holds it, with what of its pending bytes lies in the unit state; what the record does not hold
is as the strand was saved. -/
def Strand.load (st : Strand) (m : Memory) (o : Nat) (more : List Byte) : Strand :=
  let n (i k : Nat) : Nat := leNat (m.readBytes (o + i) k)
  let w (i : Nat) : Word := BitVec.ofNat 64 (n i 8)
  let st := (st.loadPend (m.readBytes (o + 0x350) 176 ++ more)).loadWord (BitVec.ofNat 256 (n 0xC00 32))
  { st with
    window := st.loadWindow (m.readBytes (o + 0x150) 512) (min st.window.length 16)
    status := match n 0 8 with
      | 0 => .free
      | 3 => .stopped
      | _ => .live
    regs := (List.range 10).map fun i => (i, w (8 + 8 * i))
    pw := BitVec.ofNat 8 (n 0x58 1) ||| 1, pc := BitVec.ofNat 24 (n 0x60 3), sstat := BitVec.ofNat 16 (n 0x68 2)
    spc := w 0x70, scause := w 0x78, sinfo := w 0x80, sds := w 0x88, xstep := w 0x90, mode := BitVec.ofNat 24 (n 0x98 3)
    fmt := BitVec.ofNat 16 (n 0xA0 2), srkey := w 0xA8, tbank := BitVec.ofNat 8 (n 0xB0 1), sdepth := n 0xB2 2
    mxs := BitVec.ofNat 32 (n 0xB4 4), vreq := (n 0xB8 1, n 0xB9 1), vgrant := (n 0xBA 1, n 0xBB 1)
    acct := (w 0xC0).toInt, scSeq := n 0xC8 8
    ret := (List.range (n 0xB1 1)).map fun i => BitVec.ofNat 24 (n (0xD0 + 8 * i) 3)
    user := st.user.load m (o + 0x400), trap := st.trap.load m (o + 0x800) }

/-! ## The tile's engines and units (R362; log entry 69) -/

def Line.image (l : Line) : List Byte := sized l.data ++ words [l.kind, l.cnt, l.fmt, l.loc.toNat]

def Line.read (bs : List Byte) : Line × List Byte :=
  let (d, r) := rdSized bs
  let (w, r) := rdW 4 r
  ({ data := d, kind := w.getD 0 0, cnt := w.getD 1 0, fmt := w.getD 2 0, loc := w.getD 3 0 != 0 }, r)

def InMsg.image (m : InMsg) : List Byte := sized m.data ++ words [m.kind, m.slot, m.src]

def InMsg.read (bs : List Byte) : InMsg × List Byte :=
  let (d, r) := rdSized bs
  let (w, r) := rdW 3 r
  ({ data := d, kind := w.getD 0 0, slot := w.getD 1 0, src := w.getD 2 0 }, r)

def Piece.image (p : Piece) : List Byte := words [p.off, p.port, p.due.toNat] ++ sized p.data

def Piece.read (bs : List Byte) : Piece × List Byte :=
  let (w, r) := rdW 3 bs
  let (d, r) := rdSized r
  ({ off := w.getD 0 0, data := d, port := w.getD 1 0, due := w.getD 2 0 != 0 }, r)

def Wtt.image (i : Nat) (e : Wtt) : List Byte :=
  words [i, e.state, e.sem, e.thr, e.pc.toNat, e.arg.toNat, e.pri.toNat, e.mode.toNat, e.fmt.toNat, e.stamp, e.val]

def Wtt.read (bs : List Byte) : (Nat × Wtt) × List Byte :=
  let (w, r) := rdW 11 bs
  let g (i : Nat) : Nat := w.getD i 0
  ((g 0, { state := g 1, sem := g 2, thr := g 3, pc := BitVec.ofNat 24 (g 4), arg := BitVec.ofNat 64 (g 5), pri := g 6 != 0
           mode := BitVec.ofNat 24 (g 7), fmt := BitVec.ofNat 16 (g 8), stamp := g 9, val := g 10 }), r)

def CopyDesc.image (d : CopyDesc) : List Byte :=
  words [d.src.toNat, d.dst.toNat, d.n0, d.n1, d.n2, intNat d.sstr1, intNat d.sstr2, intNat d.dstr1, intNat d.dstr2, d.sem,
    d.inbox.toNat, d.inc, d.tag.toNat, d.itile, d.skind, d.dkind]

def CopyDesc.read (bs : List Byte) : CopyDesc × List Byte :=
  let (w, r) := rdW 16 bs
  let g (i : Nat) : Nat := w.getD i 0
  ({ src := BitVec.ofNat 64 (g 0), dst := BitVec.ofNat 64 (g 1), n0 := g 2, n1 := g 3, n2 := g 4, sstr1 := natInt (g 5)
     sstr2 := natInt (g 6), dstr1 := natInt (g 7), dstr2 := natInt (g 8), sem := g 9, inbox := g 10 != 0, inc := g 11
     tag := BitVec.ofNat 64 (g 12), itile := g 13, skind := g 14, dkind := g 15 }, r)

def CopyEnt.image (i : Nat) (c : CopyEnt) : List Byte :=
  words [i, c.gen, c.state, c.owner, c.done, c.id, c.abort.toNat, c.fails, c.buf.isSome.toNat] ++ c.desc.image
    ++ sized (c.buf.getD []) ++ nats c.after

def CopyEnt.read (bs : List Byte) : (Nat × CopyEnt) × List Byte :=
  let (w, r) := rdW 9 bs
  let g (i : Nat) : Nat := w.getD i 0
  let (d, r) := CopyDesc.read r
  let (buf, r) := rdSized r
  let (after, r) := rdNats r
  ((g 0, { gen := g 1, state := g 2, owner := g 3, desc := d, done := g 4, id := g 5, after := after, abort := g 6 != 0
           buf := if g 8 = 0 then none else some buf, fails := g 7 }), r)

def Sock.image (i : Nat) (q : Sock) : List Byte :=
  words [i, optNat q.owner, q.outbound.toNat, q.copy, q.appended, q.total, q.last.toNat, optNat q.ended] ++ sized q.part
    ++ nats (q.fifo.map BitVec.toNat)

def Sock.read (bs : List Byte) : (Nat × Sock) × List Byte :=
  let (w, r) := rdW 8 bs
  let g (i : Nat) : Nat := w.getD i 0
  let (part, r) := rdSized r
  let (fifo, r) := rdNats r
  ((g 0, { owner := natOpt (g 1), outbound := g 2 != 0, fifo := fifo.map (BitVec.ofNat 64), part := part, copy := g 3
           appended := g 4, total := g 5, last := g 6 != 0, ended := natOpt (g 7) }), r)

def NetOp.image (g : NetOp) : List Byte :=
  words [g.id, g.slot, g.get.toNat, g.far.toNat, g.near, g.n, g.inc, g.lsem, g.sem, g.suspended.toNat]
    ++ counted (g.left.map fun p => words [p.1, p.2]) ++ counted (g.got.map fun p => words [p.1] ++ sized p.2) ++ nats g.after

/-- A number and bytes. -/
def rdGot (bs : List Byte) : (Nat × List Byte) × List Byte :=
  let (n, r) := rdN bs
  let (d, r) := rdSized r
  ((n, d), r)

def NetOp.read (bs : List Byte) : NetOp × List Byte :=
  let (w, r) := rdW 10 bs
  let g (i : Nat) : Nat := w.getD i 0
  let (left, r) := rdList rdPair r
  let (got, r) := rdList rdGot r
  let (after, r) := rdNats r
  ({ id := g 0, slot := g 1, get := g 2 != 0, far := BitVec.ofNat 64 (g 3), near := g 4, n := g 5, left := left, got := got
     inc := g 6, lsem := g 7, sem := g 8, after := after, suspended := g 9 != 0 }, r)

def MxCmd.image (c : MxCmd) : List Byte :=
  words [c.id, c.fmt.toNat, c.satf.toNat, c.slot, c.phase, c.row, c.key.toNat, c.flags, c.suspended.toNat, c.met.toNat, c.fails]
    ++ sized c.line ++ sized c.buf ++ counted (c.seen.map fun e => words [e.1.toNat] ++ sized e.2) ++ nats c.after

def MxCmd.read (bs : List Byte) : MxCmd × List Byte :=
  let (w, r) := rdW 11 bs
  let g (i : Nat) : Nat := w.getD i 0
  let (line, r) := rdSized r
  let (buf, r) := rdSized r
  let (seen, r) := rdList rdGot r
  let (after, r) := rdNats r
  ({ id := g 0, line := line, fmt := BitVec.ofNat 16 (g 1), satf := g 2 != 0, slot := g 3, after := after, phase := g 4, row := g 5
     buf := buf, seen := seen.map fun e => (BitVec.ofNat 64 e.1, e.2), key := BitVec.ofNat 64 (g 6), flags := g 7
     suspended := g 8 != 0, met := g 9 != 0, fails := g 10 }, r)

def MigPkt.image (m : MigPkt) : List Byte :=
  words ((List.range 10).map (fun i => (m.regs.getD i 0).toNat)
      ++ [m.pw.toNat, m.pc.toNat, m.mode.toNat, m.fmt.toNat, m.src, m.slot, m.tbank.toNat, m.lid.toNat])
    ++ nats (m.ret.map BitVec.toNat)

def MigPkt.read (bs : List Byte) : MigPkt × List Byte :=
  let (w, r) := rdW 18 bs
  let g (i : Nat) : Nat := w.getD i 0
  let (ret, r) := rdNats r
  ({ regs := (w.take 10).map (BitVec.ofNat 64), pw := BitVec.ofNat 8 (g 10), pc := BitVec.ofNat 24 (g 11)
     mode := BitVec.ofNat 24 (g 12), ret := ret.map (BitVec.ofNat 24), fmt := BitVec.ofNat 16 (g 13), src := g 14, slot := g 15
     tbank := BitVec.ofNat 8 (g 16), lid := BitVec.ofNat 64 (g 17) }, r)

def Meet.read (bs : List Byte) : (Nat × Meet) × List Byte :=
  let (w, r) := rdW 4 bs
  ((w.getD 0 0, { count := w.getD 1 0, parties := w.getD 2 0, gen := w.getD 3 0 }), r)

def Bar.image (i : Nat) (b : Bar) : List Byte :=
  words [i, b.ph.toNat, b.acnt, b.tpart, b.cont.toNat, optNat b.delayed] ++ nats b.reports ++ nats b.after

def Bar.read (bs : List Byte) : (Nat × Bar) × List Byte :=
  let (w, r) := rdW 6 bs
  let g (i : Nat) : Nat := w.getD i 0
  let (reports, r) := rdNats r
  let (after, r) := rdNats r
  ((g 0, { ph := BitVec.ofNat 16 (g 1), acnt := g 2, tpart := g 3, cont := g 4 != 0, reports := reports, after := after
           delayed := natOpt (g 5) }), r)

def Chan.image (i : Nat) (c : Chan) : List Byte :=
  words [i, c.base, c.depth, c.lines, c.rsem, c.src, c.peer, c.pch, c.ssem, c.pdepth, c.plines, c.seqS, c.lineS, c.cred,
    c.rseq, c.rline, c.done, c.resync.toNat] ++ counted (c.errs.map fun e => words [e.1, e.2.toNat])

def Chan.read (bs : List Byte) : (Nat × Chan) × List Byte :=
  let (w, r) := rdW 18 bs
  let g (i : Nat) : Nat := w.getD i 0
  let (errs, r) := rdList rdPair r
  ((g 0, { base := g 1, depth := g 2, lines := g 3, rsem := g 4, src := g 5, peer := g 6, pch := g 7, ssem := g 8
           pdepth := g 9, plines := g 10, seqS := g 11, lineS := g 12, cred := g 13, rseq := g 14, rline := g 15, done := g 16
           resync := g 17 != 0, errs := errs.map fun e => (e.1, BitVec.ofNat 64 e.2) }), r)

def Ent.image (i : Nat) (e : Ent) : List Byte :=
  words [i, e.nsets, e.vfmt, e.k, e.f, e.dch, e.esem, e.uport, e.udev, e.utile, e.uent, e.set, e.flags]
    ++ nats e.ins ++ nats e.outs ++ nats e.discard ++ counted (e.taken.map fun v => words [v.1, v.2])
    ++ counted (e.prev.map fun v => words [v.1, v.2]) ++ counted (e.span.map fun v => words [v.1, v.2])
    ++ counted (e.part.map fun v => words [v.1, v.2]) ++ counted (e.bufs.map fun b => words [b.1] ++ counted (b.2.map Line.image))
    ++ counted (e.out.map fun v => words [v.1] ++ v.2.image)

def Ent.read (bs : List Byte) : (Nat × Ent) × List Byte :=
  let (w, r) := rdW 13 bs
  let g (i : Nat) : Nat := w.getD i 0
  let (ins, r) := rdNats r
  let (outs, r) := rdNats r
  let (discard, r) := rdNats r
  let (taken, r) := rdList rdPair r
  let (prev, r) := rdList rdPair r
  let (span, r) := rdList rdPair r
  let (part, r) := rdList rdPair r
  let (bufs, r) := rdList (fun bs =>
    let (n, r) := rdN bs
    let (l, r) := rdList Line.read r
    ((n, l), r)) r
  let (out, r) := rdList (fun bs =>
    let (n, r) := rdN bs
    let (l, r) := Line.read r
    ((n, l), r)) r
  ((g 0, { nsets := g 1, vfmt := g 2, k := g 3, f := g 4, dch := g 5, esem := g 6, ins := ins, outs := outs, uport := g 7
           udev := g 8, utile := g 9, uent := g 10, set := g 11, bufs := bufs, taken := taken, prev := prev, span := span
           part := part, flags := g 12, discard := discard, out := out }), r)

/-- A held sem.wait as the wait lists keep it. -/
def Strand.waitImage (k : Nat) (st : Strand) : List (List Byte) :=
  match st.hold.bind Hold.sem with
  | some h => [words [k, h.sem, h.thr, h.limit]]
  | none => []

/-- The 256 semaphores with ERR, 8 bytes each, at the start of their 128 KiB. -/
def Tile.semImage (x : Tile) : List Byte :=
  (List.range 256).flatMap fun i => leBytes (x.sem i).s 4 ++ leBytes (x.sem i).err.toNat 4

/-- What the 128 KiB at 0x13_7000 hold, in the order of R362. -/
def Tile.unitImage (x : Tile) : List Byte :=
  x.semImage ++ counted (x.strands.flatMap fun e => e.2.waitImage e.1) ++ counted (x.wtt.map fun e => e.2.image e.1)
    ++ counted (x.copies.map fun e => e.2.image e.1) ++ counted (x.socks.map fun e => e.2.image e.1)
    ++ counted (x.gets.map NetOp.image) ++ counted (x.mxq.map MxCmd.image) ++ counted (x.inbox.map InMsg.image)
    ++ counted (x.ingress.map Piece.image) ++ counted (x.arrq.map MigPkt.image)
    ++ counted (x.meets.map fun e => words [e.1, e.2.count, e.2.parties, e.2.gen])
    ++ counted (x.bars.map fun e => e.2.image e.1) ++ counted (x.chans.map fun e => e.2.image e.1)
    ++ counted (x.ents.map fun e => e.2.image e.1) ++ counted (slots.map fun k => sized ((x.strand k).pendBytes.drop 176))

/-! ## A tile's save area (R362) -/

/-- Where the hash lies in the header. -/
def hashAt : Nat := 0x126010

/-- The header in the order of R362, the slot ownership map after it (log entry 69). -/
def headerBytes (t ts : Nat) (lid : Word) (hash : List Byte) (x : Tile) : List Byte :=
  words [1, lid.toNat] ++ (hash ++ zeros 32).take 32
    ++ words [x.partword.toNat, x.ctx.toNat, x.ltile, t, x.hwin.toNat, optNat x.overlay, intNat x.mbudget, x.q, x.wsum,
      optNat (x.lastFmt.map BitVec.toNat), ts, x.issues, x.sent, x.rcvd]
    ++ words ((List.range 32).map fun i => optNat (Map.get? x.slotOwner i))

/-- The table store, entries 0 to 511. -/
def Tile.tableImage (x : Tile) : List Byte := (List.range 512).flatMap fun i => leBytes (Map.find emptyWord x.table i).toNat 32

/-- A tile's save area of 0x16_0000 bytes, as cells at their offsets. -/
def saveArea (o t ts : Nat) (lid : Word) (hash : List Byte) (x : Tile) : Memory :=
  let m := Memory.splice [] 0 0x100000 x.pool
  let m := m.splice 0x100000 0x20000 x.opmem
  let m := m.splice 0x120000 0x2000 x.scale
  let m := m.splice 0x122000 0x4000 (cellsOf x.tableImage)
  let m := m.splice 0x126000 0x1000 (cellsOf (padded o 0x126000 0x1000 (headerBytes t ts lid hash x)))
  let m := m.splice 0x127000 0x10000
    (cellsOf (slots.flatMap fun k => strandBytes o (0x127000 + 0x1000 * k) (x.strand k)))
  m.splice 0x137000 0x20000 (cellsOf (padded o 0x137000 0x20000 x.unitImage))

/-- A held sem.wait as the wait lists give it. -/
def Strand.loadWait (st : Strand) (w : List Nat) : Strand :=
  { st with hold := st.hold.map fun h => { h with sem := h.sem.map fun q =>
      { q with sem := w.getD 1 0, thr := w.getD 2 0, limit := w.getD 3 0 } } }

/-- The n bytes from address a that cells at rising addresses from there on give. -/
def denseBytes (w : Memory) (a n : Nat) : List Byte :=
  match n with
  | 0 => []
  | n + 1 =>
    match w with
    | [] => Memory.unlisted :: denseBytes [] (a + 1) n
    | (c, b) :: r => if c = a then b :: denseBytes r (a + 1) n else Memory.unlisted :: denseBytes ((c, b) :: r) (a + 1) n

/-- The engines and units of a tile as the bytes after its semaphores say, and what is left of its strands' pending bytes. -/
def Tile.loadUnits (x : Tile) (bs : List Byte) : Tile × List (List Byte) :=
  let (waits, r) := rdList (fun bs => rdW 4 bs) bs
  let (wtt, r) := rdList Wtt.read r
  let (copies, r) := rdList CopyEnt.read r
  let (socks, r) := rdList Sock.read r
  let (gets, r) := rdList NetOp.read r
  let (mxq, r) := rdList MxCmd.read r
  let (inbox, r) := rdList InMsg.read r
  let (ingress, r) := rdList Piece.read r
  let (arrq, r) := rdList MigPkt.read r
  let (meets, r) := rdList Meet.read r
  let (bars, r) := rdList Bar.read r
  let (chans, r) := rdList Chan.read r
  let (ents, r) := rdList Ent.read r
  let (more, _) := rdList rdSized r
  ({ x with
    strands := x.strands.map fun e => match waits.find? fun w => w.getD 0 0 == e.1 with
      | some w => (e.1, e.2.loadWait w)
      | none => e
    wtt := wtt, copies := copies, socks := socks, gets := gets, mxq := mxq, inbox := inbox, ingress := ingress, arrq := arrq
    meets := meets, bars := bars, chans := chans, ents := ents }, more)

/-- The tile with its header's fields. -/
def Tile.loadHeader (x : Tile) (bs : List Byte) : Tile :=
  let (w, r) := rdW 14 (bs.drop 48)
  let g (i : Nat) : Nat := w.getD i 0
  let (own, _) := rdW 32 r
  { x with
    partword := BitVec.ofNat 64 (g 0), ctx := BitVec.ofNat 16 (g 1), hwin := g 4 != 0, overlay := natOpt (g 5), mbudget := natInt (g 6)
    q := g 7, wsum := g 8, lastFmt := (natOpt (g 9)).map (BitVec.ofNat 16), issues := g 11, sent := g 12, rcvd := g 13
    slotOwner := ((List.range 32).zip own).filterMap fun e => (natOpt e.2).map fun o => (e.1, o) }

/-- A tile as its area holds it; what the area gives no place is as it was saved (log entry 17). -/
def Tile.load (x : Tile) (m : Memory) : Tile :=
  let n (a k : Nat) : Nat := leNat (m.readBytes a k)
  let (x, more) := (x.loadHeader (m.readBytes 0x126000 0x1000)).loadUnits (denseBytes (m.window 0x137800 0x1F800) 0 0x1F800)
  { x with
    pool := m.window 0 0x100000, opmem := m.window 0x100000 0x20000, scale := m.window 0x120000 0x2000
    table := ((List.range 512).map fun i => (i, BitVec.ofNat 256 (n (0x122000 + 32 * i) 32))).filter fun e => e.2 != emptyWord
    sems := ((List.range 256).map fun i =>
      (i, ({ s := n (0x137000 + 8 * i) 4, err := n (0x137004 + 8 * i) 4 != 0 } : Sem))).filter fun e => e.2.s != 0 || e.2.err
    strands := x.strands.map fun e => (e.1, e.2.load m (0x127000 + 0x1000 * e.1) (more.getD e.1 [])) }

end Sys2Proof.Machine
end

