-- ==== Sys2Proof/Machine/Gang.lean ====
section
/-! DEFINITION. Gang switches, saved contexts, restores, checkpoints, recovery, and the PSCTL commands (R356 to R366, R381,
R384, R385, R388). -/
namespace Sys2Proof.Machine

/-! ## The tiles and packets of a partition -/

/-- The launches of a partition that are placed. -/
def State.placedOn (s : State) (p : Nat) : List (Nat × Launch) :=
  s.launches.filter fun e => e.2.part == p && decide (1 ≤ e.2.phase)

/-- The tiles they hold. -/
def State.partTiles (s : State) (p : Nat) : List Nat := (s.placedOn p).flatMap fun e => e.2.tiles

/-- Packets on their way to the partition's tiles. -/
def State.inbound (s : State) (p : Nat) : List Packet :=
  let ts := s.partTiles p
  s.flight.filter fun q => ts.contains q.dst

/-! ## Commands (R388) -/

/-- A refused command. -/
def State.refuse (s : State) (p res : Nat) : State := s.setPart p { (s.part p) with res := res }

/-- An accepted command. -/
def State.accept (s : State) (p cmd : Nat) : State := s.setPart p { (s.part p) with cmd := cmd, busy := true }

/-- A switch is armed: TS at least 20,000 ticks ahead (R357). -/
def State.arm (s : State) (p : Nat) (ckpt : Bool) : State :=
  let ts := s.time + 20000 + Config.freeChoice s.oracle
  (s.tick.setPart p { (s.part p) with phase := 1, ts := ts, ckpt := ckpt }).setPState p 3

/-- Command 1. -/
def State.cmdSwitch (s : State) (p : Nat) : State :=
  if (s.part p).busy then s
  else if (s.part p).state ≠ 1 then s.refuse p 2
  else (s.accept p 1).arm p false

/-- Command 3. -/
def State.cmdCheckpoint (s : State) (p : Nat) : State :=
  if (s.part p).busy then s
  else if (s.part p).state ≠ 1 then s.refuse p 2
  else (s.accept p 3).arm p true

/-- Command 4: the stopped strand goes on as if it had executed sys.eret. -/
def State.cmdResume (s : State) (p lt slot : Nat) : State :=
  if (s.part p).busy then s
  else if (s.part p).state ≠ 1 then s.refuse p 2
  else
    let stopped := (s.partTiles p).find? fun t =>
      (s.tile t).ltile == lt && decide (slot < 16) && (s.strand t slot).status == .stopped
    match stopped with
    | none => s.refuse p 3
    | some t =>
      let s := (s.accept p 4).setStrand t slot { (s.strand t slot) with status := .live }
      let s := s.setPart p { (s.part p) with tgt := (lt, slot) }
      s.eret t slot

/-- Command 5: every strand and launch of the partition ends with STATUS 9. -/
def State.cmdEnd (s : State) (p : Nat) : State :=
  let x := s.part p
  if x.busy then s
  else if x.state ≠ 1 ∧ x.state ≠ 2 then s.refuse p 2
  else
    let ts := s.partTiles p
    let s := s.accept p 5
    let s := { s with flight := s.flight.filter fun q => !ts.contains q.dst && !ts.contains q.src }
    let s := (s.placedOn p).foldl (fun s e => endLaunch s e.1 e.2 9) s
    let s := match x.image with
      | some im => (im.launches ++ im.late).foldl (fun (s : State) (e : Nat × Launch) => s.finishRecord e.2.record 9) s
      | none => s
    let y := s.part p
    let s := s.setPart p { y with
      phase := 0, image := none, last := none, spill := [], sphead := y.sptail, nextCk := none, recov := [] }
    let s := s.paSet (s.psdAt p + 36) 4 y.sptail
    (s.setPState p 0).finish p 5 1

/-! ## Stopping (R357, R358) -/

/-- A gang switch ends a strand's reservation, and its wrs delivers 3 (R234, R358). -/
def switchResv (s : State) (t k : Nat) : State :=
  let s := s.endResv t k
  s.setStrand t k (wakeWrs (s.strand t k) 3 (s.tile t).cycle)

/-- Every reservation of the tile, and of its strands elsewhere, is lost. -/
def State.loseAll (s : State) (t : Nat) : State :=
  let s := (s.tile t).resv.foldl (fun s e => switchResv s e.tile e.slot) s
  let s := s.setTile t { (s.tile t) with resv := [] }
  slots.foldl (fun s k => switchResv s t k) s

/-- A tile at its stop: no word issues, a held strand stays held at its word (R358). -/
def stopTile (s : State) (t : Nat) : State :=
  let s := s.loseAll t
  s.setTile t { (s.tile t) with stopped := true }

/-- GANG_STOP: TS has come, and the tile stops (R357). -/
def execGangStop (t : Nat) (s : State) : Out :=
  match s.launchOf t with
  | none => .next s
  | some l =>
    let x := s.part l.part
    if (x.phase ≠ 1 ∧ x.phase ≠ 2) ∨ s.time < x.ts ∨ (s.tile t).stopped then .next s
    else
      let s := stopTile s t
      .next (s.setPart l.part { (s.part l.part) with phase := 2 })

/-! ## The spill ring (R359, R360) -/

/-- The kind of a packet in the ring; none: it enters no ring. -/
def spillKind (q : Packet) : Option Nat :=
  match q.body with
  | .msg m => some (if m.kind = 1 then 2 else 1)
  | .piece _ _ _ _ _ _ => some 3
  | .atomic _ => some 4
  | .chLine _ _ _ _ _ _ | .credit _ _ _ => some 5
  | .stLine _ _ _ => some 6
  | .barReport _ _ | .barRelease _ _ _ => some 7
  | .ipi _ _ => some (if q.slot = 16 then 9 else 8)
  | .irq35 _ _ => some 8
  | .migrate _ | .refused => some 10
  | .lsu _ _ _ _ | .pool _ _ _ | .vmem _ | .sem _ _ _ => none

/-- What an entry holds of a packet: byte 7, whether it is the operation's last piece, the far address or pool offset and the
signal word where the packet has them, and the payload. -/
structure SpillBody where
  num : Nat
  last : Bool
  addr : Option Word
  sig : Option Word
  data : List Byte

/-- An entry's fields by kind; the payloads of kinds 4, 7, 8 and 9 are laid out by the model (log entry 69). -/
def spillBody (b : Payload) : SpillBody :=
  match b with
  | .msg m => ⟨0, false, none, none, m.data⟩
  | .piece _ _ data last a sig => ⟨0, last, some a, some sig, data⟩
  | .atomic r => ⟨0, true, some (BitVec.ofNat 64 r.addr), none, words [r.v.toNat, r.cmp.toNat]⟩
  | .chLine c seq line l _ _ =>
    ⟨c, false, none, none, lineBytes l.data (seq % 2 ^ 32 * 2 ^ 32 + c * 2 ^ 24 + line * 2 ^ 16 + l.cnt * 2 ^ 12 + l.kind * 2 ^ 8)⟩
  | .credit c n _ => ⟨c, false, none, none, words [n]⟩
  | .stLine e _ l => ⟨e, false, none, none, lineBytes l.data (transitFlag e l)⟩
  | .barReport i child => ⟨i, false, none, none, words [child]⟩
  | .barRelease i stamp phrel => ⟨i, false, none, none, words [stamp, phrel.toNat]⟩
  | .ipi slot info => ⟨0, false, none, none, words [info.toNat, slot]⟩
  | .irq35 slot pay => ⟨0, false, none, none, words [pay.toNat, slot]⟩
  | .migrate m => ⟨0, false, none, none, m.bytes⟩
  | _ => ⟨0, false, none, none, []⟩

/-- 8 bytes of an entry, free where its packet has no such word. -/
def spillWord (o i : Nat) (w : Option Word) : List Byte :=
  match w with
  | some w => leBytes w.toNat 8
  | none => openBytes o i 8

/-- The 256 bytes of an entry (R360); what the manual does not place is free (log entry 17). -/
def spillBytes (o : Nat) (e : SpillEnt) : List Byte :=
  let b := spillBody e.pkt.body
  [BitVec.ofNat 8 ((spillKind e.pkt).getD 0), BitVec.ofNat 8 b.last.toNat] ++ leBytes e.ldst 2 ++ leBytes e.lsrc 2
    ++ [BitVec.ofNat 8 (if e.pkt.slot < 16 then e.pkt.slot else 0), BitVec.ofNat 8 b.num] ++ spillWord o 8 b.addr ++ spillWord o 16 b.sig
    ++ leBytes b.data.length 8 ++ b.data ++ zeros (128 - b.data.length) ++ zeros 96

/-- The ring has room. -/
def State.spillRoom (s : State) (p : Nat) : Bool :=
  let x := s.part p
  decide ((x.sptail + 2 ^ 32 - x.sphead) % 2 ^ 32 < 2 ^ s.psd p 32 1)

/-- The partition's descriptor and the entry of its spill ring that is written next. -/
def State.spillRuns (s : State) (p : Nat) : List (Nat × Nat) :=
  [s.psdRun p, (s.psd p 24 8 + 256 * ((s.part p).sptail % 2 ^ s.psd p 32 1), 256)]

/-- Add to a semaphore of a saved image: nothing is tested until the restart (R359, R364). -/
def semRaw (x : Tile) (i inc : Nat) (err : Bool) : Tile :=
  if i = 0xFF then x
  else
    let v := x.sem i
    { x with sems := Map.set x.sems i { s := (v.s + inc) % 2 ^ 32, err := v.err || err } }

/-- The packet still waits for an access it releases, or for a packet that lies in the ring (R330, R364). -/
def stillWaits (s : State) (p : Nat) (q : Packet) : Bool :=
  !s.performed q.after || q.after.any fun i => (s.part p).spill.any fun e => e.pkt.id == i

/-- Write an entry at SPTAIL (R359). -/
def State.spillPut (s : State) (p : Nat) (e : SpillEnt) : State :=
  let x := s.part p
  let a := s.psd p 24 8 + 256 * (x.sptail % 2 ^ s.psd p 32 1)
  let tail := (x.sptail + 1) % 2 ^ 32
  let s := s.devWrite a (spillBytes s.oracle e)
  let s := s.tick.setPart p { x with spill := x.spill ++ [{ e with ring := some x.sptail }], sptail := tail }
  s.paSet (s.psdAt p + 40) 4 tail

/-- The base a partition's image goes to: SAVE, or the checkpoint base that CKSEL does not name (R356, R365). -/
def State.saveBase (s : State) (p : Nat) : Nat :=
  let x := s.part p
  if !x.ckpt then s.psd p 0 8 else if x.cksel = 0 then s.psd p 16 8 else s.psd p 8 8

/-- A semaphore change reaches a saved image, and its area once that is written (R359). -/
def semSaved (s : State) (p t i inc : Nat) (err : Bool) : State :=
  let x := semRaw (s.tile t) i inc err
  let s := s.setTile t x
  if !x.halted ∨ i = 0xFF then s
  else s.devWrite (s.saveBase p + 0x160000 * x.ltile + 0x137000 + 8 * i) (leBytes (x.sem i).s 4 ++ leBytes (x.sem i).err.toNat 4)

/-- The strand still waits at its sender: its target has no room for it (R253, R255). -/
def waitsAtSender (s : State) (q : Packet) : Bool :=
  !s.performed q.after || decide (8 ≤ (s.tile q.dst).arrq.length) && (s.freeSlots q.dst).isEmpty

/-- A packet of the partition falls into the ring, or its semaphore change into the saved image (R359), once those before it
on its route have (R360); an access that an error suspended, and a change that still waits for what it releases, are saved with their strand (log entry 39), and a
strand that waits at the sender is saved there (R255). -/
def capture (s : State) (p : Nat) (q : Packet) : State :=
  let e : SpillEnt := { pkt := q, lsrc := (s.tile q.src).ltile, ldst := (s.tile q.dst).ltile, ring := none }
  let keep := (s.drop q.id).setPart p { (s.part p) with spill := (s.part p).spill ++ [e] }
  match q.body with
  | .sem i inc err =>
    if s.routeAhead q then s else if stillWaits s p q then keep else semSaved (s.drop q.id) p q.dst i inc err
  | b =>
    if q.stop then keep
    else if s.routeAhead q then s
    else if (b matches .migrate _) && waitsAtSender s q then s.drop q.id
    else if (spillKind q).isNone ∨ !s.spillRoom p then s
    else (s.drop q.id).spillPut p e

/-- A piece that a put or get has read, as it travels to tile u (R360). -/
def pieceEnt (s : State) (t u : Nat) (g : NetOp) (off : Nat) (bs : List Byte) : SpillEnt :=
  let sig := BitVec.ofNat 64 (g.inc % 65536 * 65536 + g.lsem % 256 * 256 + g.sem % 256)
  { pkt := { id := g.id, src := t, slot := g.slot, dst := u, after := [], stop := false
             body := .piece g.id off bs (off + bs.length == g.n) (g.ends off).2 sig }
    lsrc := (s.tile t).ltile, ldst := (s.tile u).ltile, ring := none }

/-- What was read stays with its operation in the saved context: the operation is suspended, or the piece is for a line of
memory that an earlier piece, still to be read or suspended, comes before (R245). -/
def pieceStays (s : State) (t : Nat) (g : NetOp) (off : Nat) : Bool :=
  g.suspended || (pieceTile s t g off).isNone && lineAhead s t g off

/-- The pieces on their way when the partition spills. -/
def State.piecesOut (s : State) (t : Nat) : List (NetOp × Nat × List Byte) :=
  (s.tile t).gets.flatMap fun g => (g.got.filter fun p => !pieceStays s t g p.1).map fun p => (g, p)

/-- A piece falls into the ring while it has room. -/
def capturePiece (s : State) (p t : Nat) (e : NetOp × Nat × List Byte) : State :=
  match pieceTile s t e.1 e.2.1 with
  | some u =>
    if !s.spillRoom p then s
    else
      let s := s.spillPut p (pieceEnt s t u e.1 e.2.1 e.2.2)
      s.setTile t { (s.tile t) with gets := (s.tile t).gets.map fun g =>
        if g.id = e.1.id then { g with got := g.got.filter fun q => q.1 != e.2.1 } else g }
  | none => s

/-- A piece of a copy, put or get that was read for a place in memory and is still to be written, or whose acknowledgement is
still to come (R106, R245, R393). -/
def midPiece (s : State) (t : Nat) : Bool :=
  ((s.tile t).copies.any fun e => e.2.state == 2 && e.2.buf.isSome)
    || (s.piecesOut t).any fun e => (pieceTile s t e.1 e.2.1).isNone

/-- Accesses of the partition's strands that must be performed, pieces that must be whole, and results that must deliver,
before the save (R358). -/
def State.unsettled (s : State) (p : Nat) : Bool :=
  let ts := s.partTiles p
  let due (b : Payload) : Bool := match b with
    | .lsu _ _ _ _ | .pool _ _ _ | .vmem _ | .atomic _ => true
    | _ => false
  (s.flight.any fun q => ts.contains q.src && !q.stop && due q.body)
    || ts.any fun t => midPiece s t || (s.tile t).strands.any fun e => (e.2.user.res ++ e.2.trap.res).any fun r =>
      r.due == none && (!r.wait || r.unit == .mdu)

/-- A 0x36 interrupt that waits at its tile for its strand's queue is in the mesh (R352). -/
def Irq36.packet (t : Nat) (i : Irq36) : Packet :=
  { id := i.id, src := i.src, slot := i.from_, dst := t, body := .ipi i.slot i.info, after := [], stop := false }

/-- The waiting 0x36 interrupts of a tile are packets in flight again, ahead of those that have not reached it. -/
def State.release36 (s : State) (t : Nat) : State :=
  let x := s.tile t
  { s.setTile t { x with wait36 := [] } with flight := x.wait36.map (Irq36.packet t) ++ s.flight }

/-- GANG_SPILL: every tile has stopped, every access that has to be performed is, and what is in flight falls into the
ring in order (R357, R359). -/
def execGangSpill (p : Nat) (s : State) : Out :=
  let ts := s.partTiles p
  if (s.part p).phase ≠ 2 ∨ !(ts.all fun t => (s.tile t).stopped) ∨ s.unsettled p
      ∨ s.trains (s.spillRuns p) then .next s
  else
    let s := ts.foldl (fun s t => (s.piecesOut t).foldl (fun s e => capturePiece s p t e) s) s
    let s := ts.foldl State.release36 s
    let s := (s.inbound p).foldl (fun s q => capture s p q) s
    .next (s.setPart p { (s.part p) with phase := 3 })

/-- SPILL_CAPTURE: a packet that reaches a partition that is saving. -/
def execSpillCapture (k : Nat) (s : State) : Out :=
  match s.packet k with
  | none => .next s
  | some q =>
    match s.launchOf q.dst with
    | none => .next s
    | some l =>
      if ((s.part l.part).phase ≠ 3 ∧ (s.part l.part).phase ≠ 4) ∨ s.trains (s.spillRuns l.part) then .next s
      else .next (capture s l.part q)

/-! ## Saving (R357, R361, R362) -/

/-- The hash of the object a tile runs. -/
def State.hashOf (s : State) (t : Nat) : List Byte := ((s.launchOf t).map fun l => l.record.hash).getD []

/-- The lines of a run that lie in a channel out of service (R422). -/
def State.downLines (s : State) (r : Nat × Nat) : List Nat := (linesOf r.1 r.2).filter fun i => s.chanDown (64 * i)

/-- Cells placed in HBM: what they replace is gone, latent errors with it. A channel out of service takes none: its lines stay,
each logged as an uncorrectable error (R380, R422). -/
def State.hbmPut (s : State) (a n : Nat) (m : Memory) : State :=
  let down := s.downLines (a, n)
  let out (b : Nat) : Bool := !decide (a ≤ b ∧ b < a + n) || down.contains (b / 64)
  let m := down.foldl (fun w i => w.writeBytes (64 * i) (s.hbm.readBytes (64 * i) 64)) (s.hbm.splice a n m)
  down.foldl (fun s i => (s.hbmLog (64 * i) 3).errIntr)
    { s with hbm := m, hbmBad := s.hbmBad.filter out, l2Bad := s.l2Bad.filter out }

/-- A strand stopped in an expansion saves SPC as its word's address and XSTEP as its next step (R163); a handler's own keeps those
of the trap that it handles (log entry 75). -/
def Strand.saveExp (st : Strand) : Strand :=
  match st.exp with
  | some e => if st.tl then st else { st with spc := e.ia.zeroExtend 64, xstep := encodeXstep 0 e.rep e.step }
  | none => st

/-- GANG_SAVE: the tile writes its area once no packet of its partition is in flight (R357, R362). -/
def execGangSave (t : Nat) (s : State) : Out :=
  match s.launchOf t with
  | none => .next s
  | some l =>
    let x := s.tile t
    if (s.part l.part).phase ≠ 3 ∨ !(s.inbound l.part).isEmpty ∨ x.halted
        ∨ ((s.partTiles l.part).any fun u => !(s.piecesOut u).isEmpty)
        ∨ s.trains [s.psdRun l.part, (s.saveBase l.part + 0x160000 * x.ltile, 0x160000)] then .next s
    else
      let a := s.saveBase l.part + 0x160000 * x.ltile
      let x := { x with strands := x.strands.map fun e => (e.1, e.2.saveExp) }
      let s := s.tick.hbmPut a 0x160000 (saveArea s.oracle t (s.part l.part).ts (s.lidOf t) (s.hashOf t) x)
      let s := s.setTile t { x with halted := true }
      if ((s.partTiles l.part).all fun u => (s.tile u).halted) then
        .next (s.setPart l.part { (s.part l.part) with phase := 4 })
      else .next s

/-- A packet of the kinds that R361 counts: messages and copy records, put and get pieces, interrupts. -/
def Payload.counted (b : Payload) : Bool :=
  match b with
  | .msg _ | .piece _ _ _ _ _ _ | .ipi _ _ => true
  | _ => false

/-- The pieces for pools that a suspended operation of the tile has read and keeps. -/
def State.keptPieces (s : State) (t : Nat) : Nat :=
  (((s.tile t).gets.filter NetOp.suspended).flatMap fun g => g.got.filter fun p => (pieceTile s t g p.1).isSome).length

/-- The counts of R361 balance: what was sent has been received or lies in the ring, but for the pieces that a suspended
operation keeps. -/
def State.balanced (s : State) (p : Nat) : Bool :=
  let ts := s.partTiles p
  let ring := ((s.part p).spill.filter fun e => e.pkt.body.counted).length
  (ts.map fun t => (s.tile t).sent).sum == (ts.map fun t => (s.tile t).rcvd).sum + ring + (ts.map s.keptPieces).sum

/-- The image of a partition as it stands. -/
def State.imageOf (s : State) (p : Nat) : Image :=
  { ts := (s.part p).ts, base := s.saveBase p, late := []
    tiles := (s.partTiles p).map fun t => { ltile := (s.tile t).ltile, tileid := t, tile := s.tile t }
    launches := s.placedOn p, spill := (s.part p).spill }

/-- The start is agreed at least 20,000 ticks ahead (R364). -/
def State.agree (s : State) (p : Nat) : State :=
  s.tick.setPart p { (s.part p) with phase := 6, ts := s.time + 20000 + Config.freeChoice s.oracle }

/-- A complete checkpoint: CKSEL and CKTS change, and the partition goes on in place (R365). -/
def endCheckpoint (s : State) (p : Nat) : State :=
  let x := s.part p
  let sel := 1 - x.cksel
  let s := s.setPart p { x with last := some (s.imageOf p), cksel := sel, ckts := x.ts }
  let s := s.paSet (s.psdAt p + 88) 8 x.ts
  let s := s.paSet (s.psdAt p + 96) 1 sel
  (s.finish p 3 1).agree p

/-- The core table's entries of a launch say that it is switched out: V and OUT (R366). -/
def markOut (s : State) (l : Launch) : State :=
  (List.range l.tiles.length).foldl (fun s lt => s.paSet (s.psd l.part 64 8 + 4 * lt) 4 (2 ^ 31 + 2 ^ 30 + l.tiles.getD lt 0)) s

/-- The partition reaches OUT: its launches and tiles leave the device (R357). -/
def endSwitch (s : State) (p : Nat) : State :=
  let im := s.imageOf p
  let s := im.launches.foldl (fun s e => markOut s e.2) s
  let s := unloadTiles s (s.partTiles p)
  let s := { s with launches := s.launches.filter fun e => !(e.2.part == p && decide (1 ≤ e.2.phase)) }
  let s := s.setPart p { (s.part p) with phase := 0, image := some im, nextCk := none }
  ({ (s.setPState p 2) with idleSince := s.time }.powerSplit).finish p 1 1

/-- GANG_OUT: every area is written and the counts balance (R361). -/
def execGangOut (p : Nat) (s : State) : Out :=
  let x := s.part p
  let core := (s.placedOn p).map fun e => (s.psd p 64 8, 4 * e.2.tiles.length)
  if x.phase ≠ 4 ∨ !s.balanced p ∨ s.trains (s.psdRun p :: core) then .next s
  else .next (if x.ckpt then endCheckpoint s p else endSwitch s p)

/-! ## Restoring (R364) -/

/-- Only one saved tile has this logical number: its area is its own (log entry 17). -/
def Image.sole (im : Image) (lt : Nat) : Bool := (im.tiles.filter fun v => v.ltile == lt).length == 1

/-- The hash that names a saved launch's object: the header's of its first tile (R364). -/
def State.savedHash (s : State) (im : Image) (id : Nat) (l : Launch) : List Byte :=
  match im.tiles.find? fun v => v.tile.launch == id with
  | some v => if im.sole v.ltile then s.hbm.readBytes (im.base + 0x160000 * v.ltile + hashAt) 32 else l.record.hash
  | none => l.record.hash

/-- The object of a saved launch, by its hash: the manual does not say which of several with one hash, and the model takes the
first it holds, of whatever context (DESIGN CHOICE, log entry 73). -/
def State.rebind (s : State) (im : Image) (id : Nat) (l : Launch) : Option Nat :=
  let h := s.savedHash im id l
  s.objects.findIdx? fun o => (o.hash ++ zeros 32).take 32 == (h ++ zeros 32).take 32

/-- The tile's area in HBM. -/
def Image.area (im : Image) (lt : Nat) : Nat × Nat := (im.base + 0x160000 * lt, 0x160000)

/-- The areas of an image are read: what can be corrected is, and every error that cannot be is logged and raises the error
vector (R380). -/
def State.areaRead (s : State) (r : Nat × Nat) : State :=
  let hits (bs : List Nat) : List Nat := bs.filter fun b => decide (r.1 ≤ b ∧ b < r.1 + r.2)
  let h := hits (s.hbmWeak.filter fun b => !s.inL2 b)
  let l := hits s.l2Weak
  let s := { s with hbmWeak := s.hbmWeak.filter fun b => !h.contains b }.logFixed 3 h
  let s := { s with l2Weak := s.l2Weak.filter fun b => !l.contains b }.logFixed 2 l
  let s := (hits (s.hbmBad.filter fun b => !s.inL2 b)).foldl (fun s b => (s.hbmLog b 3).errIntr) s
  let s := (s.downLines r).foldl (fun s i => (s.hbmLog (64 * i) 3).errIntr) s
  (hits s.l2Bad).foldl (fun s b => (s.hbmLog b 2).errIntr) s

/-- A saved tile as its area in HBM holds it (R364). -/
def State.loadArea (s : State) (im : Image) (v : Saved) : Tile :=
  if im.sole v.ltile then v.tile.load (s.hbm.window (im.base + 0x160000 * v.ltile) 0x160000) else v.tile

/-- The new place of a tile: the saved tile's logical number in its launch. -/
def newTile (s : State) (v : Saved) : Nat :=
  match Map.get? s.launches v.tile.launch with
  | some l => l.tiles.getD v.ltile v.tileid
  | none => v.tileid

/-- SINFO of 0x34 (R364). -/
def resumeInfo (ckpt moved rebound : Bool) : Word :=
  (Word.ofBool ckpt <<< 2) ||| (Word.ofBool moved <<< 1) ||| Word.ofBool rebound

/-- A restored expansion runs again from step 0 (R363). -/
def restoreStrand (st : Strand) : Strand :=
  { st with
    exp := st.exp.map fun e => match e.op with
      | .blk | .divd | .sqrtd => { e with step := 0 } }

/-- Place a saved launch on sori again. -/
def placeSaved (im : Image) (s : State) (e : Nat × Launch) : State :=
  match s.rebind im e.1 e.2 with
  | none => s
  | some i =>
    let l := e.2
    let cls := ((s.objects[i]?).map KObj.cls).getD 1
    let sori := pickSori s cls (soriOf l.record.x l.record.y) (s.freeSori l.part) fun _ => 0
    let tiles := s.mapTiles l.record.x l.record.y sori
    let s := { s with launches := Map.set s.launches e.1 { l with sori := sori, tiles := tiles, objIdx := i } }
    ballastRest (writeTables s l.part l.record.x l.record.y tiles) tiles sori

/-- Write a saved tile back to its place; its live strands will take 0x34 where their kernel binds it. -/
def loadSaved (s : State) (im : Image) (ckpt : Bool) (v : Saved) : State :=
  let t := newTile s v
  let x := s.tile t
  let was := (Map.get? im.launches v.tile.launch).map Launch.objIdx
  let now := (Map.get? s.launches v.tile.launch).map Launch.objIdx
  let info := resumeInfo ckpt (t != v.tileid) (was != now)
  let y := s.loadArea im v
  let s := s.setTile t { y with
    stopped := true, halted := false, counters := x.counters, watched := true, rf := x.rf, bal := x.bal
    pcache := [], strands := y.strands.map fun e => (e.1, restoreStrand e.2) }
  slots.foldl (fun s k =>
    if s.takesIrq t k 0x34 then s.setStrand t k { (s.strand t k) with irq34 := some info } else s) s

/-- A piece that was in the ring goes on to its destination. -/
def Tile.takePiece (x : Tile) (op off : Nat) (bs : List Byte) : Tile :=
  { x with gets := x.gets.map fun g => if g.id = op then { g with got := g.got ++ [(off, bs)] } else g }

/-- One entry of the ring is injected. -/
def injectEnt (s : State) (q : Packet) : State :=
  match q.body with
  | .piece op off bs _ _ _ => s.setTile q.src ((s.tile q.src).takePiece op off bs)
  | .irq35 slot pay => s.irq35 q.dst slot pay
  | _ => { s with flight := s.flight ++ [q] }

/-- What an entry of the ring carries, as its bytes say; what R360 gives no place is as it was written (log entry 17). -/
def unspillBody (b : Payload) (bs : List Byte) : Payload :=
  let addr : Word := BitVec.ofNat 64 (leNat ((bs.drop 8).take 8))
  let sig : Word := BitVec.ofNat 64 (leNat ((bs.drop 16).take 8))
  let d := ((bs.drop 32).take 128).take (leNat ((bs.drop 24).take 8))
  let num := fld bs 7 1
  let w (i : Nat) : Nat := (rdW 2 d).1.getD i 0
  match b with
  | .msg m => .msg { m with data := d }
  | .piece op off _ _ _ _ => .piece op off d (fld bs 1 1 % 2 == 1) addr sig
  | .atomic r => .atomic { r with addr := addr.toNat, v := BitVec.ofNat 64 (w 0), cmp := BitVec.ofNat 64 (w 1) }
  | .chLine _ _ _ l n pd =>
    .chLine num (fld d 60 4) (fld d 58 1) { l with data := d.take 56, kind := fld d 57 1 % 16, cnt := fld d 57 1 / 16 } n pd
  | .credit _ _ loc => .credit num (w 0) loc
  | .stLine _ port l =>
    .stLine num port { l with data := d.take 56, kind := fld d 57 1 % 16, cnt := fld d 57 1 / 16, fmt := fld d 58 1 % 16 }
  | .barReport _ _ => .barReport num (w 0)
  | .barRelease _ _ _ => .barRelease num (w 0) (BitVec.ofNat 64 (w 1))
  | .ipi _ _ => .ipi (w 1) (BitVec.ofNat 64 (w 0))
  | .irq35 _ _ => .irq35 (w 1) (BitVec.ofNat 32 (w 0))
  | .migrate m =>
    .migrate { m with
      regs := (rdW 10 d).1.map (BitVec.ofNat 64), pw := BitVec.ofNat 8 (fld d 80 1), pc := BitVec.ofNat 24 (fld d 81 3)
      mode := BitVec.ofNat 24 (fld d 84 3), fmt := BitVec.ofNat 16 (fld d 88 2)
      ret := (List.range (min (fld d 87 1) 4)).map fun i => BitVec.ofNat 24 (fld d (90 + 3 * i) 3), src := fld d 102 2
      slot := fld d 104 1, tbank := BitVec.ofNat 8 (fld d 105 1), lid := BitVec.ofNat 64 (fld d 108 8) }
  | b => b

/-- An entry of the ring as HBM holds it, while nothing has been written over it (R364). -/
def State.unspill (s : State) (p : Nat) (e : SpillEnt) : SpillEnt :=
  match e.ring with
  | none => e
  | some i =>
    let n := 2 ^ s.psd p 32 1
    if n < ((s.part p).sptail + 2 ^ 32 - i) % 2 ^ 32 then e
    else
      let bs := s.paRead (s.psd p 24 8 + 256 * (i % n)) 256
      { e with
        ldst := fld bs 2 2, lsrc := fld bs 4 2
        pkt := { e.pkt with slot := if e.pkt.slot < 16 then fld bs 6 1 else e.pkt.slot, body := unspillBody e.pkt.body bs } }

/-- The tile a packet's end names: the saved place, or another of its launch where the entry names another. -/
def spillPlace (s : State) (im : Image) (t lt : Nat) : Nat :=
  match im.tiles.find? fun v => v.tileid == t with
  | some v =>
    newTile s (((im.tiles.find? fun u => u.tile.launch == v.tile.launch && u.ltile == lt && v.ltile != lt)).getD v)
  | none => t

/-- The spill ring of an image is read and injected in ring order (R364). -/
def injectSpill (s : State) (p : Nat) (im : Image) : State :=
  let s := im.spill.foldl (fun s e =>
    let e := s.unspill p e
    injectEnt s { e.pkt with src := spillPlace s im e.pkt.src e.lsrc, dst := spillPlace s im e.pkt.dst e.ldst }) s
  let x := s.part p
  let s := s.setPart p { x with spill := [], sphead := x.sptail }
  s.paSet (s.psdAt p + 36) 4 x.sptail

/-- A launch placed after the checkpoint is loaded again from its record (R381). -/
def reload (s : State) (e : Nat × Launch) : State :=
  let l := e.2
  match s.objects[l.objIdx]? with
  | none => s
  | some o =>
    let l := { l with doneTiles := [], doneSori := [], doneAt := 0, status := 0 }
    loadLaunch s e.1 l o (pickSori s o.cls (soriOf l.record.x l.record.y) (s.freeSori l.part) fun _ => 0)

/-- Steps 2 and 3: the image is loaded, the ring injected, and the start agreed. -/
def loadImage (s : State) (p : Nat) (im : Image) (ckpt : Bool) : State :=
  let s := im.launches.foldl (placeSaved im) s
  let s := im.tiles.foldl (fun s v => loadSaved (s.areaRead (im.area v.ltile)) im ckpt v) s
  (im.late.foldl reload (injectSpill s p im)).powerSplit.agree p

/-- The firmware finds no object with the hash: a record of cause 0x38, and the partition stays out (R364). -/
def rebindFail (s : State) (p : Nat) (im : Image) : State :=
  if !s.faultRoom p then s
  else
    let lid := ((im.launches.head?).map fun e => e.2.record.lid).getD 0
    let s := postRecord s p
      { cause := 0x38, first := 0, ltile := 0, slot := 0, sup := false, spc := 0, sinfo := 0, xstep := 0, sds := 0
        time := s.time, lid := lid }
    let s := s.setPart p { (s.part p) with phase := 0 }
    ((s.setPState p 2).finish p 2 ((Config.openWord s.oracle).bits 3 0)).tick

/-- What a restore reads and writes of HBM: the descriptor, the rings, the areas, the core and route tables. -/
def State.imageRuns (s : State) (p : Nat) (im : Image) : List (Nat × Nat) :=
  s.faultRuns p ++ s.spillRuns p ++ (im.tiles.map fun v => im.area v.ltile)
    ++ im.launches.flatMap fun e => [(s.psd p 64 8, 4 * e.2.tiles.length), (s.psd p 72 8, 16 * e.2.tiles.length)]

/-- The restore of a switched-out partition, once it has enough free sori. -/
def tryRestore (s : State) (p : Nat) : State :=
  match (s.part p).image with
  | none => s
  | some im =>
    let need := ((im.launches ++ im.late).map fun e => soriOf e.2.record.x e.2.record.y).sum
    if s.trains (s.imageRuns p im) then s
    else if im.launches.any fun e => (s.rebind im e.1 e.2).isNone then rebindFail s p im
    else if (s.freeSori p).length < need then s
    else
      let s := loadImage (s.setPState p 3) p { im with spill := (s.part p).spill } false
      s.setPart p { (s.part p) with image := none }

/-- Command 2. -/
def State.cmdRestore (s : State) (p : Nat) : State :=
  if (s.part p).busy then s
  else if (s.part p).state ≠ 2 then s.refuse p 2
  else tryRestore ((s.accept p 2).setPart p { ((s.accept p 2).part p) with phase := 5 }) p

/-- An armed entry is tested at the restart (R315, R364). -/
def retest (x : Tile) : Tile :=
  { x with
    wtt := x.wtt.map fun e =>
      if e.2.state = 1 ∧ serialGe (x.sem e.2.sem).s e.2.thr 32 then
        (e.1, { e.2 with state := 2, val := (x.sem e.2.sem).s })
      else e }

/-- A held word is attempted again: the watchdog and a sem.wait's limit start anew, and its wait is tested now (R337,
R358, R364). -/
def Hold.again (h : Hold) (x : Tile) (now : Nat) : Hold :=
  let test (w : SemHold) : SemHold :=
    let v := x.sem w.sem
    { w with met := if serialGe v.s w.thr 32 then some (v.s, v.err) else none, tout := false }
  { h with since := now, first := now, sem := h.sem.map test }

/-- A tile at its restart. -/
def Tile.resume (x : Tile) (now : Nat) : Tile :=
  { (retest x) with
    stopped := false, halted := false, refillAt := x.cycle + 256
    strands := x.strands.map fun e => (e.1, { e.2 with hold := e.2.hold.map fun h => h.again x now })
    mxq := x.mxq.map fun c => if c.phase = 0 then { c with met := false } else c }

/-- A strand that waited at its sender when it was saved offers its packet again (R255). -/
def offerAgain (s : State) (t k : Nat) : State :=
  match (s.strand t k).block with
  | some (.going v) =>
    let offered := s.flight.any fun q => match q.body with
      | .migrate _ => q.src == t && q.slot == k
      | .refused => q.dst == t && q.slot == k
      | _ => false
    if offered then s
    else
      let u := match classify v with
        | .ok p => ((s.poolTarget t p).map Prod.fst).getD t
        | .error _ => t
      s.send t k u (.migrate (packetOf s t k)) (s.earlier t k 4)
  | _ => s

/-- Every tile of the partition resumes. -/
def startPart (s : State) (p : Nat) : State :=
  let s := (s.partTiles p).foldl (fun s t =>
    let s := (s.setTile t ((s.tile t).resume s.time)).settleSlots t
    slots.foldl (fun s k => offerAgain s t k) s) s
  let per := s.psd p 84 4
  let x := s.part p
  let s := s.setPart p { x with
    phase := 0, nextCk := if per = 0 then none else some (x.nextCk.getD (s.time + 1000 * per)) }
  (s.setPState p 1).finish p 2 1

/-- RESTORE_START: at the agreed TIME every tile resumes; a restore that waits for sori tries again (R364, R388). -/
def execRestoreStart (p : Nat) (s : State) : Out :=
  let x := s.part p
  if x.phase = 5 then .next (tryRestore s p)
  else if x.phase ≠ 6 ∨ s.time < x.ts ∨ s.trains (s.spillRuns p) then .next s
  else
    match x.last with
    | some im => if x.ckpt then .next (startPart (injectSpill s p { im with spill := x.spill }) p) else .next (startPart s p)
    | none => .next (startPart s p)

/-- CHECKPOINT_TIMER: every CKPER µs a checkpoint is armed, from when a partition in STATE 1 has a CKPER (R365). -/
def execCheckpointTimer (p : Nat) (s : State) : Out :=
  let x := s.part p
  let per := s.psd p 84 4
  if s.trains [s.psdRun p] then .next s
  else match x.nextCk with
  | none => if per = 0 ∨ x.state ≠ 1 then .next s else .next (s.setPart p { x with nextCk := some (s.time + 1000 * per) })
  | some at' =>
    if per = 0 then .next (s.setPart p { x with nextCk := none })
    else if s.time < at' ∨ x.state ≠ 1 ∨ x.phase ≠ 0 then .next s
    else .next ((s.setPart p { x with nextCk := some (at' + 1000 * per) }).arm p true)

def execGangSwitch (p : Nat) (s : State) : Out := .next (s.cmdSwitch p)
def execGangRestore (p : Nat) (s : State) : Out := .next (s.cmdRestore p)
def execGangCheckpoint (p : Nat) (s : State) : Out := .next (s.cmdCheckpoint p)
def execStrandResume (p lt slot : Nat) (s : State) : Out := .next (s.cmdResume p lt slot)
def execEndPartition (p : Nat) (s : State) : Out := .next (s.cmdEnd p)

/-! ## Recovery (R381, R384, R385) -/

/-- The stipe is to be retired: replay was exhausted, or an uncorrectable error recurs in the tile (R384). -/
def mustRetire (s : State) (t cause : Nat) : Bool := cause == 0x32 || (cause == 0x31 && s.recurs.contains t)

/-- The error lies in HBM outside the partition's checkpoint images (R381). -/
def outsideImages (s : State) (p : Nat) (cause : Nat) (info : Word) : Bool :=
  let a := info.bits 51 0
  let n := 0x160000 * (s.partTiles p).length
  let inside (b : Nat) : Bool := decide (b ≤ a ∧ a < b + n)
  cause == 0x31 && info.bits 63 60 == 3 && !inside (s.psd p 8 8) && !inside (s.psd p 16 8)

/-- The partition's tiles, packets and launches leave for a restore from its last checkpoint; launches that have ended
since are not restored, later ones will be loaded again. -/
def rollback (s : State) (p : Nat) (im : Image) : State × Image :=
  let ts := s.partTiles p
  let placed := s.placedOn p
  let late := placed.filter fun e => (Map.get? im.launches e.1).isNone
  let keep (id : Nat) : Bool := placed.any fun e => e.1 == id
  let im := { im with
    launches := im.launches.filter fun e => keep e.1, tiles := im.tiles.filter fun v => keep v.tile.launch, late := late }
  let s := { s with
    flight := s.flight.filter fun q => !ts.contains q.dst && !ts.contains q.src
    launches := s.launches.filter fun e => !(e.2.part == p && decide (1 ≤ e.2.phase)) }
  (unloadTiles s ts, im)

/-- No sorus is left: the partition stays out, with a record of cause 0x31 (R385). -/
def stayOut (s : State) (p : Nat) (im : Image) : State :=
  let s := postRecord s p
    { cause := 0x31, first := 0, ltile := 0, slot := 0, sup := false, spc := 0, sinfo := 0, xstep := 0, sds := 0
      time := s.time, lid := ((im.launches.head?).map fun e => e.2.record.lid).getD 0 }
  let s := s.setPart p { (s.part p) with phase := 0, image := some im, spill := im.spill, nextCk := none, recov := [] }
  { s.setPState p 2 with idleSince := s.time }.powerSplit

/-- Restore a partition from its last checkpoint (R381). -/
def recoverFrom (s : State) (p : Nat) (im : Image) : State :=
  let (s, im) := rollback s p im
  let need := ((im.launches ++ im.late).map fun e => soriOf e.2.record.x e.2.record.y).sum
  if (s.freeSori p).length < need then stayOut s p im
  else
    let s := loadImage (s.setPState p 3) p im true
    s.setPart p { (s.part p) with ckpt := false, recov := [] }

/-- The default Stop in place of a recovery: the record carries the cause (R381). -/
def recoverStop (s : State) (t k cause : Nat) : State :=
  let e := s.strand t k
  if k < 16 then s.stopStrand t k cause 0 e.psup e.spc e.sinfo e.xstep e.sds else s

/-- RECOVER: the firmware retires what must be retired and restores the partition, or stops the strand (R381). -/
def execRecover (p : Nat) (s : State) : Out :=
  let x := s.part p
  match x.recov with
  | [] => .next s
  | (t, k, cause) :: rest =>
    if x.state ≠ 1 ∨ x.phase ≠ 0 ∨ !s.faultRoom p
        ∨ s.trains (s.faultRuns p ++ (x.last.toList.flatMap fun im => s.imageRuns p im)) then .next s
    else
      let info := (s.strand t k).sinfo
      let s := s.setPart p { x with recov := rest }
      let s := if mustRetire s t cause then retireStipe s t else s
      match x.last with
      | some im =>
        if s.psd p 84 4 = 0 ∨ outsideImages s p cause info then .next (recoverStop s t k cause)
        else .next (recoverFrom s p im)
      | none => .next (recoverStop s t k cause)

end Sys2Proof.Machine
end

