-- ==== Sys2Proof/Machine/Devreg.lean ====
section
/-! DEFINITION. Device registers: the map of extended addresses (R386, R387), the HBM channels' registers (R421 to R427), logs
and counters as registers (R383, R390), PSCTL (R388), and sys.xrd and sys.xwr (R389). -/
namespace Sys2Proof.Machine

/-! ## HBM channels (R421 to R427) -/

/-- The key of channel ch of a stack. -/
def chKey (k ch : Nat) : Nat := k * 32 + ch

/-- Channel ch of stack k. -/
def State.channel (s : State) (k ch : Nat) : HbmCh := Map.find HbmCh.reset s.hbmCh (chKey k ch)

def State.setChannel (s : State) (k ch : Nat) (c : HbmCh) : State := { s with hbmCh := Map.set s.hbmCh (chKey k ch) c }

/-- Writes that train the channel are ignored (R427). -/
def HbmCh.closed (c : HbmCh) : Bool := !c.ctl.getLsbD 1 || c.busy

/-- A CHCTL write: TRAIN = 1 waits for the channel's accepted requests, everything else acts at once. -/
def chctlSet (c : HbmCh) (v : Word) : HbmCh :=
  let n : BitVec 2 := v.truncate 2
  if n.getLsbD 1 && !c.ctl.getLsbD 1 then { c with trainTo := some n } else { c with ctl := n, trainTo := none }

/-- CHCTL_WRITE. -/
def execChctlWrite (st ch : Nat) (v : Word) (s : State) : Out := .next (s.setChannel st ch (chctlSet (s.channel st ch) v))

/-- TRAIN_EFFECT: no accepted request is left, since each is performed in the event that accepts it. -/
def execTrainEffect (st ch : Nat) (s : State) : Out :=
  let c := s.channel st ch
  match c.trainTo with
  | none => .next s
  | some n => .next (s.setChannel st ch { c with ctl := n, trainTo := none })

/-- A PTCTL write: DIR is set, and GO starts a test. -/
def ptctlSet (c : HbmCh) (v : Word) (now : Nat) : HbmCh :=
  if c.closed then c
  else
    let c := { c with dir := v.bit 1 }
    if v.bit 0 then { c with busy := true, done := false, tout := false, started := now } else c

/-- READ_TEST: GO with DIR 0. -/
def execReadTest (st ch : Nat) (s : State) : Out := .next (s.setChannel st ch (ptctlSet (s.channel st ch) 1 s.time))

/-- WRITE_TEST: GO with DIR 1. -/
def execWriteTest (st ch : Nat) (s : State) : Out := .next (s.setChannel st ch (ptctlSet (s.channel st ch) 3 s.time))

/-- PATTERN_TEST_DONE: the failing lanes are what the dies answer (log entry 16). -/
def execPatternTestDone (st ch : Nat) (s : State) : Out :=
  let c := s.channel st ch
  if !c.busy ∨ c.started + 10000 ≤ s.time then .next s
  else .next (s.tick.setChannel st ch { c with busy := false, done := true, pterr := Config.patternMask s.oracle })

/-- PATTERN_TEST_TIMEOUT: after 10,000 ticks. -/
def execPatternTestTimeout (st ch : Nat) (s : State) : Out :=
  let c := s.channel st ch
  if !c.busy ∨ s.time < c.started + 10000 then .next s
  else .next (s.setChannel st ch { c with busy := false, done := true, tout := true, pterr := 0xFFFFFFFFFFFFFFFF })

/-- A write to hmode[n]. -/
def hmodeSet (c : HbmCh) (n : Nat) (v : Word) : HbmCh :=
  if c.closed then c else { c with hmode := Map.set c.hmode n (v.truncate 8) }

/-- HMODE_WRITE. -/
def execHmodeWrite (st ch n : Nat) (v : Word) (s : State) : Out := .next (s.setChannel st ch (hmodeSet (s.channel st ch) n v))

/-- Read register r of a channel. -/
def HbmCh.readReg (c : HbmCh) (r : Nat) : Word :=
  if 0x40 ≤ r ∧ r ≤ 0x4F then (Map.find 0 c.hmode (r - 0x40)).zeroExtend 64
  else
    match r with
    | 0x00 => (c.trainTo.getD c.ctl).zeroExtend 64
    | 0x01 => c.rdly.zeroExtend 64
    | 0x02 => c.wdly.zeroExtend 64
    | 0x03 => c.repair.zeroExtend 64
    | 0x04 => Word.ofBool c.dir <<< 1
    | 0x05 => Word.ofBool c.tout <<< 2 ||| Word.ofBool c.busy <<< 1 ||| Word.ofBool c.done
    | 0x06 => c.pterr
    | _ => 0

/-- Write register r of a channel. -/
def HbmCh.writeReg (c : HbmCh) (r : Nat) (v : Word) (now : Nat) : HbmCh :=
  if 0x40 ≤ r ∧ r ≤ 0x4F then hmodeSet c (r - 0x40) v
  else
    match r with
    | 0x00 => chctlSet c v
    | 0x01 => if c.closed then c else { c with rdly := v.truncate 6 }
    | 0x02 => if c.closed then c else { c with wdly := v.truncate 6 }
    | 0x03 => if c.closed then c else { c with repair := (v.truncate 9) &&& 0x13F }
    | 0x04 => ptctlSet c v now
    | _ => c

/-! ## Logs and tile counters as registers (R383, R390) -/

/-- Word w of an entry. -/
def LogEnt.word (e : LogEnt) (w : Nat) : Word :=
  match w with
  | 0 => BitVec.ofNat 64 e.time
  | 1 => BitVec.ofNat 64 (e.kind % 256 + e.level % 256 * 2 ^ 8 + e.src % 65536 * 2 ^ 16 + e.count % 2 ^ 32 * 2 ^ 32)
  | 2 => e.addr
  | _ => e.synd

/-- Where in the list (newest first) ring position j is. -/
def Log.index (l : Log) (j : Nat) : Nat := (l.lhead + 255 - j % 256) % 256

/-- The entry at position i becomes read. -/
def markRead (i : Nat) (es : List LogEnt) : List LogEnt :=
  match es, i with
  | [], _ => []
  | e :: r, 0 => { e with read := true } :: r
  | e :: r, i + 1 => e :: markRead i r

/-- Read register r of a log: words, LHEAD and LOST. -/
def readLog (s : State) (key r : Nat) : Word × State :=
  let l := Map.find Log.reset s.logs key
  if r < 0x400 then
    let i := l.index (r / 4)
    match l.ents[i]? with
    | some e => (e.word (r % 4), { s with logs := Map.set s.logs key { l with ents := markRead i l.ents } })
    | none => (0, s)
  else if r = 0x400 then (BitVec.ofNat 64 l.lhead, s)
  else if r = 0x401 then (BitVec.ofNat 64 l.lost, s)
  else (0, s)

/-- The tile with unit number u of a compute die (R386). -/
def unitTile (d u : Nat) : Nat := d * 1024 + u % 25 * 32 + u / 25

/-! ## PSCTL (R388) -/

/-- PSCTL as it reads. -/
def Part.psctl (x : Part) : Word :=
  BitVec.ofNat 64 (x.tgt.1 % 65536 * 2 ^ 32 + x.tgt.2 % 16 * 2 ^ 28 + x.res % 16 * 2 ^ 8 + x.busy.toNat * 8)

/-- The reserved bits of PSCTL. -/
def psctlReserved (v : Word) : Bool := v.bits 63 48 != 0 || v.bits 27 12 != 0 || v.bits 7 4 != 0

/-- A write to PSCTL. -/
def psctlWrite (s : State) (p : Nat) (v : Word) : State :=
  if (s.part p).busy then s
  else if psctlReserved v ∨ 6 ≤ v.bits 2 0 then s.refuse p 4
  else
    let s := s.setPart p { (s.part p) with tgt := (v.bits 47 32, v.bits 31 28) }
    match v.bits 2 0 with
    | 1 => s.cmdSwitch p
    | 2 => s.cmdRestore p
    | 3 => s.cmdCheckpoint p
    | 4 => s.cmdResume p (v.bits 47 32) (v.bits 31 28)
    | 5 => s.cmdEnd p
    | _ => s

/-! ## Device control (R387) -/

/-- The bits of the PHREL fields (R375). -/
def phrelMask : Word := 0x00000000FFFFFF01

/-- The strand of a saved tile that takes a 0x35: it is live and its kernel binds the cause. -/
def Saved.takes35 (s : State) (ls : List (Nat × Launch)) (slot : Nat) (v : Saved) : Bool :=
  (v.tile.strand slot).status == .live && match Map.get? ls v.tile.launch with
    | some l => (s.objects[l.objIdx]?.bind fun o => Map.get? o.handlers 0x35).isSome
    | none => false

/-- A 0x35 falls into the ring of its partition (R359). -/
def irqToRing (s : State) (p t lt slot : Nat) (pay : BitVec 32) : State :=
  let q : Packet := { id := s.nextId, src := t, slot := slot, dst := t, body := .irq35 slot pay, after := [], stop := false }
  { s with nextId := s.nextId + 1 }.spillPut p { pkt := q, lsrc := 0, ldst := lt, ring := none }

/-- A HIPI for a partition that is saved, or a tile whose area is written, finds room in the ring (R359). -/
def hipiReady (s : State) (v : Word) : Bool :=
  let p := v.bits 8 0
  match (s.partTiles p).find? fun t => (s.tile t).ltile == v.bits 31 16 with
  | some t => !(s.tile t).halted || s.spillRoom p
  | none => (s.part p).image.isNone || s.spillRoom p

/-- The extended address of HIPI (R387). -/
def isHipi (x : Word) : Bool := x.bits 31 24 == 0 && x.bits 23 3 == 9

/-- HIPI: interrupt 0x35 to a strand of the partition; for a saved strand it falls into the ring (R352, R359). -/
def hipiWrite (s : State) (v : Word) : State :=
  let p := v.bits 8 0
  let slot := v.bits 15 12
  let lt := v.bits 31 16
  let pay : BitVec 32 := v.extractLsb' 32 32
  match (s.partTiles p).find? fun t => (s.tile t).ltile == lt with
  | some t => if !(s.tile t).halted then s.irq35 t slot pay else if s.takesIrq t slot 0x35 then irqToRing s p t lt slot pay else s
  | none =>
    match (s.part p).image with
    | none => s
    | some im =>
      match im.tiles.find? fun w => w.ltile == lt && w.takes35 s im.launches slot with
      | some w => irqToRing s p w.tileid lt slot pay
      | none => s

/-- HIPI. -/
def execHipi (v : Word) (s : State) : Out := .next (hipiWrite s v)

/-- A write to XLINV (R86). -/
def xlinvReg (s : State) (v : Word) : State :=
  if s.xlinv.bit 63 ∨ v.bits 62 61 = 3 ∨ v.bits 60 16 ≠ 0 then s else startXlinv s (v &&& 0x7FFFFFFFFFFFFFFF)

/-- Read a register of the device control block. -/
def controlRead (s : State) (i : Nat) : Word :=
  if 0x10 ≤ i ∧ i ≤ 0x12 then Map.find 0 s.scrub (i - 0x10)
  else if 0x20 ≤ i ∧ i ≤ 0x2F then BitVec.ofNat 64 (Map.find 0 s.htemp (i - 0x20))
  else if 0x30 ≤ i ∧ i ≤ 0x3F then Map.find 0 s.suap (i - 0x30)
  else
    match i with
    | 0 => s.xlbase
    | 1 => s.xlinv
    | 2 => s.xlinva
    | 3 => s.psbase
    | 4 => s.qtbase
    | 5 => s.ltol
    | 6 => BitVec.ofNat 64 s.pwrst
    | 7 => s.bootst
    | 8 => s.irqv
    | _ => 0

/-- Write a register of the device control block. -/
def controlWrite (s : State) (i : Nat) (v : Word) : State :=
  if 0x10 ≤ i ∧ i ≤ 0x12 then { s with scrub := Map.set s.scrub (i - 0x10) (v &&& 0xFFFFFFFF) }
  else if 0x30 ≤ i ∧ i ≤ 0x3F then { s with suap := Map.set s.suap (i - 0x30) v }
  else
    match i with
    | 0 => { s with xlbase := v &&& 0x000FFFFFFFF00000 }
    | 1 => xlinvReg s v
    | 2 => if s.xlinv.bit 63 ∨ v.bits 63 56 ≠ 0 then s else { s with xlinva := v }
    | 3 => { s with psbase := v &&& 0x000FFFFFFFFFF000 }
    | 4 => { s with qtbase := v &&& 0x000FFFFFFFFFF000 }
    | 5 => { s with ltol := v }
    | 8 => { s with irqv := v &&& 0xFFFFFFFF }
    | 9 => hipiWrite s v
    | _ => s

/-! ## All blocks (R386) -/

/-- BLOCK and INDEX of an extended address. -/
def xBlock (x : Word) : Nat := x.bits 31 24

def xIndex (x : Word) : Nat := x.bits 23 3

/-- A compute die's registers. -/
def dieRead (s : State) (d i : Nat) : Word × State :=
  let u := i / 2048
  let r := i % 2048
  if u = 600 then readLog s (logL2 d) r
  else if 600 < u then (0, s)
  else if 0x408 ≤ r ∧ r ≤ 0x40D then (Map.find 0 (s.tile (unitTile d u)).counters (r - 0x408), s)
  else readLog s (unitTile d u) r

def dieWrite (s : State) (d i : Nat) (v : Word) : State :=
  let u := i / 2048
  let r := i % 2048
  if u < 600 ∧ 0x408 ≤ r ∧ r ≤ 0x40D then
    let t := unitTile d u
    let x := s.tile t
    s.setTile t { x with counters := Map.set x.counters (r - 0x408) v }
  else s

/-- The place of a log in its block. -/
def logBase : Nat := 0x1FF000

/-- Read a device register; a log word that is read is marked so. -/
def regRead (s : State) (host : Bool) (x : Word) : Word × State :=
  let b := xBlock x
  let i := xIndex x
  if b = 0 then (controlRead s i, s)
  else if b = 1 then
    if 1152 ≤ i then (0, s)
    else if i % 4 = 0 then ((s.part (i / 4)).psctl, s)
    else if i % 4 = 1 then ((s.part (i / 4)).phrel, s)
    else (0, s)
  else if b = 2 then (if i < 1024 then Map.find 0 s.windows i else 0, s)
  else if 8 ≤ b ∧ b ≤ 0x0F then dieRead s (b - 8) i
  else if 0x10 ≤ b ∧ b ≤ 0x1F then
    if logBase ≤ i then readLog s (logStack (b - 16)) (i - logBase)
    else if host ∨ 8192 ≤ i then (0, s)
    else ((s.channel (b - 16) (i / 256)).readReg (i % 256), s)
  else if b = 0x20 ∨ b = 0x21 then
    if logBase ≤ i then readLog s (logIod (b - 0x20)) (i - logBase) else (0, s)
  else (0, s)

/-- Write a device register. -/
def regWrite (s : State) (host : Bool) (x v : Word) : State :=
  let b := xBlock x
  let i := xIndex x
  if b = 0 then controlWrite s i v
  else if b = 1 then
    if 1152 ≤ i then s
    else if i % 4 = 0 then psctlWrite s (i / 4) v
    else if i % 4 = 1 then s.setPart (i / 4) { (s.part (i / 4)) with phrel := v &&& phrelMask }
    else s
  else if b = 2 then (if i < 1024 then { s with windows := Map.set s.windows i v } else s)
  else if 8 ≤ b ∧ b ≤ 0x0F then dieWrite s (b - 8) i v
  else if 0x10 ≤ b ∧ b ≤ 0x1F ∧ !host ∧ i < 8192 then
    s.setChannel (b - 16) (i / 256) ((s.channel (b - 16) (i / 256)).writeReg (i % 256) v s.time)
  else s

/-- In recovery the function has BAR0 only, and shows BOOTST and the mailbox there (R395). -/
def State.bar0Only (s : State) : Bool := s.bootst.bits 7 0 == 0x80

/-- DEVICE_REGISTER_WRITE: the host at a BAR0 offset, or firmware at an extended address. -/
def execDeviceRegisterWrite (host : Bool) (x v : Word) (s : State) : Out :=
  .next (if host && s.bar0Only then s else regWrite s host x v)

/-! ## sys.xrd and sys.xwr (R389) -/

/-- The checks of a trigger value: cause and SINFO, ACCESS 0 to read and 1 to write. -/
def xaddrCheck (access : Nat) (v : Word) : Option (Nat × Word) :=
  if v.bits 63 32 ≠ 0 then some (0x0F, sinfo78 1 0 access v)
  else if v.bits 2 0 ≠ 0 then some (0x0E, sinfo78 0 0 access v)
  else none

/-- SYS_XRD. -/
def execSysXrd (v : Word) (s : State) : Out :=
  match xaddrCheck 0 v with
  | some (c, i) => s.trapA 0x2C5 v c i
  | none =>
    let (y, s) := regRead s false v
    .next (s.resultLocked .sys y 2)

/-- SYS_XWR. -/
def execSysXwr (v : Word) (s : State) : Out :=
  match xaddrCheck 1 v with
  | some (c, i) => s.trapA 0x2C6 v c i
  | none => .next (regWrite s false v (s.opnd 0x2C0))

end Sys2Proof.Machine
end

