-- ==== Sys2Proof/Machine/Hostport.lean ====
section
/-! DEFINITION. The host's accesses through windows and CXL.mem to pools and HBM (R90 to R92, R391, R392). -/
namespace Sys2Proof.Machine

/-! ## Windows (R392) -/

/-- The window that serves an access: its KIND, CTX, word 1 and the offset within it. -/
structure HostWin where
  kind : Nat
  ctx : Nat
  w1 : Word
  rel : Nat
deriving DecidableEq, Repr

/-- The lowest-numbered window that holds the n bytes from a BAR4 offset. -/
def State.hostWin (s : State) (iod off n : Nat) : Option HostWin :=
  (List.range 256).findSome? fun e =>
    let w0 := Map.find 0 s.windows (512 * iod + 2 * e)
    let base := w0.bits 39 20 * 2 ^ 20
    if w0.bit 63 && decide (base ≤ off ∧ off + n ≤ base + w0.bits 19 0 * 2 ^ 20) then
      some { kind := w0.bits 62 61, ctx := w0.bits 55 40, w1 := Map.find 0 s.windows (512 * iod + 2 * e + 1),
             rel := off - base }
    else none

/-- The pieces of n bytes from an offset along 64-byte boundaries: offset and length (R91). -/
def hostSplit (fuel off n : Nat) : List (Nat × Nat) :=
  match fuel with
  | 0 => []
  | fuel + 1 =>
    if n = 0 then []
    else
      let k := min n (64 - off % 64)
      (off, k) :: hostSplit fuel (off + k) (n - k)

/-- A run of n bytes has at most n pieces. -/
def hostPieces (off n : Nat) : List (Nat × Nat) := hostSplit n off n

/-! ## The tile a pool window names -/

/-- A logical tile of a context as the host finds it. -/
inductive HostTile where
  | live (t : Nat)
  /-- switched out: partition, launch and logical tile -/
  | out (p id lt : Nat)
  | missing
deriving DecidableEq, Repr

/-- The latest launch among some that holds logical tile lt in a context: the manual does not say which of several of a
context the host reaches (DESIGN CHOICE, log entry 68). -/
def lastHolding (ls : List (Nat × Launch)) (ctx lt : Nat) : Option (Nat × Launch) :=
  (ls.filter fun e => e.2.ctx == ctx && decide (lt < e.2.record.x * e.2.record.y)).getLast?

/-- The tile that completed as logical tile lt of a context in its latest launch, and has not been loaded since (R324,
R403, R408; log entry 72). -/
def State.endedTile (s : State) (ctx lt : Nat) : Option Nat :=
  ((s.tiles.filter fun e => !e.2.loaded && e.2.done && e.2.ltile == lt && e.2.ctx.toNat == ctx).foldl (fun a e =>
    match a with
    | some b => if (s.tile b).launch < e.2.launch then some e.1 else a
    | none => some e.1) none)

/-- The tile with logical number lt of a context. -/
def State.hostTile (s : State) (ctx lt : Nat) : HostTile :=
  match lastHolding (s.launches.filter fun e => decide (1 ≤ e.2.phase)) ctx lt with
  | some (_, l) => match l.tiles[lt]? with
    | some t => .live t
    | none => .missing
  | none =>
    let out := s.parts.findSome? fun e => e.2.image.bind fun im => (lastHolding im.launches ctx lt).map fun l => (e.1, l.1)
    match out with
    | some (p, id) => .out p id lt
    | none => match s.endedTile ctx lt with
      | some t => .live t
      | none => .missing

/-- The saved tile of a launch of a switched-out partition. -/
def State.savedTile (s : State) (p id lt : Nat) : Option Saved :=
  (s.part p).image.bind fun im => im.tiles.find? fun v => v.tile.launch == id && v.ltile == lt

/-- Where a saved tile's area lies, when it is its own. -/
def State.savedAt (s : State) (p lt : Nat) : Option Nat :=
  (s.part p).image.bind fun im => if im.sole lt then some (im.base + 0x160000 * lt) else none

/-- The tile's data, loaded or saved. -/
def State.hostData (s : State) (h : HostTile) : Option Tile :=
  match h with
  | .live t => some (s.tile t)
  | .out p id lt => (s.savedTile p id lt).map Saved.tile
  | .missing => none

/-- One piece of a pool access: the tile, offset and length; none: refused (R113, R392). -/
def State.hostPiece (s : State) (w : HostWin) (off n : Nat) : Option (HostTile × Nat × Nat) :=
  let h := s.hostTile w.ctx (w.w1.bits 47 32 + off / 2 ^ 20)
  match s.hostData h with
  | some x => if region x.partword (off % 2 ^ 20) = .register then none else some (h, off % 2 ^ 20, n)
  | none => none

/-- All pieces of a pool access; none: refused. -/
def State.hostRun (s : State) (w : HostWin) (n : Nat) : Option (List (HostTile × Nat × Nat)) :=
  (hostPieces w.rel n).mapM fun e => s.hostPiece w e.1 e.2

/-- A refused access is logged; the manual names no KIND for it (log entry 25). -/
def State.hostRefuse (s : State) (iod off : Nat) : State :=
  (s.log (logIod iod) ((Config.openWord s.oracle).toNat % 256) 0 iod (BitVec.ofNat 64 off) 0).tick

/-- An error that a host access meets raises the error vector (R380). -/
def hostPoolBad (s : State) (t off : Nat) : State := (s.poolLog t off).errIntr

/-! ## Pools (R90 to R92) -/

/-- A saved tile with one more piece: applied to the pool image, or queued in the ingress image (R92). -/
def savedPiece (x : Tile) (q : Piece) : Tile :=
  if x.hwin then { x with ingress := x.ingress ++ [q] }
  else { x with pool := x.pool.writeBytes q.off q.data, poolBad := clearBad x.poolBad q.off q.data.length }

/-- A piece for a switched-out tile: it reaches the tile's image, and with HWINMODE 0 its bytes in HBM (R92). -/
def State.savePiece (s : State) (p id lt : Nat) (q : Piece) : State :=
  match (s.part p).image with
  | none => s
  | some im =>
    let tiles := im.tiles.map fun v =>
      if v.tile.launch = id ∧ v.ltile = lt then { v with tile := savedPiece v.tile q } else v
    let hwin := ((s.savedTile p id lt).map fun v => v.tile.hwin).getD true
    let s := s.setPart p { (s.part p) with image := some { im with tiles := tiles } }
    match s.savedAt p lt with
    | some a => if hwin then s else s.devWrite (a + q.off) q.data
    | none => s

/-- A piece enters its tile's ingress buffer, or reaches a saved image. -/
def putPiece (s : State) (h : HostTile) (q : Piece) : State :=
  match h with
  | .live t =>
    let x := s.tile t
    s.setTile t { x with ingress := x.ingress ++ [q] }
  | .out p id lt => s.savePiece p id lt q
  | .missing => s

/-- The pieces of a write, in order. -/
def putPieces (s : State) (port : Nat) (ps : List (HostTile × Nat × Nat)) (d : List Byte) : State :=
  match ps with
  | [] => s
  | (h, off, n) :: r =>
    putPieces (putPiece s h { off := off, data := d.take n, port := port, due := false }) port r (d.drop n)

/-- A piece has room: 32 lines in the tile's buffer or its image; HWINMODE 0 leaves an image's buffer alone. -/
def State.pieceRoom (s : State) (extra : Nat) (h : HostTile) : Bool :=
  match h with
  | .live t => decide ((s.tile t).ingress.length + extra ≤ 32)
  | .out p id lt => match s.savedTile p id lt with
    | some v => !v.tile.hwin || decide (v.tile.ingress.length + extra ≤ 32)
    | none => true
  | .missing => true

/-- The whole write has room. -/
def State.runRoom (s : State) (ps : List (HostTile × Nat × Nat)) : Bool :=
  ps.all fun e => s.pieceRoom (ps.filter fun f => f.1 == e.1).length e.1

/-- A pool write through a window. -/
def poolWindowWrite (s : State) (iod off : Nat) (w : HostWin) (d : List Byte) : State :=
  match s.hostRun w d.length with
  | none => s.hostRefuse iod off
  | some ps => if s.runRoom ps then putPieces s iod ps d else s

/-- The bytes of one piece of a pool read, and whether they are poisoned: those of a switched-out tile come from its image in
HBM (R392). -/
def readPiece1 (s : State) (h : HostTile) (off n : Nat) : List Byte × Bool × State :=
  match h with
  | .live t =>
    let x := s.tile t
    if (hasBad x.poolBad off n).isSome then (x.pool.readBytes off n, true, hostPoolBad s t off)
    else (x.pool.readBytes off n, false, s.poolScrub t off n)
  | .out p id lt =>
    match s.savedAt p lt, s.savedTile p id lt with
    | some a, some v =>
      let bad := s.hbmFault (a + off) n || (hasBad v.tile.poolBad off n).isSome
      let bs := s.paRead (a + off) n
      if bad then (bs, true, (s.hbmLog (a + off) (s.errLevel (a + off) n)).errIntr) else (bs, false, s.hbmScrub (a + off) n)
    | none, some v =>
      let bad := (hasBad v.tile.poolBad off n).isSome
      (v.tile.pool.readBytes off n, bad, if bad then hostPoolBad s v.tileid off else s)
    | _, none => (zeros n, false, s)
  | .missing => (zeros n, false, s)

/-- The bytes of a pool read, and whether it completes poisoned. -/
def readPieces (s : State) (ps : List (HostTile × Nat × Nat)) : List Byte × Bool × State :=
  match ps with
  | [] => ([], false, s)
  | (h, off, n) :: r =>
    let (bs, bad, s) := readPiece1 s h off n
    let (cs, b, s) := readPieces s r
    (bs ++ cs, bad || b, s)

/-- A completion towards the host. -/
def State.answerHost (s : State) (h : HostOut) : State := { s with hostOut := s.hostOut ++ [h] }

/-- A pool read through a window. -/
def poolWindowRead (s : State) (iod off : Nat) (w : HostWin) (n : Nat) : State :=
  match s.hostRun w n with
  | none => (s.hostRefuse iod off).answerHost .unsupported
  | some ps =>
    let (bs, bad, s) := readPieces s ps
    s.answerHost (.readData bs bad)

/-! ## HBM (R87, R391) -/

/-- The PA of one piece of an access to HBM. -/
inductive HostPa where
  | cxl
  | win (w : HostWin)
deriving DecidableEq, Repr

/-- The PA of CXL.mem offset h (R391). -/
def cxlPa (h : Nat) : Option Nat := if h < 16 * 0xC00000000 then some (h / 0xC00000000 * 2 ^ 36 + h % 0xC00000000) else none

/-- The PA a piece at an offset reaches. -/
def State.hostPa (s : State) (h : HostPa) (off : Nat) (wr : Bool) : Option Nat :=
  match h with
  | .cxl => cxlPa off
  | .win w =>
    if w.kind = 2 then
      let pa := (w.w1.toNat + off) % 2 ^ 52
      if isHole pa then none else some pa
    else
      let va := w.w1 + BitVec.ofNat 64 off
      match pageAccess va (!wr) wr (walkTables s w.ctx va) with
      | .ok pa => some pa
      | .fault _ _ _ _ => none

/-- The pieces of an access to HBM with their PAs; none: one of them reaches no HBM. -/
def State.hbmRun (s : State) (h : HostPa) (off n : Nat) (wr : Bool) : Option (List (Nat × Nat)) :=
  (hostPieces off n).mapM fun e => (s.hostPa h e.1 wr).map fun pa => (pa, e.2)

/-- The walks of an access through a window of virtual addresses: context and address. -/
def hostWalks (h : HostPa) (off n : Nat) : List (Nat × Word) :=
  match h with
  | .win w => if w.kind = 2 then [] else (hostPieces off n).map fun e => (w.ctx, w.w1 + BitVec.ofNat 64 e.1)
  | .cxl => []

/-- The walks read their tables (R380). -/
def State.hostWalked (s : State) (h : HostPa) (off n : Nat) : State :=
  (hostWalks h off n).foldl (fun s e => s.devWalk e.1 e.2) s

/-- A walk of the access waits at a channel in training (R422). -/
def State.hostTrains (s : State) (h : HostPa) (off n : Nat) : Bool := (hostWalks h off n).any fun e => s.walkTrains e.1 e.2

/-- Write the pieces; a channel out of service makes an uncorrectable error of a piece (R422). -/
def putHbm (s : State) (ps : List (Nat × Nat)) (d : List Byte) : State :=
  match ps with
  | [] => s
  | (pa, n) :: r =>
    let s := if s.chanDown pa then (s.hbmLog pa 3).errIntr else s.paWrite pa (d.take n)
    putHbm s r (d.drop n)

/-- Read the pieces, and whether the completion is poisoned. -/
def readHbm (s : State) (ps : List (Nat × Nat)) : List Byte × Bool × State :=
  match ps with
  | [] => ([], false, s)
  | (pa, n) :: r =>
    let bad := s.hbmFault pa n
    let bs := s.paRead pa n
    let s := if bad then (s.hbmLog pa (s.errLevel pa n)).errIntr else s.hbmScrub pa n
    let (cs, b, s) := readHbm s r
    (bs ++ cs, bad || b, s)

/-- A channel of the run is in training: the access waits at its controller (R422). -/
def State.runTrains (s : State) (ps : List (Nat × Nat)) : Bool := ps.any fun e => s.training e.1

/-- A write to HBM. -/
def hbmWrite (s : State) (iod off : Nat) (h : HostPa) (at_ : Nat) (d : List Byte) : State :=
  if s.hostTrains h at_ d.length then s
  else match s.hbmRun h at_ d.length true with
  | none => (s.hostWalked h at_ d.length).hostRefuse iod off
  | some ps => if s.runTrains ps then s else putHbm (s.hostWalked h at_ d.length) ps d

/-- A read of HBM. -/
def hbmRead (s : State) (iod off : Nat) (h : HostPa) (at_ n : Nat) : State :=
  if s.hostTrains h at_ n then s
  else match s.hbmRun h at_ n false with
  | none => ((s.hostWalked h at_ n).hostRefuse iod off).answerHost .unsupported
  | some ps =>
    if s.runTrains ps then s
    else
      let (bs, bad, s) := readHbm (s.hostWalked h at_ n) ps
      s.answerHost (.readData bs bad)

/-! ## The accesses -/

/-- A write through BAR4: the window's KIND says where it goes. -/
def windowWrite (s : State) (iod off : Nat) (d : List Byte) : State :=
  match s.hostWin iod off d.length with
  | none => s.hostRefuse iod off
  | some w =>
    if w.kind = 0 then poolWindowWrite s iod off w d
    else if w.kind = 3 then s.hostRefuse iod off
    else hbmWrite s iod off (.win w) w.rel d

/-- A read through BAR4. -/
def windowRead (s : State) (iod off n : Nat) : State :=
  match s.hostWin iod off n with
  | none => (s.hostRefuse iod off).answerHost .unsupported
  | some w =>
    if w.kind = 0 then poolWindowRead s iod off w n
    else if w.kind = 3 then (s.hostRefuse iod off).answerHost .unsupported
    else hbmRead s iod off (.win w) w.rel n

/-- HOST_POOL_WRITE: a posted write to BAR4. -/
def execHostPoolWrite (iod off : Nat) (d : List Byte) (s : State) : Out :=
  .next (if s.bar0Only then s else windowWrite s iod off d)

/-- HOST_POOL_READ: a read of BAR4, served between issues and never waiting for HWIN (R90). -/
def execHostPoolRead (iod off n : Nat) (s : State) : Out :=
  .next (if s.bar0Only then s.answerHost .unsupported else windowRead s iod off n)

/-- The n bytes of a register that a read at an offset names. -/
def regBytes (v : Word) (off n : Nat) : List Byte := ((leBytes v.toNat 8).drop (off % 8)).take n

/-- A read of BAR0: the register at the offset, in recovery BOOTST alone (R386, R395). -/
def registerRead (s : State) (off n : Nat) : State :=
  let x := BitVec.ofNat 64 (off / 8 * 8)
  if s.bar0Only then s.answerHost (.readData (regBytes (if x = 0x38 then s.bootst else 0) off n) false)
  else
    let (v, s) := regRead s true x
    s.answerHost (.readData (regBytes v off n) false)

/-- A log or telemetry read through the I3C target: the register that BAR0 shows at the offset, in recovery too (R396; log entry
74). -/
def i3cRead (s : State) (off n : Nat) : State :=
  let (v, s) := regRead s true (BitVec.ofNat 64 (off / 8 * 8))
  s.answerHost (.readData (regBytes v off n) false)

/-- A read of BAR2 returns the queue's HEAD (R392). -/
def doorbellRead (s : State) (iod off n : Nat) : State :=
  s.answerHost (.readData (regBytes (BitVec.ofNat 64 (s.queue (65536 * iod + off / 8)).head) off n) false)

/-- HOST_HBM_ACCESS: CXL.mem, or a window of KIND 1 or 2; and the host's reads of BAR0, of BAR2 and through I3C. -/
def execHostHbmAccess (a : HbmAccess) (s : State) : Out :=
  match a.way with
  | .register => .next (registerRead s a.off a.n)
  | .i3c => .next (i3cRead s a.off a.n)
  | _ =>
    if s.bar0Only then .next (if a.write then s else s.answerHost .unsupported)
    else
      match a.way with
      | .cxl => .next (if a.write then hbmWrite s a.iod a.off .cxl a.off a.data else hbmRead s a.iod a.off .cxl a.off a.n)
      | .doorbell => .next (doorbellRead s a.iod a.off a.n)
      | _ => .next (if a.write then windowWrite s a.iod a.off a.data else windowRead s a.iod a.off a.n)

/-- A piece has been applied since the tile's last issue, and a strand is there that has a next one, be it after RESUME
(R91). -/
def Tile.pieceWaits (x : Tile) : Bool := x.pieced && x.strands.any fun e => e.2.status != .free

/-- The tile's pieces wait for the issue that follows RESUME: none of its strands runs. They keep no access to another place
back meanwhile, RESUME among them (DESIGN CHOICE, log entry 73). -/
def Tile.piecesStand (x : Tile) : Bool := x.pieceWaits && !x.strands.any fun e => e.2.status == .live

/-- Apply the oldest piece of a tile's ingress buffer, as one pool event (R91, R132). -/
def applyPiece (s : State) (t : Nat) : State :=
  let x := s.tile t
  match x.ingress with
  | [] => s
  | p :: r => (s.setTile t { x with ingress := r }).poolWrite t p.off p.data

/-- HOST_PIECE_APPLY: in HWINMODE 0 one piece between two issues, in arrival order; in HWINMODE 1 a piece that an HWIN issue
took up and a locked reservation held (R235). -/
def execHostPieceApply (t : Nat) (s : State) : Out :=
  let x := s.tile t
  match x.ingress with
  | [] => .next s
  | p :: _ =>
    if x.stopped || s.lockedOut t p.off p.data.length then .next s
    else if x.hwin then .next (if p.due then applyPiece s t else s)
    else if x.pieceWaits then .next s
    else .next (applyPiece (s.setTile t { x with pieced := true }) t)

/-- Apply pieces in order up to one that a locked reservation holds (R235). -/
def applyDue (n : Nat) (s : State) (t : Nat) : State :=
  match n with
  | 0 => s
  | n + 1 =>
    match (s.tile t).ingress with
    | [] => s
    | p :: _ => if s.lockedOut t p.off p.data.length then s else applyDue n (applyPiece s t) t

/-- In HWINMODE 1 every piece in the buffer is applied, after the moves of an HWIN-flagged word (R91). -/
def applyAll (n : Nat) (s : State) (t : Nat) : State :=
  let x := s.tile t
  applyDue n (s.setTile t { x with ingress := x.ingress.map fun p => { p with due := true } }) t

/-! ## Frames of the scale-up fabric (R260, R284, R393) -/

/-- The loaded tiles with a logical number. -/
def frameTiles (s : State) (lt : Nat) : List Nat :=
  (s.tiles.filter fun e => e.2.loaded && !isService e.1 && e.2.ltile == lt).map Prod.fst

/-- Those, and the saved tiles of switched-out partitions. -/
def frameHomes (s : State) (lt : Nat) : List HostTile :=
  (frameTiles s lt).map .live ++ s.parts.flatMap fun e => match e.2.image with
    | some im => (im.tiles.filter fun v => v.ltile == lt).map fun v => .out e.1 v.tile.launch lt
    | none => []

/-- The tile a frame belongs to, among those of its logical number (log entry 25). -/
def frameHome (s : State) (lt : Nat) : Option HostTile :=
  (frameHomes s lt)[Config.frameLaunch lt % (frameHomes s lt).length]?

/-- The line's check byte is right (R260). -/
def chkOk (d : List Byte) : Bool :=
  let b := (d ++ zeros 64).take 64
  xorBytes (b.take 56 ++ b.drop 57) == b.getD 56 0

/-- The line a frame of kind 1 carries, by its transit flag word (R259). -/
def frameLine (d : List Byte) : Line :=
  { data := (d ++ zeros 56).take 56, kind := fld d 57 1 % 16, cnt := fld d 57 1 / 16, fmt := fld d 58 1 % 16, loc := false }

/-- A stream line that came on U falls into the ring of its switched-out partition (R359). -/
def lineToRing (s : State) (p id lt ent : Nat) (l : Line) : State :=
  match s.savedTile p id lt with
  | none => s
  | some v =>
    let q : Packet :=
      { id := s.nextId, src := v.tileid, slot := 17, dst := v.tileid, body := .stLine ent 5 l, after := [], stop := false }
    { s with nextId := s.nextId + 1 }.spillPut p { pkt := q, lsrc := lt, ldst := lt, ring := none }

/-- A stream line enters input U of its entry (R284), or its partition's ring. A line whose check fails is not taken: the link
sends it again (R260). -/
def streamFrame (s : State) (f : Frame) : State :=
  if !chkOk f.data then s
  else
    match frameHome s f.destTile with
    | some (.live t) => s.send t 17 t (.stLine f.destEnt 5 (frameLine f.data)) []
    | some (.out p id lt) => lineToRing s p id lt f.destEnt (frameLine f.data)
    | _ => s

/-- What a frame of kind 2 or 3 does to HBM, and with kind 3 the bytes it answers with; a hole or an uncorrectable error is
logged and raises the error vector, and the bytes are then free (R380, R393; log entry 66). -/
def hbmFrame (s : State) (f : Frame) : State :=
  let pa := f.pa % 2 ^ 40
  let fails (n : Nat) : Bool := isHole pa || if f.kind = 2 then s.chanDown pa else s.hbmFault pa n
  let logged (n : Nat) : State := ((s.hbmLog pa (if f.kind = 2 then 3 else s.errLevel pa n)).errIntr).tick
  if f.kind = 2 then (if fails f.data.length then logged f.data.length else s.paWrite pa f.data)
  else if fails f.n then (logged f.n).sendFrame (farFrame f.srcDev 4 pa (openBytes s.oracle 0 f.n))
  else (s.hbmScrub pa f.n).sendFrame (farFrame f.srcDev 4 pa (s.paRead pa f.n))

/-- Read data comes: it is another device's memory as it stands, and answers the requests that wait for it. -/
def dataFrame (s : State) (f : Frame) : State :=
  let pa := f.pa % 2 ^ 40
  let mine (r : FarReq) : Bool :=
    r.dev == f.srcDev && r.pa % 2 ^ 40 == pa && r.n == f.data.length && !r.write && !r.done
  { s with
    far := s.far.writeBytes (farAt f.srcDev pa) f.data
    farReqs := s.farReqs.map fun r => if mine r then { r with data := f.data, done := true } else r }

/-- SCALEUP_FRAME: a frame of the device's own number; one of another is not for it (R284, R393). -/
def execScaleupFrame (f : Frame) (s : State) : Out :=
  if f.destDev ≠ Config.deviceNumber % 1024 then .next s
  else
    match f.kind with
    | 1 => .next (streamFrame s f)
    | 2 | 3 => .next (hbmFrame s f)
    | _ => .next (dataFrame s f)

/-! ## When an access from outside can be served -/

/-- A tile of HWINMODE 0, other than these, still has a piece of the port to apply: later accesses of the port come after it
(R90). -/
def State.piecesAhead (s : State) (port : Nat) (but : List HostTile) : Bool :=
  s.tiles.any fun e => !e.2.hwin && !e.2.stopped && !e.2.piecesStand && !but.contains (.live e.1)
    && e.2.ingress.any fun p => p.port == port

/-- Pieces of switched-out tiles lie in their save areas: a channel of one is in training (R422). -/
def State.savedTrains (s : State) (ps : List (HostTile × Nat × Nat)) : Bool :=
  ps.any fun e => match e.1 with
    | .out p _ lt => (s.savedAt p lt).any fun a => s.training (a + e.2.1)
    | _ => false

/-- A window access finds what it waits for: room, a channel not in training, the port's earlier pieces. -/
def windowReady (s : State) (iod off n : Nat) (wr : Bool) : Bool :=
  match s.hostWin iod off n with
  | none => true
  | some w =>
    if w.kind = 0 then
      match s.hostRun w n with
      | some ps => !s.piecesAhead iod (if wr then ps.map Prod.fst else []) && (!wr || s.runRoom ps) && !s.savedTrains ps
      | none => true
    else if w.kind = 3 then true
    else
      !s.hostTrains (.win w) w.rel n && match s.hbmRun (.win w) w.rel n wr with
      | some ps => !s.piecesAhead iod [] && !s.runTrains ps
      | none => true

/-- A frame of kind 1 finds room at its input, or in the ring. -/
def frameReady (s : State) (f : Frame) : Bool :=
  match frameHome s f.destTile with
  | some (.live t) => inputRoom s t f.destEnt 5
  | some (.out p _ _) => s.spillRoom p
  | _ => true

/-- An access that has come can be served now. -/
def State.inputReady (s : State) (i : Instr) : Bool :=
  match i with
  | .hostPoolWrite iod off d => windowReady s iod off d.length true
  | .hostPoolRead iod off n => windowReady s iod off n false
  | .hostHbmAccess a =>
    let n := if a.write then a.data.length else a.n
    match a.way with
    | .cxl => match s.hbmRun .cxl a.off n a.write with
      | some ps => !s.runTrains ps
      | none => true
    | .window => windowReady s a.iod a.off n a.write
    | .i3c => true
    | _ => !s.piecesAhead a.iod []
  | .doorbell iod off _ _ => !s.piecesAhead iod [] && !s.trains [(s.qentAt (65536 * iod + off / 8), 32)]
  | .hipi v => hipiReady s v
  | .deviceRegisterWrite _ x v => !isHipi x || hipiReady s v
  | .scaleupFrame f => if f.kind = 1 then frameReady s f else f.kind == 4 || !s.training (f.pa % 2 ^ 40)
  | _ => true

/-- The BAR4 unit of a pool write. -/
def poolUnit (i : Instr) : Option Nat :=
  match i with
  | .hostPoolWrite _ o _ => some (o / 2 ^ 20)
  | _ => none

/-- A pool write waits for nothing but a full ingress buffer, which holds no other tile's writes (R91). -/
def waitsForRoom (s : State) (i : Instr) : Bool :=
  match i with
  | .hostPoolWrite iod off d =>
    match s.hostWin iod off d.length with
    | some w => w.kind == 0 && match s.hostRun w d.length with
      | some ps => !s.piecesAhead iod (ps.map Prod.fst) && !s.savedTrains ps && !s.runRoom ps
      | none => false
    | none => false
  | _ => false

/-- What the host does by a write to a device register (R386). -/
def isRegWrite (i : Instr) : Bool :=
  match i with
  | .deviceRegisterWrite true _ _ | .hipi _ | .gangSwitch _ | .gangRestore _ | .gangCheckpoint _ | .strandResume _ _ _
  | .endPartition _ | .xlinvAll | .xlinvCtx _ | .xlinvRange _ => true
  | _ => false

/-- The port of a PCIe access, and whether it is a posted write (R90). A register is written through the physical function,
which the model takes to be that of I/O die 0 (DEDUCED, log entry 74). -/
def pcieAccess (i : Instr) : Option (Nat × Bool) :=
  match i with
  | .hostPoolWrite d _ _ | .doorbell d _ _ _ => some (d, true)
  | .hostPoolRead d _ _ => some (d, false)
  | .hostHbmAccess a => if a.way == .cxl || a.way == .i3c then none else some (a.iod, a.write)
  | i => if isRegWrite i then some (0, true) else none

/-- An access keeps a later one back that came in the same way: a posted write every later access of its port, but for other
tiles' pool writes where it waits for room (R90, R91, R304), a read the later reads; one by CXL.mem the later ones of its port; a frame the later ones to its entry, or of its
device (R284). -/
def sameWay (s : State) (i j : Instr) : Bool :=
  match i, j with
  | .hostHbmAccess a, .hostHbmAccess b =>
    if a.way == .i3c || b.way == .i3c then a.way == b.way
    else if a.way == .cxl || b.way == .cxl then a.way == b.way && a.iod == b.iod
    else a.iod == b.iod && (a.write || !b.write)
  | .scaleupFrame f, .scaleupFrame g =>
    if f.kind = 1 ∨ g.kind = 1 then f.kind == g.kind && f.destTile == g.destTile && f.destEnt == g.destEnt
    else f.srcDev == g.srcDev
  | _, _ =>
    match pcieAccess i, pcieAccess j with
    | some (d, w), some (e, v) =>
      d == e && (w || !v) && !(waitsForRoom s i && (poolUnit j).isSome && poolUnit i != poolUnit j)
    | _, _ => false

/-- What wakes the device (R377). -/
def wakes (i : Instr) : Bool :=
  match i with
  | .doorbell _ _ _ _ | .hostPoolWrite _ _ _ | .hostPoolRead _ _ _ | .hostHbmAccess _ | .deviceRegisterWrite _ _ _
  | .scaleupFrame _ | .hipi _ | .gangSwitch _ | .gangRestore _ | .gangCheckpoint _ | .strandResume _ _ _
  | .endPartition _ | .xlinvAll | .xlinvCtx _ | .xlinvRange _ | .getVersion _ | .getCapabilities _
  | .negotiateAlgorithms _ | .getDigests _ | .getCertificate _ | .challenge _ | .getMeasurements _ => true
  | _ => false

/-- The first input that can be taken, with those that stay: an input stays behind an earlier one of its way that waits. -/
def takeInput (s : State) (held rest : List Instr) : Option (Instr × List Instr) :=
  match rest with
  | [] => none
  | i :: r =>
    if s.inputReady i && !(held.any fun h => sameWay s h i) then some (i, held ++ r)
    else takeInput s (held ++ [i]) r

end Sys2Proof.Machine
end

