-- ==== Sys2Proof/Machine/Train.lean ====
section
/-! DEFINITION. The HBM training routine: the kernel that R428 lists, as aqas assembles it (R13, R44 to R46), and its start on a
service tile. -/
namespace Sys2Proof.Machine

/-! ## The listing -/

/-- A short immediate as a source (R13). -/
def imm10 (n : Int) : Nat := 1024 + (n % 1024).toNat

/-- A move: guard, source, destination. -/
def mv (g src dst : Nat) : Slot :=
  { guard := BitVec.ofNat 4 g, src := BitVec.ofNat 11 src, dst := BitVec.ofNat 10 dst, keep := false, low := 0 }

/-- A word of moves from slot 0 on; the other slots are empty (R16, R17). -/
def wordOf (ms : List Slot) : BitVec 256 :=
  let none_ : Slot := { guard := 8, src := 0, dst := 0, keep := false, low := 0 }
  encodeWord
    { slots := (ms ++ List.replicate 8 none_).take 8, limm := 0, hwin := false, syncpt := false, flagRes := 0 }

/-- The ports that the listing names: s-registers and common registers by number, predicates from p1. -/
def sR (i : Nat) : Nat := 0x020 + i
def cR (i : Nat) : Nat := 0x300 + i
def pR (i : Nat) : Nat := 0x02A + i

/-- Addresses in parcels: each word and each idle of the listing is one parcel. -/
def cfAt : Nat := 12
def finAt : Nat := 23
def wdAt : Nat := 25
def swAt : Nat := 27
def spAt : Nat := 28
def plAt : Nat := 30

/-- The words of go to wd, before the sweep; none: "nop x2". -/
def trainHead : List (List Slot) :=
  [[mv 0 (sR 1) 0x040, mv 0 (imm10 8) 0x045, mv 0 (sR 1) 0x080, mv 0 (imm10 16) 0x085],
   [mv 0 0x042 (cR 4), mv 0 0x082 (cR 5), mv 0 (sR 1) 0x040, mv 0 (imm10 24) 0x045, mv 0 (sR 1) 0x080, mv 0 (imm10 32) 0x085],
   [mv 0 0x042 (cR 6), mv 0 0x082 (cR 1), mv 0 (sR 1) 0x040, mv 0 (imm10 40) 0x045, mv 0 (sR 1) 0x080, mv 0 (imm10 48) 0x085],
   [mv 0 0x042 (cR 2), mv 0 0x082 (cR 3), mv 0 (imm10 (-1)) (cR 10), mv 0 (imm10 2) 0x2C0, mv 0 (sR 1) 0x2C6],
   [mv 0 (cR 4) (sR 5), mv 0 (imm10 1) (sR 6), mv 0 (imm10 1) (sR 9), mv 0 (imm10 swAt) 0x005],
   [],
   [mv 0 (cR 5) (sR 5), mv 0 (imm10 3) (sR 6), mv 0 (imm10 2) (sR 9), mv 0 (imm10 swAt) 0x005],
   [],
   [mv 0 (cR 10) 0x040, mv 0 (imm10 0) 0x062, mv 0 (cR 10) 0x0A8],
   [mv 0 0x042 (pR 4), mv 0 0x082 0x080, mv 0 (imm10 0x100) 0x094],
   [mv 4 0x082 0x2C0, mv 4 (cR 6) 0x2C6, mv 0 (imm10 3) (sR 9)],
   [mv 0 (imm10 3) 0x2C0, mv 0 (cR 1) 0x2C6],
   [mv 0 (cR 2) 0x2C5],
   [mv 0 0x2C1 0x040, mv 0 (imm10 1) 0x053],
   [mv 0 0x042 (pR 1)],
   [mv 9 (imm10 (cfAt - 15)) 0x004],
   [],
   [mv 0 (cR 3) 0x2C5],
   [mv 0 0x2C1 (sR 2), mv 0 0x2C1 0x040, mv 0 (imm10 0) 0x062],
   [mv 0 0x042 (pR 3)],
   [mv 3 (imm10 (finAt - 20)) 0x004, mv 0 (imm10 1) 0x2C0, mv 11 (sR 1) 0x2C6, mv 11 (imm10 0) (sR 9)],
   [],
   [mv 0 (imm10 0) 0x00A],
   [mv 0 (imm10 0) 0x2C0, mv 0 (sR 1) 0x2C6],
   [mv 0 (imm10 0) 0x00A],
   [mv 0 (imm10 5) (sR 9), mv 0 (imm10 finAt) 0x003],
   []]

/-- The words of sw, the sweep. -/
def trainSweep : List (List Slot) :=
  [[mv 0 (imm10 0) (sR 4), mv 0 (imm10 64) (sR 7), mv 0 (imm10 (-1)) (sR 8)],
   [mv 0 (sR 4) 0x2C0, mv 0 (sR 5) 0x2C6],
   [mv 0 (sR 6) 0x2C0, mv 0 (cR 1) 0x2C6],
   [mv 0 (cR 2) 0x2C5],
   [mv 0 0x2C1 0x040, mv 0 (imm10 1) 0x053],
   [mv 0 0x042 (pR 1)],
   [mv 9 (imm10 (plAt - 33)) 0x004],
   [],
   [mv 0 (cR 3) 0x2C5],
   [mv 0 0x2C1 (sR 2), mv 0 0x2C1 0x069],
   [mv 0 0x042 0x040, mv 0 (imm10 2) 0x065],
   [mv 0 0x042 (pR 2)],
   [mv 2 (sR 4) (sR 8), mv 0 (sR 7) 0x040, mv 0 (sR 4) 0x051, mv 0 (cR 10) 0x080, mv 0 (sR 2) 0x093],
   [mv 2 0x042 (sR 7), mv 2 0x082 (cR 10), mv 0 (sR 4) 0x040, mv 0 (imm10 1) 0x045],
   [mv 0 0x042 (sR 4), mv 0 0x042 0x040, mv 0 (imm10 64) 0x065],
   [mv 0 0x042 (pR 1)],
   [mv 1 (imm10 (spAt - 43)) 0x004],
   [],
   [mv 0 (sR 7) 0x040, mv 0 (sR 8) 0x045, mv 0 (sR 7) 0x080, mv 0 (imm10 64) 0x0A1],
   [mv 0 0x042 0x040, mv 0 (imm10 1) 0x05A, mv 0 0x082 (pR 3)],
   [mv 3 (imm10 (finAt - 47)) 0x004, mv 0 0x042 0x2C0, mv 11 (sR 5) 0x2C6],
   [],
   [mv 0 (imm10 0) 0x006],
   []]

/-- The lines of the routine in order. -/
def trainLines : List (List Slot) := trainHead ++ trainSweep

/-- The table: distinct words in order of first appearance (R46). -/
def trainTable : List (BitVec 256) := (trainLines.map wordOf).eraseDups

/-- A T parcel for each line, with two repetitions for "nop x2" (R29, R44). -/
def trainParcels : List (BitVec 16) :=
  trainLines.map fun ms => BitVec.ofNat 16 ((trainTable.findIdx fun w => w == wordOf ms) * 64 + if ms.isEmpty then 8 else 0)

/-- The routine's object, without a data image, its watchdog handler bound (R428); its VA and hash are open (log entry 18). -/
def trainObject : KObj :=
  { ctx := 0, va := 0, size := 0, hash := [], parcels := (List.range trainParcels.length).zip trainParcels
    len := trainParcels.length, table := trainTable, overlays := [], data := [], constOff := 0, entry := 0, torus := none
    partword := 1, strands := 16, cls := 1, fmt := 0, lock := 0, hwin := false
    handlers := [(0x2F, BitVec.ofNat 24 wdAt)], badHead := false, badBody := false }

/-- The extended address of the registers of channel i % 32 of stack i / 32 (R421). -/
def channelBase (i : Nat) : Nat := (0x10 + i / 32) * 2 ^ 24 + i % 32 * 2048

end Sys2Proof.Machine
end

