-- ==== Sys2Proof/Machine/Boot.lean ====
section
/-! DEFINITION. Start-up, recovery, the security block's answers and configuration requests (R394 to R397). -/
namespace Sys2Proof.Machine

/-! ## The image (R394) -/

/-- A field of n bytes of the flash. -/
def State.flashField (s : State) (off n : Nat) : Nat := leNat ((s.flash.drop off).take n)

/-- The header, and the body of the length it names. -/
def imageHeader (f : List Byte) : List Byte := f.take 5219

def imageBody (f : List Byte) : List Byte := (f.drop 5219).take (leNat ((f.drop 12).take 4))

/-- The checks on an image: signatures, digest and rollback. -/
def imageAccepted (f : List Byte) (rollback : Nat) : Bool :=
  leNat (f.take 4) == 0x4B4C4E4F && Config.signaturesVerify (imageHeader f)
    && (imageBody f).length == leNat ((f.drop 12).take 4)
    && Config.sha512 (imageBody f) == (f.drop 16).take 64 && decide (rollback ≤ leNat ((f.drop 8).take 4))

/-- BOOTST at a stage: the version and SVN of the image in the flash. -/
def State.bootstAt (s : State) (stage : Nat) : Word :=
  BitVec.ofNat 64 (s.flashField 4 4 * 2 ^ 32 + s.flashField 8 4 % 65536 * 2 ^ 16 + stage)

def State.stage (s : State) : Nat := s.bootst.bits 7 0

/-! ## Service tiles (R397) -/

/-- The TILEIDs of the eight service tiles by logical tile 4d + i (R122, R397). -/
def serviceTiles : List Nat := [8192, 8193, 8194, 8195, 9216, 9217, 9218, 9219]

/-- The record the firmware's launch stands under: it has none of its own (log entry 18). -/
def serviceRecord : Record :=
  { va := 0, queue := 0, ver := 1, pri := 0, pclass := 1, hint := false, msiv := 0xFFFF, obj := 0, hash := [], arg := 0,
    lid := 0, partword := 1, x := 8, y := 1, pa := 0, deps := [], csem := none, cinc := 0, tnote := 0, snote := 0,
    reserved := false }

/-- The firmware's launch on the service tiles, of no partition. -/
def serviceLaunch (obj : Nat) : Launch :=
  { record := serviceRecord, ctx := 0, part := 288, phase := 2, status := 0, sori := [], tiles := serviceTiles,
    doneTiles := [], doneSori := [], doneAt := 0, objIdx := obj }

/-- The control strand of a service tile: supervisor mode (R397, R428). -/
def serviceStrand (x : Tile) (l : Launch) (o : KObj) : Strand :=
  let st := controlStrand x l o
  { st with sstat := setBit16 st.sstat 0 true }

/-- The kernel object that the body of an image is: what of it is a kernel's parcels and entry is the image's own
(log entry 18). -/
def firmwareObject (body : List Byte) : KObj :=
  let ps := Config.firmwareParcels body
  { ctx := 0, va := 0, size := body.length, hash := [], parcels := (List.range ps.length).zip ps, len := ps.length, table := []
    overlays := [], data := body.take 0xFC000, constOff := 0, entry := BitVec.ofNat 24 (Config.firmwareEntry body), torus := none
    partword := 1, strands := 16, cls := 1, fmt := 0, lock := 0, hwin := false, handlers := [], badHead := false
    badBody := false }

/-- The body is loaded into the eight service tiles, which start in context 0. -/
def startFirmware (s : State) : State :=
  let o := firmwareObject (imageBody s.flash)
  let id := s.nextId
  let l := serviceLaunch s.objects.length
  let s := { s with objects := s.objects ++ [o], launches := Map.set s.launches id l, nextId := id + 1 }
  ((List.range 8).zip serviceTiles).foldl (fun (s : State) (e : Nat × Nat) =>
    let x := loadTile (s.tile e.2) id e.1 l o
    s.setTile e.2 (x.setStrand 0 (serviceStrand x l o))) s

/-! ## Stages -/

/-- The service tile on which the model's firmware runs the training routine, one channel after another (DESIGN CHOICE, log entry
75). -/
def trainer : Nat := 9219

/-- The routine starts for channel i: its object on the trainer tile, in supervisor mode, s1 the channel's base (R428). -/
def startRoutine (s : State) (i : Nat) : State :=
  let l0 := serviceLaunch (if s.trainNext = 0 then s.objects.length else ((s.launchOf trainer).map Launch.objIdx).getD 0)
  let l := { l0 with record := { serviceRecord with arg := BitVec.ofNat 64 (channelBase i) } }
  let x := loadTile (s.tile trainer) s.nextId 7 l trainObject
  { s.setTile trainer (x.setStrand 0 (serviceStrand x l trainObject)) with
    objects := if s.trainNext = 0 then s.objects ++ [trainObject] else s.objects
    launches := Map.set (if s.trainNext = 0 then s.launches else Map.erase s.launches (s.tile trainer).launch) s.nextId l
    nextId := s.nextId + 1, trainNext := i + 1 }

/-- The firmware takes the trainer tile again: its launch is that of the other service tiles. -/
def endRoutine (s : State) : State :=
  let id := (s.tile 8192).launch
  match s.launchOf 8192 with
  | none => s
  | some l =>
    match s.objects[l.objIdx]? with
    | none => s
    | some o =>
      let x := loadTile (s.tile trainer) id 7 l o
      { s.setTile trainer (x.setStrand 0 (serviceStrand x l o)) with
        launches := Map.erase s.launches (s.tile trainer).launch }

/-- No routine runs: none has been started, or the last one's strand has ended or stopped. -/
def State.untrained (s : State) : Bool := s.trainNext == 0 || (s.strand trainer 0).status != .live

/-- The device at reset: flash, fuses and what lies outside it, or in HBM, stay (log entry 18). -/
def State.afterReset (s : State) : State :=
  { State.reset with
    hbm := s.hbm, hostMem := s.hostMem, far := s.far, hbmBad := s.hbmBad, hbmWeak := s.hbmWeak, flash := s.flash
    rollback := s.rollback, hostOut := s.hostOut, objects := s.objects, oracle := s.oracle, inputs := s.inputs
    nextId := s.nextId, linksDown := [], outSori := s.outSori, spares := s.spares }

/-- The next step of a start-up: a stage, or in stage 3 the training of the next channel, until all 512 have been trained
(R394, R428). -/
def bootStep (s : State) : State :=
  match s.stage with
  | 1 =>
    if imageAccepted s.flash s.rollback && ((List.range 8).all fun i => Config.selfTestPasses i) then
      { (startFirmware s) with bootst := s.bootstAt 2 }
    else { s with bootst := s.bootstAt 0x80 }
  | 2 => { s with bootst := s.bootstAt 3 }
  | 3 =>
    if !s.untrained then s
    else if s.trainNext < 512 then startRoutine s s.trainNext
    else { (endRoutine s) with rollback := max s.rollback (s.flashField 8 4), bootst := s.bootstAt 4 }
  | _ => { s.afterReset with bootst := s.bootstAt 1 }

/-- DEVICE_RESET: the device is reset, and then passes from stage to stage, at most one stage an event. -/
def execDeviceReset (s : State) : Out := .next (bootStep s)

/-- RECOVERY_IMAGE: in recovery, an image that verifies is written to flash and the device is reset. -/
def execRecoveryImage (image : List Byte) (s : State) : Out :=
  if s.stage ≠ 0x80 ∨ !imageAccepted image s.rollback then .next s
  else
    let s := { s with flash := image }
    .next { s.afterReset with bootst := s.bootstAt 1 }

/-! ## The security block (R396) -/

/-- The measurements: the boot ROM's digest, the image header's first 80 bytes, the fuses and the rollback counter. -/
def State.measured (s : State) : List Byte :=
  Config.romDigest ++ s.flash.take 80 ++ Config.fuses ++ leBytes s.rollback 4

/-- An answer of the security block, its bytes by request code (log entry 18). -/
def State.spdm (s : State) (code : Nat) (body : List Byte) : State := s.answerHost (.spdm (Config.spdmAnswer code body))

def execGetVersion (body : List Byte) (s : State) : Out := .next (s.spdm 0x84 body)
def execGetCapabilities (body : List Byte) (s : State) : Out := .next (s.spdm 0xE1 body)
def execNegotiateAlgorithms (body : List Byte) (s : State) : Out := .next (s.spdm 0xE3 body)
def execGetDigests (body : List Byte) (s : State) : Out := .next (s.spdm 0x81 body)
def execGetCertificate (body : List Byte) (s : State) : Out := .next (s.spdm 0x82 body)
def execChallenge (body : List Byte) (s : State) : Out := .next (s.spdm 0x83 (body ++ s.measured))
def execGetMeasurements (body : List Byte) (s : State) : Out := .next (s.spdm 0xE0 (body ++ s.measured))

/-- CONFIGURATION_REQUEST: Request Retry Status until stage 4, for at most 1 s; the recovery ROM offers its function. -/
def execConfigurationRequest (iod : Nat) (req : List Byte) (s : State) : Out :=
  if s.stage ≠ 4 ∧ s.stage ≠ 0x80 ∧ s.time < 1000000000 then .next (s.answerHost .retryStatus)
  else .next (s.answerHost (.config (Config.configAnswer iod req)))

end Sys2Proof.Machine
end

