-- ==== Sys2Proof/Machine/Mdu.lean ====
section
/-! DEFINITION. The multiply-divide unit (R144 to R148) and the predicate unit (R149). -/
namespace Sys2Proof.Machine

def mduA (s : State) : Word := s.opnd 0x0C0
def mduB (s : State) : Word := s.opnd 0x0C1

/-- A multiply delivers y and z three issues on (R135). -/
def mduOut (y z : Word) (s : State) : Out := .next (s.result .mdu y (some z) 3)

/-- The low and the high half of a 128-bit product (R144). -/
def lowHalf (p : Int) : Word := Word.ofInt p
def highHalf (p : Int) : Word := Word.ofInt (p / 2 ^ 64)

def execMduMul (v : Word) (s : State) : Out :=
  let p := (mduA s).toInt * v.toInt
  mduOut (lowHalf p) (highHalf p) s

def execMduMulh (v : Word) (s : State) : Out :=
  let p := (mduA s).toInt * v.toInt
  mduOut (highHalf p) (lowHalf p) s

def execMduMulhu (v : Word) (s : State) : Out :=
  let p : Int := (mduA s).toNat * v.toNat
  mduOut (highHalf p) (lowHalf p) s

def execMduMulhsu (v : Word) (s : State) : Out :=
  let p : Int := (mduA s).toInt * v.toNat
  mduOut (highHalf p) (lowHalf p) s

def execMduMulw (v : Word) (s : State) : Out :=
  let p := ((mduA s).sx 32).toInt * (v.sx 32).toInt
  mduOut (Word.sx (Word.ofInt p) 32) (Word.ofInt p) s

/-- V when the exact b + a × v lies outside INT64 (R144). -/
def execMduMac (v : Word) (s : State) : Out :=
  let p := (mduB s).toInt + (mduA s).toInt * v.toInt
  mduOut (lowHalf p) (aluZ false (!fitsSigned p 64) false) s

/-- The results of a divide: quotient and remainder (R145). -/
def divS (a v : Word) : Word × Word :=
  if v = 0 then (-1, a) else (Word.ofInt (a.toInt.tdiv v.toInt), Word.ofInt (a.toInt.tmod v.toInt))

def divU (a v : Word) : Word × Word :=
  if v = 0 then (-1, a) else (BitVec.ofNat 64 (a.toNat / v.toNat), BitVec.ofNat 64 (a.toNat % v.toNat))

def divSw (a v : Word) : Word × Word :=
  let x := (a.sx 32).toInt
  let d := (v.sx 32).toInt
  if d = 0 then (-1, a.sx 32)
  else (Word.sx (Word.ofInt (x.tdiv d)) 32, Word.sx (Word.ofInt (x.tmod d)) 32)

def divUw (a v : Word) : Word × Word :=
  let x := a.toNat % 2 ^ 32
  let d := v.toNat % 2 ^ 32
  if d = 0 then (0xFFFFFFFF, a.zx 32) else (BitVec.ofNat 64 (x / d), BitVec.ofNat 64 (x % d))

/-- Results of a unit count as due now: a hold of R431 has waited for them. -/
def Bank.dueNow (b : Bank) (u : UnitId) : Bank :=
  { b with
    res := b.res.map fun r =>
      if r.unit == u then { r with due := r.due.map fun d => min d b.clock } else r }

/-- A divide: trap 0x27 on a divisor of 0 with IDZE (R146); else it occupies the tile's divider, and its results come
with DIVIDE_DELIVER (R147). -/
def divide (port : Nat) (zero : Bool) (r : Word × Word) (v : Word) (s : State) : Out :=
  if zero && s.me.idze then s.trapA port v 0x27 (sinfoOp 0 port)
  else
    let st := s.me
    let s := s.setMe (st.setBank (st.bank.dueNow .mdu))
    let s := s.resultWait .mdu (some r.1) (some r.2) 6
    .next (s.setHere { s.here with divOwner := some (s.cur.2, s.here.cycle) })

def execMduDiv (v : Word) (s : State) : Out := divide 0x0CA (v == 0) (divS (mduA s) v) v s
def execMduDivu (v : Word) (s : State) : Out := divide 0x0CB (v == 0) (divU (mduA s) v) v s
def execMduDivw (v : Word) (s : State) : Out := divide 0x0CC (v.zx 32 == 0) (divSw (mduA s) v) v s
def execMduDivuw (v : Word) (s : State) : Out := divide 0x0CD (v.zx 32 == 0) (divUw (mduA s) v) v s

/-- Deliver the divide of a bank: due from the next issue, and a data-locked mdu.y becomes full (R147). -/
def deliverDivide (st : Strand) (trap : Bool) (c : Nat) : Strand :=
  let b := st.bankAt trap
  st.setBankAt trap ((b.arrive .mdu none).deliver .mdu (st.locked .mdu) c)

/-- The divider has an owner whose divide has run its least number of cycles (R147). -/
def divideDue (x : Tile) : Option Nat :=
  match x.divOwner with
  | some (k, c) => if c + 6 ≤ x.cycle then some k else none
  | none => none

/-- DIVIDE_DELIVER: the divider delivers and is free (R147). -/
def execDivideDeliver (t : Nat) (s : State) : Out :=
  let x := s.tile t
  match divideDue x with
  | none => .next s
  | some k =>
    let st := x.strand k
    let st := deliverDivide (deliverDivide st false x.cycle) true x.cycle
    .next (s.setTile t ({ x with divOwner := none }.setStrand k st))

/-! ## The predicate unit -/

def prdA (s : State) : Word := s.opnd 0x0E0
def prdB (s : State) : Word := s.opnd 0x0E1

def prdOut (y : Word) (s : State) : Out := .next (s.result .prd y none 1)

/-- A logic operation under the keep-mask b (R149). -/
def prdLogic (f : Word → Word → Word) (v : Word) (s : State) : Out :=
  let a := prdA s
  let m := (prdB s).zx 8
  prdOut (Word.zx ((f a v &&& ~~~m) ||| (a &&& m)) 8) s

def execPrdAnd (v : Word) (s : State) : Out := prdLogic (fun a v => a &&& v) v s
def execPrdOr (v : Word) (s : State) : Out := prdLogic (fun a v => a ||| v) v s
def execPrdXor (v : Word) (s : State) : Out := prdLogic (fun a v => a ^^^ v) v s
def execPrdAndn (v : Word) (s : State) : Out := prdLogic (fun a v => a &&& ~~~v) v s
def execPrdOrn (v : Word) (s : State) : Out := prdLogic (fun a v => a ||| ~~~v) v s
def execPrdNot (v : Word) (s : State) : Out := prdLogic (fun _ v => ~~~v) v s
def execPrdNz (v : Word) (s : State) : Out := prdOut (Word.ofBool (v != 0)) s
def execPrdEz (v : Word) (s : State) : Out := prdOut (Word.ofBool (v == 0)) s
def execPrdBit (v : Word) (s : State) : Out := prdOut (Word.ofBool ((prdA s).bit (v.bits 5 0))) s

end Sys2Proof.Machine
end

