-- ==== Sys2Proof/Machine/Sem.lean ====
section
/-! DEFINITION. Semaphores (R332 to R337) and the waiting-task table (R313 to R316). -/
namespace Sys2Proof.Machine

/-- The checks of R336 on sem.a in order: cause and SINFO of the first failure. rmt: the operation may name a remote
semaphore. -/
def semCheck (s : State) (rmt : Bool) (port : Nat) : Option (Nat × Word) :=
  let a := s.opnd 0x1C0
  if a.bits 63 33 ≠ 0 ∨ a.bits 15 8 ≠ 0 ∨ a.bits 7 0 = 0xFF then some (0x1D, sinfoOp 0 port)
  else if (a.bit 32 && !rmt) || (!a.bit 32 && a.bits 31 16 != 0) then some (0x1D, sinfoOp 1 port)
  else if a.bit 32 && (s.physical s.cur.1 (a.bits 31 16)).isNone then some (0x0F, sinfo78 2 0 5 a)
  else none

/-- The index sem.a names. -/
def semIndex (s : State) : Nat := (s.opnd 0x1C0).bits 7 0

/-- The own semaphore sem.a names. -/
def semOwn (s : State) : Sem := s.here.sem (semIndex s)

/-- The status word (R334). -/
def semStatus (v : Sem) (met tout : Bool) : Word :=
  BitVec.ofNat 64 (tout.toNat * 2 ^ 34 + met.toNat * 2 ^ 33 + v.err.toNat * 2 ^ 32 + v.s % 2 ^ 32)

/-- The own semaphore that an index names cannot be read (R379; log entry 61). -/
def semBad (s : State) (i : Nat) : Option (Nat × Word) :=
  if s.here.isBad (.sem s.cur.1 i) then some (0x31, sinfo78 0 0 5 (BitVec.ofNat 64 s.openOff)) else none

/-- The same of the one sem.a names. -/
def semOwnBad (s : State) : Option (Nat × Word) := if (s.opnd 0x1C0).bit 32 then none else semBad s (semIndex s)

/-- Take the trap of a semaphore that cannot be read. -/
def semTrap (s : State) (port : Nat) (v : Word) (e : Nat × Word) : Out :=
  (s.poolLog s.cur.1 s.openOff).tick.trapA port v e.1 e.2

/-- An operation that R336 checks after its word has proceeded; an error of the own semaphore is found as it reads it. -/
def semOp (rmt : Bool) (port : Nat) (v : Word) (f : State → State) (s : State) : Out :=
  match semCheck s rmt port with
  | some (c, i) => s.trapA port v c i
  | none =>
    match semOwnBad s with
    | some e => semTrap s port v e
    | none => .next (f (if (s.opnd 0x1C0).bit 32 then s else s.cellFix s.cur.1 (.sem s.cur.1 (semIndex s))))

/-- The tile of the semaphore sem.a names (R335). -/
def semTile (s : State) : Nat :=
  let a := s.opnd 0x1C0
  if a.bit 32 then (s.physical s.cur.1 (a.bits 31 16)).getD s.cur.1 else s.cur.1

/-- sem.sig: an add, made as a release at device scope: at once on the own tile when nothing of the strand is
outstanding, else by a packet that waits for it (R330, R335). -/
def semSignal (v : Word) (s : State) : State :=
  let t := semTile s
  let inc := v.bits 31 0
  let w := s.earlier s.cur.1 s.cur.2 4
  if t = s.cur.1 ∧ w = [] then s.semAddNow t (semIndex s) inc false
  else s.send s.cur.1 s.cur.2 t (.sem (semIndex s) inc false) w

def execSemSig (v : Word) (s : State) : Out := semOp true 0x1C4 v (semSignal v) s

/-- The status sem.wait delivers when its word proceeds: at the change that met it, or as read (R335, R337). -/
def waitStatus (s : State) (v : Word) : Word :=
  let now := semOwn s
  let met := serialGe now.s (v.bits 31 0) 32
  match s.me.hold.bind Hold.sem with
  | some w =>
    match w.met with
    | some (x, e) => semStatus { s := x, err := e } true false
    | none => if w.tout then semStatus now false true else semStatus now met (!met)
  | none => semStatus now met (!met)

/-- What stops a sem.wait before its word has any effect (R336, R379). -/
def waitCheck (s : State) : Option (Nat × Word) :=
  match semCheck s false 0x1C5 with
  | some e => some e
  | none => if s.me.hnd then some (0x0A, sinfoOp 0 0x1C5) else semOwnBad s

/-- sem.wait when its word proceeds (R335); the hold before it is the issue's (Machine/Issue.lean). -/
def execSemWait (v : Word) (s : State) : Out :=
  match waitCheck s with
  | some (c, i) => .next (trapP s s.cur.1 s.cur.2 c i)
  | none =>
    let s := (s.cellFix s.cur.1 (.sem s.cur.1 (semIndex s))).resultLocked .sem (waitStatus s v) 2
    .next (s.setMe (s.me.setBank s.me.bank.lockWait))

def execSemTrywait (v : Word) (s : State) : Out :=
  semOp false 0x1C6 v
    (fun s => s.result .sem (semStatus (semOwn s) (serialGe (semOwn s).s (v.bits 31 0) 32) false) none 2) s

def execSemRd (v : Word) (s : State) : Out :=
  semOp false 0x1C7 v (fun s => s.result .sem (semStatus (semOwn s) false false) none 2) s

def execSemSet (v : Word) (s : State) : Out :=
  semOp false 0x1C8 v
    (fun s => (s.result .sem (semStatus (semOwn s) false false) none 2).semChange s.cur.1 (semIndex s)
      { s := v.bits 31 0, err := false }) s

/-- The lowest free entry of the waiting-task table (R314). -/
def freeEntry (x : Tile) : Option Nat :=
  (List.range 32).find? fun i => (Map.get? x.wtt i).isNone

/-- The entry sem.arm makes (R313, R315). -/
def armed (s : State) (v : Word) : Wtt :=
  let a := s.opnd 0x1C0
  let st := s.me
  let now := (s.here.sem (a.bits 39 32)).s
  let thr := a.bits 31 0
  let met := serialGe now thr 32
  { state := if met then 2 else 1, sem := a.bits 39 32, thr := thr, pc := v.truncate 24, arg := s.opnd 0x1C1,
    pri := a.bit 41, mode := st.mode, fmt := st.fmt, stamp := s.nextId, val := if met then now else 0 }

/-- sem.arm (R314). -/
def execSemArm (v : Word) (s : State) : Out :=
  let a := s.opnd 0x1C0
  if a.bits 63 42 ≠ 0 ∨ a.bit 40 ∨ a.bits 39 32 = 0xFF then s.trapA 0x1C9 v 0x1F (sinfoOp 1 0x1C9)
  else
    match freeEntry s.here, semBad s (a.bits 39 32) with
    | none, _ => s.trapA 0x1C9 v 0x1F (sinfoOp 0 0x1C9)
    | some _, some e => semTrap s 0x1C9 v e
    | some e, none =>
      let w := armed s v
      let s := s.cellFix s.cur.1 (.sem s.cur.1 (a.bits 39 32))
      let s := s.result .sem (BitVec.ofNat 64 e) none 2
      .next { s.setHere { s.here with wtt := Map.set s.here.wtt e w } with nextId := s.nextId + 1 }

/-- sem.disarm (R314). -/
def execSemDisarm (v : Word) (s : State) : Out :=
  let e := v.bits 4 0
  if (Map.get? s.here.wtt e).isSome then
    let s := s.result .sem 0 none 2
    .next (s.setHere { s.here with wtt := Map.erase s.here.wtt e })
  else .next (s.result .sem 1 none 2)

/-! ## Events -/

/-- A held sem.wait whose limit has passed (R335). -/
def waitOver (s : State) (t k : Nat) : Bool :=
  match (s.strand t k).hold with
  | some h =>
    match h.sem with
    | some w => w.met == none && !w.tout && w.limit != 0 && decide (h.first + w.limit ≤ s.time)
    | none => false
  | none => false

/-- The held wait proceeds with TOUT. -/
def timeOut (st : Strand) : Strand :=
  { st with hold := st.hold.map fun h => { h with sem := h.sem.map fun w => { w with tout := true } } }

/-- SEM_WAIT_TIMEOUT: LIMIT ticks have passed on a held sem.wait (R335). -/
def execSemWaitTimeout (t k : Nat) (s : State) : Out :=
  if waitOver s t k && !(s.tile t).stopped then .next (s.setStrand t k (timeOut (s.strand t k))) else .next s

/-- SEM_SIGNAL_ARRIVE: a change reaches its tile, once what it waits for has been performed (R330, R332). -/
def execSemSignalArrive (p : Nat) (s : State) : Out :=
  match s.packet p with
  | some q =>
    match q.body with
    | .sem idx inc err =>
      if s.performed q.after && !s.routeAhead q then .next ((s.drop p).semAdd q.dst idx inc err) else .next s
    | _ => .next s
  | none => .next s

/-- HANDLER_START: satisfied entries, in arming order, receive free slots (R311, R315, R316). -/
def execHandlerStart (t : Nat) (s : State) : Out := .next (s.settleSlots t)

end Sys2Proof.Machine
end

