-- ==== Sys2Proof/Machine/Fire.lean ====
section
/-! DEFINITION. Firing an operation: the table of meanings by trigger port, in the order of the port map (R40 to R43). It is
decodeTrigger's table with each instruction's meaning in the instruction's place. -/
namespace Sys2Proof.Machine

/-- The meaning of an operation as a function of its trigger value. -/
abbrev Fire := Word → State → Out

/-- The alu triggers. -/
def aluFires : List (Alu → Fire) :=
  [
   execAluMov, execAluAdd, execAluSub, execAluAdds, execAluSubs, execAluAddus, execAluSubus, execAluAddw,
   execAluSubw, execAluNeg, execAluAbs, execAluMin, execAluMax, execAluMinu, execAluMaxu, execAluAnd, execAluOr,
   execAluXor, execAluAndn, execAluOrn, execAluNot, execAluShl, execAluShr, execAluSar, execAluRol, execAluRor,
   execAluShlw, execAluShrw, execAluSarw, execAluEq, execAluNe, execAluLt, execAluLe, execAluLtu, execAluLeu,
   execAluClz, execAluCtz, execAluPopc, execAluBswap, execAluSxb, execAluSxh, execAluSxw, execAluZxb, execAluZxh,
   execAluZxw, execAluExt, execAluExtu, execAluIns, execAluSel, execAluLea]

/-- The cu triggers. -/
def cuFires (g : Bool) : List (Fire) :=
  [
   execCuJmp, execCuBr, execCuCall, execCuRet, execCuBrl g, execCuBrk g, execCuStart, execCuHalt, execCuYield,
   execCuMeet, execCuTrymeet, execCuTload, execCuScall, execCuBkpt]

/-- The mdu triggers. -/
def mduFires : List (Fire) :=
  [
   execMduMul, execMduMulh, execMduMulhu, execMduMulhsu, execMduMulw, execMduMac, execMduDiv, execMduDivu,
   execMduDivw, execMduDivuw]

/-- The prd triggers. -/
def prdFires : List (Fire) :=
  [
   execPrdAnd, execPrdOr, execPrdXor, execPrdAndn, execPrdOrn, execPrdNot, execPrdNz, execPrdEz, execPrdBit]

/-- The crf triggers. -/
def crfFires : List (Fire) :=
  [
   execCrfRd, execCrfWr]

/-- The fpa triggers. -/
def fpaFires : List (Fire) :=
  [
   execFpaAddd, execFpaSubd, execFpaMuld, execFpaFmad, execFpaFmsd, execFpaFnmad, execFpaDivd, execFpaSqrtd,
   execFpaMind, execFpaMaxd, execFpaAbsd, execFpaNegd, execFpaCeqd, execFpaCltd, execFpaCled, execFpaCund,
   execFpaClassd, execFpaRintd, execFpaAddf, execFpaSubf, execFpaMulf, execFpaFmaf, execFpaMinf, execFpaMaxf,
   execFpaCeqf, execFpaCltf, execFpaClef, execFpaCvtfd, execFpaCvtdf, execFpaCvtdl, execFpaCvtld, execFpaCvtdlu,
   execFpaCvtlud, execFpaCvtfw, execFpaCvtwf, execFpaCvtdh, execFpaCvthd, execFpaCvtdb, execFpaCvtbd]

/-- The sfu triggers. -/
def sfuFires : List (Fire) :=
  [
   execSfuRcp, execSfuRsqrt, execSfuSqrt, execSfuExp2, execSfuExp, execSfuLog2, execSfuLn, execSfuSinpi,
   execSfuCospi, execSfuTanh, execSfuSigm, execSfuGelu, execSfuSilu, execSfuErf]

/-- The lsu triggers. -/
def lsuFires : List (Fire) :=
  [
   execLsuLdb, execLsuLdbu, execLsuLdh, execLsuLdhu, execLsuLdw, execLsuLdwu, execLsuLdd, execLsuLdl, execLsuStb,
   execLsuSth, execLsuStw, execLsuStd, execLsuStl, execLsuLdacq, execLsuStrel, execLsuFence, execLsuPf, execLsuBlk]

/-- The atm triggers. -/
def atmFires : List (Fire) :=
  [
   execAtmAddw, execAtmAddd, execAtmAddf, execAtmMinw, execAtmMind, execAtmMinuw, execAtmMinud, execAtmMaxw,
   execAtmMaxd, execAtmMaxuw, execAtmMaxud, execAtmAndw, execAtmAndd, execAtmOrw, execAtmOrd, execAtmXorw,
   execAtmXord, execAtmSwpw, execAtmSwpd, execAtmCasw, execAtmCasd, execAtmLrw, execAtmLrd, execAtmScw, execAtmScd,
   execAtmWrs]

/-- The sem triggers. -/
def semFires : List (Fire) :=
  [
   execSemSig, execSemWait, execSemTrywait, execSemRd, execSemSet, execSemArm, execSemDisarm]

/-- net.chsend by its operation code; the reserved codes are refused by the checks that SEND makes first (R263, R265). -/
def fireChsend (op : Nat) : Fire :=
  match op with
  | 1 => execChFree
  | 2 => execChConf
  | 3 => execStConf
  | 4 => execChQuery
  | _ => execChSend

/-- The net triggers. -/
def netFires (op : Nat) : List (Fire) :=
  [
   execNetPut, execNetGet, execNetSend, execNetRecv, execNetTryrecv, execNetArrive, execNetBarwait,
   execNetTrybarwait, execNetGo, fireChsend op, execNetIpi]

/-- The dma triggers. -/
def dmaFires : List (Fire) :=
  [
   execDmaCopy, execDmaBind, execDmaUnbind, execDmaQuery, execDmaAbort]

/-- The vec triggers. -/
def vecFires : List (Fire) :=
  [
   execVecShape, execVecEdge, execVecLd, execVecSt, execVecGath, execVecScat, execVecAdd, execVecSub, execVecMul,
   execVecFma, execVecFms, execVecFnma, execVecMin, execVecMax, execVecAbs, execVecNeg, execVecAnd, execVecOr,
   execVecXor, execVecShl, execVecShr, execVecSar, execVecCeq, execVecCne, execVecClt] ++
  [
   execVecCle, execVecSel, execVecCvt, execVecCvtsr, execVecBcrow, execVecBccol, execVecBcs, execVecRsum,
   execVecRmax, execVecRmin, execVecRcp, execVecRsqrt, execVecExp2, execVecMov, execVecTocr, execVecFromcr,
   execVecAdds, execVecSubs, execVecClamp, execVecIota, execVecMskand, execVecMskor, execVecMsknot, execVecRotr,
   execVecRel]

/-- The sys triggers. -/
def sysFires : List (Fire) :=
  [
   execSysEret, execSysRdsr, execSysWrsr, execSysXrd, execSysXwr]

/-- The meaning of the operation that a trigger port fires; g is the branch condition of the slot's guard (R288), chop is
net.c[2:0] (R264). -/
def fireOf (port : Nat) (g : Bool) (chop : Nat) : Option Fire :=
  if port < 0x020 then (if 0x003 ≤ port then (cuFires g)[port - 0x003]? else none)
  else if port < 0x080 then (if 0x044 ≤ port then aluFires[port - 0x044]?.map fun f => f .alu0 else none)
  else if port < 0x0C0 then (if 0x084 ≤ port then aluFires[port - 0x084]?.map fun f => f .alu1 else none)
  else if port < 0x0E0 then (if 0x0C4 ≤ port then mduFires[port - 0x0C4]? else none)
  else if port < 0x0F0 then (if 0x0E3 ≤ port then prdFires[port - 0x0E3]? else none)
  else if port < 0x100 then (if 0x0F2 ≤ port then crfFires[port - 0x0F2]? else none)
  else if port < 0x140 then (if 0x105 ≤ port then fpaFires[port - 0x105]? else none)
  else if port < 0x160 then (if 0x142 ≤ port then sfuFires[port - 0x142]? else none)
  else if port < 0x1A0 then (if 0x164 ≤ port then lsuFires[port - 0x164]? else none)
  else if port < 0x1C0 then (if 0x1A5 ≤ port then atmFires[port - 0x1A5]? else none)
  else if port < 0x1E0 then (if 0x1C4 ≤ port then semFires[port - 0x1C4]? else none)
  else if port < 0x200 then (if 0x1E5 ≤ port then (netFires chop)[port - 0x1E5]? else none)
  else if port < 0x220 then (if 0x203 ≤ port then dmaFires[port - 0x203]? else none)
  else if port < 0x240 then
    match port with
    | 0x221 => some (execStkW 0)
    | 0x223 => some (execStkW 1)
    | 0x225 => some (execStkW 2)
    | 0x227 => some (execStkW 3)
    | _ => none
  else if port < 0x2C0 then (if 0x244 ≤ port then vecFires[port - 0x244]? else none)
  else if port < 0x300 then (if 0x2C2 ≤ port then sysFires[port - 0x2C2]? else none)
  else none

/-- Fire the operation of a trigger port with a trigger value. -/
def firePort (port : Nat) (v : Word) (g : Bool) (chop : Nat) (s : State) : Out :=
  match fireOf port g chop with
  | some f => f v s
  | none => .next s

end Sys2Proof.Machine
end

