-- ==== Sys2Proof/Machine/Holds.lean ====
section
/-! DEFINITION. A transport word before it has any effect: its enabled moves (R14, R36), the checks of R27, and what holds it
(R23, R25). -/
namespace Sys2Proof.Machine

/-! ## Moves -/

/-- A move of a word with its slot number. -/
structure Move where
  k : Nat
  m : Slot
deriving DecidableEq, Repr

def Move.dst (e : Move) : Nat := e.m.dst.toNat

/-- The source port; none: a short immediate (R13). -/
def Move.src (e : Move) : Option Nat :=
  if e.m.src.getLsbD 10 then none else some (e.m.src.extractLsb' 0 10).toNat

/-- The moves of a word: its slots that are not empty. -/
def movesOf (w : TWord) : List Move :=
  (((List.range 8).zip w.slots).filter fun e => !e.2.empty).map fun e => { k := e.1, m := e.2 }

/-- A guard on PW (R13). -/
def Strand.guard (st : Strand) (g : Nat) : Bool := if g < 8 then st.pred g else !st.pred (g - 8)

/-- cu.brl and cu.brk, which no guard disables (R288). -/
def alwaysFires (port : Nat) : Bool := port == 0x007 || port == 0x008

/-- The move is enabled at repetition j (R14, R36). -/
def Move.on (e : Move) (st : Strand) (j : Nat) : Bool :=
  (j == 0 || e.m.keep) && (alwaysFires e.dst || st.guard e.m.guard.toNat)

/-- A trigger port. -/
def isTrigger (port : Nat) : Bool := portKind port == some .trigger

def isCu (port : Nat) : Bool := decide (0x003 ≤ port ∧ port ≤ 0x010)

/-! ## The checks of R27 -/

/-- The kind of a port on a tile: service tiles have no vector ports (R397). -/
def kindOn (t port : Nat) : Option PortKind :=
  if isService t ∧ 0x240 ≤ port ∧ port ≤ 0x275 then none else portKind port

/-- SINFO of orders 3 to 5. -/
def portInfo (port side slot : Nat) : Word := BitVec.ofNat 64 (port * 16 + side * 8 + slot)

/-- The first port of the word's moves that fails a test: that of the lowest slot, and of its source before its destination,
which the manual does not order (DESIGN CHOICE, log entry 73). -/
def firstPort (ms : List Move) (bad : Nat → Bool → Bool) : Option Word :=
  ms.findSome? fun e =>
    match e.src with
    | some p => if bad p false then some (portInfo p 0 e.k) else if bad e.dst true then some (portInfo e.dst 1 e.k) else none
    | none => if bad e.dst true then some (portInfo e.dst 1 e.k) else none

/-- Order 3: an unassigned port. -/
def undefinedPort (t : Nat) (ms : List Move) : Option Word := firstPort ms fun p _ => (kindOn t p).isNone

/-- Order 4: a port that cannot be read, or written. -/
def wrongWay (ms : List Move) : Option Word :=
  firstPort ms fun p dst =>
    match portKind p with
    | some k => if dst then !k.writable else !k.readable
    | none => false

/-- A sys port. -/
def isSys (port : Nat) : Bool := decide (0x2C0 ≤ port ∧ port ≤ 0x2C6)

/-- Order 5: a sys port in user mode (R20), or an enabled xrd or xwr on a tile of another context than 0 (R346). -/
def privileged (st : Strand) (x : Tile) (ms en : List Move) : Option Word :=
  if !st.sup then firstPort ms fun p _ => isSys p
  else if x.ctx = 0 then none
  else (en.find? fun e => e.dst == 0x2C5 || e.dst == 0x2C6).map fun e => portInfo e.dst 1 e.k

/-- Order 6: a cu trigger or sys.eret in a repeated word (R38, R350). -/
def repeatedTransfer (n : Nat) (ms : List Move) : Option Word :=
  if n ≤ 1 then none else (ms.find? fun e => isCu e.dst || e.dst == 0x2C2).map fun e => BitVec.ofNat 64 e.k

/-- A move that counts as a transfer in a delay issue (R292). -/
def isTransfer (e : Move) : Bool :=
  decide (0x003 ≤ e.dst ∧ e.dst ≤ 0x008) || e.dst == 0x1ED || e.dst == 0x2C2

/-- Order 7: a transfer in an executed delay issue (R292). -/
def delayTransfer (st : Strand) (en : List Move) : Option Word :=
  match st.delay with
  | none => none
  | some d =>
    (en.find? isTransfer).map fun e =>
      BitVec.ofNat 64 (e.k * 2 ^ 32 + (3 - d.cnt) % 4 * 2 ^ 28 + d.annul.toNat * 2 ^ 27 + d.taken.toNat * 2 ^ 26
        + if d.taken then d.target.toNat else 0)

/-- p1 to p7 as ports. -/
def isPred (port : Nat) : Bool := decide (0x02B ≤ port ∧ port ≤ 0x02F) || port == 0x03A || port == 0x03B

/-- Two enabled moves conflict (R26). -/
def conflicts (a b : Nat) : Bool :=
  a == b || (isTrigger a && isTrigger b && (portUnit a).isSome && portUnit a == portUnit b)
    || (a == 0x02A && isPred b) || (b == 0x02A && isPred a)

/-- Order 8: the slots of conflicting moves, and the first conflicting destination. -/
def conflict (en : List Move) : Option Word :=
  let bad := en.filter fun e => en.any fun f => f.k != e.k && conflicts e.dst f.dst
  bad.head?.map fun e => BitVec.ofNat 64 (e.dst * 256 + (bad.map fun f => 2 ^ f.k).sum)

/-- Order 2: reserved bits of the flags field or of slots. -/
def reservedBits (w : TWord) : Option Word :=
  let mask := (((List.range 8).zip w.slots).map fun e => if e.2.reserved then 2 ^ e.1 else 0).sum
  if w.flagRes = 0 ∧ mask = 0 then none else some (BitVec.ofNat 64 ((w.flagRes != 0).toNat * 256 + mask))

/-- Orders 2 to 8 on a word that issues with effect: cause and SINFO of the first failure. -/
def wordCheck (s : State) (w : TWord) (n : Nat) (en : List Move) : Option (Nat × Word) :=
  let ms := movesOf w
  let st := s.me
  let tag (c : Nat) (i : Option Word) : Option (Nat × Word) := i.map fun v => (c, v)
  (tag 0x02 (reservedBits w)).or <| (tag 0x03 (undefinedPort s.cur.1 ms)).or <| (tag 0x05 (wrongWay ms)).or <|
    (tag 0x2D (privileged st s.here ms en)).or <| (tag 0x07 (repeatedTransfer n ms)).or <|
    (tag 0x06 (delayTransfer st en)).or <| tag 0x04 (conflict en)

/-! ## Sources and operand writes (R24, R37) -/

/-- The socket of a stk.y port, of a stk.w port. -/
def stkRead (port : Nat) : Option Nat :=
  if 0x220 ≤ port ∧ port ≤ 0x227 ∧ port % 2 = 0 then some ((port - 0x220) / 2) else none

def stkWrite (port : Nat) : Option Nat :=
  if 0x220 ≤ port ∧ port ≤ 0x227 ∧ port % 2 = 1 then some ((port - 0x221) / 2) else none

/-- The value a move's source reads. -/
def readSource (s : State) (limm : BitVec 24) (e : Move) : Word :=
  match e.src with
  | none => (e.m.src.extractLsb' 0 10).signExtend 64
  | some p =>
    match stkRead p with
    | some k => (s.here.sock k).fifo.headD 0
    | none =>
      match portKind p, portUnit p with
      | some .result, some u => if isZ p then s.me.bank.readZ u else s.me.bank.readY u
      | _, _ => s.readPlain s.cur.1 s.cur.2 limm p

/-- The step of an lsu address by its trigger (R37). -/
def lsuStep (port : Nat) : Nat :=
  match port with
  | 0x164 | 0x165 | 0x16C => 1
  | 0x166 | 0x167 | 0x16D => 2
  | 0x168 | 0x169 | 0x16E => 4
  | 0x16A | 0x16F | 0x171 | 0x172 => 8
  | 0x16B | 0x170 | 0x174 => 64
  | _ => 0

/-- The step of an atm address by its trigger (R37): the operations stand by width, w before d, from 0x1A5. -/
def atmStep (port : Nat) : Nat :=
  if port = 0x1A7 then 4
  else if port = 0x1BE then 8
  else if 0x1A8 ≤ port ∧ port ≤ 0x1BD then (if port % 2 = 0 then 4 else 8)
  else if port = 0x1A5 then 4
  else if port = 0x1A6 then 8
  else 0

/-- What keep-stepping adds to a kept move's value at repetition j; all are the word's moves whose guards are true, which
give the step whether or not they are kept (R37). -/
def stepOf (all : List Move) (e : Move) (j : Nat) : Nat :=
  if !e.m.keep then 0
  else if e.dst = 0x160 then j * (all.map fun f => lsuStep f.dst).sum
  else if e.dst = 0x1A0 then j * (all.map fun f => atmStep f.dst).sum
  else 0

/-- A socket that a word reads loses its head entry, once (R107). -/
def popSocks (s : State) (en : List Move) : State :=
  (((en.filterMap Move.src).eraseDups.filterMap stkRead).filter fun k => !(s.here.sock k).fifo.isEmpty).foldl
    (fun s k => s.setHere (s.here.sockPop k)) s

/-- The enabled moves with the values they carry. -/
def values (s : State) (limm : BitVec 24) (en : List Move) : List (Move × Word) :=
  en.map fun e => (e, readSource s limm e)

/-- The writes of the enabled moves to registers and operand ports. -/
def writeMoves (s : State) (all : List Move) (j : Nat) (vs : List (Move × Word)) : State :=
  vs.foldl (fun s e =>
    if isTrigger e.1.dst then s
    else s.writePlain s.cur.1 s.cur.2 e.1.dst (e.2 + BitVec.ofNat 64 (stepOf all e.1 j))) s

/-! ## Holds on sources (R22, R23, R107, R137, R147) -/

/-- A result of the unit is neither due nor delivered, and not physically ready (R431). -/
def Bank.unready (b : Bank) (u : UnitId) (c : Nat) : Bool :=
  b.res.any fun r => r.unit == u &&
    match r.due with
    | none => true
    | some d => r.wait || decide (b.clock < d ∧ c < r.ready)

/-- The result that sem.y reads next is a sem.wait's, which is data-locked whatever MODE says (R23, R333). -/
def Bank.waitLock (b : Bank) (u : UnitId) : Bool :=
  match b.select u true with
  | some r => r.lock
  | none => false

/-- An acquire whose own access is still to be performed, or an access to the own pool that its word could not perform as it
fired, holds the strand's later accesses to its own tile: pool, common registers, semaphores, the inbox and spill entries
(R328, R330). -/
def acquireHeld (s : State) : Bool :=
  (s.me.order.any fun o => o.acq && decide (1 ≤ o.scope) && !s.performed o.ids) || !(ownOut s s.cur.1 s.cur.2).isEmpty

/-- The result that a read of a port is served from is not physically ready: it is on its way, or it was in the fpa's
pipeline, and not yet due, when the expansion of another strand came to occupy it (R154, R180). -/
def lateResult (s : State) (port : Nat) (u : UnitId) : Bool :=
  let st := s.me
  match st.bank.select u (!isZ port || u != .vec) with
  | none => false
  | some r => r.wait || u == .fpa && match s.here.fpaOwner, Map.get? s.here.fpaAt s.cur.2 with
    | some j, some (cu, ct) => j != s.cur.2 && decide ((if st.tl then ct else cu) ≤ r.due.getD 0)
    | _, _ => false

/-- A read of this port holds the strand. -/
def sourceHeld (s : State) (port : Nat) : Bool :=
  match stkRead port with
  | some k => (s.here.sock k).fifo.isEmpty
  | none =>
    match portKind port, portUnit port with
    | some .result, some u =>
      let st := s.me
      if isZ port then ((st.locked u || u == .mdu) && st.bank.pending u) || (!st.locked u && lateResult s port u)
      else if st.locked u then !st.bank.full.contains port
      else st.bank.pending u || lateResult s port u || (st.bank.waitLock u && !st.bank.full.contains port)
    | _, _ => decide (0x300 ≤ port) && acquireHeld s

/-! ## Holds on triggers (R23) -/

/-- Operations of the lsu that never wait on lsu.y (R127). -/
def neverWaits (port : Nat) : Bool := decide (0x16C ≤ port ∧ port ≤ 0x170 ∨ 0x172 ≤ port ∧ port ≤ 0x174)

/-- The operation of a trigger port writes its unit's .y; every vector trigger waits for a full vec.y (R180). -/
def writesY (s : State) (port : Nat) : Bool :=
  match portUnit port with
  | some .cu => port == 0x009 || port == 0x00D || port == 0x00E
  | some .crf => port == 0x0F2
  | some .lsu => !neverWaits port
  | some .atm => port == 0x1BE || decide (0x1B8 ≤ port) || !(atmOrder s).bit 8
  | some .sem => port != 0x1C4
  | some .net => decide (0x1E8 ≤ port ∧ port ≤ 0x1EC)
      || (port == 0x1EE && ((netC s).bits 2 0 == 3 || (netC s).bits 2 0 == 4))
  | some .sys => port == 0x2C3 || port == 0x2C5
  | _ => true

/-- An earlier operation of the unit has still to deliver; for the vector unit one that writes vec.y. -/
def undelivered (b : Bank) (u : UnitId) : Bool :=
  b.res.any fun r => r.unit == u && r.due == none && (u != .vec || r.y.isSome)

/-- R23 on a trigger; s has the word's writes, reads are the ports its enabled moves read. -/
def triggerHeld (s : State) (reads : List Nat) (port : Nat) : Bool :=
  match portUnit port with
  | none => false
  | some u =>
    let st := s.me
    if neverWaits port then false
    else if st.locked u then
      undelivered st.bank u || (writesY s port && st.bank.full.contains (yPort u) && !reads.contains (yPort u))
    else
      port == 0x1C5 && (st.bank.unready u s.here.cycle || (st.bank.full.contains (yPort u) && !reads.contains (yPort u)))

/-! ## Holds of the units -/

/-- A fence or acquire holds a later access (R329, R330). -/
def orderHeld (s : State) (ld st : Bool) (scope : Nat) : Bool :=
  s.me.order.any fun o => (o.acq || (ld && o.qld) || (st && o.qst)) && decide (scope ≤ o.scope) && !s.performed o.ids

/-- The access of an lsu trigger: its address, what it is, whether it loads. -/
def lsuAccess (s : State) (port : Nat) (v : Word) : Option (Word × Access × Bool) :=
  let a := lsuA s
  match port with
  | 0x164 | 0x165 => some (a + v, { access := 0, bytes := 1, near := none, pf := false }, true)
  | 0x166 | 0x167 => some (a + v, { access := 0, bytes := 2, near := none, pf := false }, true)
  | 0x168 | 0x169 => some (a + v, { access := 0, bytes := 4, near := none, pf := false }, true)
  | 0x16A | 0x171 => some (a + v, { access := 0, bytes := 8, near := none, pf := false }, true)
  | 0x16B => some (a, { access := 2, bytes := 64, near := some (v.bits 19 0), pf := false }, true)
  | 0x16C => some (a, { access := 1, bytes := 1, near := none, pf := false }, false)
  | 0x16D => some (a, { access := 1, bytes := 2, near := none, pf := false }, false)
  | 0x16E => some (a, { access := 1, bytes := 4, near := none, pf := false }, false)
  | 0x16F | 0x172 => some (a, { access := 1, bytes := 8, near := none, pf := false }, false)
  | 0x170 => some (a, { access := 3, bytes := 64, near := some (v.bits 19 0), pf := false }, false)
  | 0x174 => some (a + v, { access := 5, bytes := 64, near := none, pf := true }, true)
  | _ => none

/-- An lsu trigger that passes its checks is held: by the order of accesses, a full window, a locked granule, the matrix
queue, or a release to the own pool (R85, R199, R235, R329, R330). -/
def lsuHeld (s : State) (port : Nat) (v : Word) : Bool :=
  let (t, k) := s.cur
  if s.me.sup && vecLoadDue s t k then true
  else if port = 0x175 then orderHeld s true true 1 || acquireHeld s || lsuOut s t k
  else
    match lsuAccess s port v with
    | none => false
    | some (a, x, ld) =>
      match lsuCheck s a x with
      | .error _ => false
      | .ok p =>
        match p with
        | .own off =>
          orderHeld s ld (!ld) 1 || acquireHeld s || (!ld && s.lockedOut t off x.bytes)
            || (port == 0x16B && s.lockedOut t (v.bits 19 0) 64)
            || (port == 0x172 && !(s.earlier t k ((s.opnd 0x162).bits 2 0)).isEmpty)
        | .sorus _ _ => orderHeld s ld (!ld) 2
        | .global _ => orderHeld s (ld && !x.pf) (!ld) 3 || decide (16 ≤ s.me.window.length)
        | .window => acquireHeld s || mxHeld s t k (s.poolRead t (v.bits 19 0) 64) s.me.fmt
        | .dropped => false

/-- The atomic of a trigger port (R224), in the order of the port map; none: wrs. -/
def atmForm (port : Nat) : Option (RmwOp × Nat) :=
  ([(RmwOp.add, 4), (.add, 8), (.addf, 4), (.min, 4), (.min, 8), (.minu, 4), (.minu, 8), (.max, 4), (.max, 8), (.maxu, 4),
    (.maxu, 8), (.and, 4), (.and, 8), (.or, 4), (.or, 8), (.xor, 4), (.xor, 8), (.swp, 4), (.swp, 8), (.cas, 4),
    (.cas, 8), (.lr, 4), (.lr, 8), (.sc, 4), (.sc, 8)])[port - 0x1A5]?

/-- NR atomics of a strand that have left the tile (R230). -/
def nrOut (s : State) (t k : Nat) : Nat :=
  (s.flight.filter fun p => p.src == t && p.slot == k && p.dst != t && match p.body with
    | .atomic r => r.nr
    | _ => false).length

/-- An earlier atomic of the strand to its own tile is still to be performed: a later one waits (R229). -/
def atomicOut (s : State) (t k : Nat) : Bool :=
  s.flight.any fun p => p.src == t && p.slot == k && p.dst == t && p.body.route == 3

/-- An atomic that passes its checks is held (R229, R230, R235, R329, R330). -/
def atmHeld (s : State) (port : Nat) (v : Word) : Bool :=
  let (t, k) := s.cur
  match atmForm port with
  | none => false
  | some (op, n) =>
    match atmCheck s (atmAddr s) n with
    | .error _ => false
    | .ok (u, off) =>
      let r := atmReq s op n off v
      orderHeld s r.loads (op != .lr) (s.tileScope t u) || (r.nr && decide (32 ≤ nrOut s t k))
        || (u == t && r.sc.isNone &&
          (acquireHeld s || atomicOut s t k || atmBlocked s t k u ((s.me.hold.map Hold.seq).getD s.nextId) r || (atmRel s && !(s.earlier t k (atmScope s)).isEmpty)))

/-- A sem.wait is held: its threshold is not met, nor was it at a change since the hold began, nor has its limit passed
(R335, R337). -/
def semHeld (s : State) (v : Word) : Bool :=
  !serialGe (semOwn s).s (v.bits 31 0) 32 &&
    match s.me.hold with
    | some h =>
      match h.sem with
      | some w => w.met.isNone && !w.tout && !(w.limit != 0 && decide (h.first + w.limit ≤ s.time))
      | none => true
    | none => true

/-- A net trigger is held (R240, R248, R251, R329, R340). -/
def netHeld (s : State) (port : Nat) (v : Word) : Bool :=
  let (t, k) := s.cur
  match port with
  | 0x1E5 => decide (16 ≤ s.moves t k) || orderHeld s false true 1
  | 0x1E6 => decide (16 ≤ s.moves t k) || orderHeld s true false 1
  | 0x1E7 => decide (8 ≤ s.sends t k) || orderHeld s false true 1
  | 0x1E8 => recvHeld s v || acquireHeld s || s.lockedOut t (v.bits 19 0) 64
  | 0x1E9 => acquireHeld s || (!s.here.inbox.isEmpty && s.lockedOut t (v.bits 19 0) 64)
  | 0x1EB => barHeld s v
  | 0x1ED => !s.drained t k
  | 0x1EE => chHeld s v || ((netC s).bits 2 0 == 0 && orderHeld s false true 1)
  | _ => false

/-- Another strand of the tile has waited longer for a divide (R147). The manual serves held divides in the order of
their first attempts; a word with a divide counts from its first attempt whatever else holds it (DESIGN CHOICE, log entry 60). -/
def divideAhead (s : State) : Bool :=
  let mine := (s.me.hold.map Hold.seq).getD s.nextId
  s.here.strands.any fun e => e.1 != s.cur.2 && e.2.status == .live &&
    match e.2.hold with
    | some h => h.held && decide (h.seq < mine) && h.want.any fun p => decide (0x0CA ≤ p ∧ p ≤ 0x0CD)
    | none => false

/-- An mdu trigger is held by a divide of the strand, or a divide by the divider (R147). -/
def mduHeld (s : State) (port : Nat) : Bool :=
  let st := s.me
  (st.bank.res.any fun r => r.unit == .mdu && r.due == none && (r.wait || !st.locked .mdu))
    || (decide (0x0CA ≤ port) && (s.here.divOwner.isSome || st.bank.unready .mdu s.here.cycle || divideAhead s))

/-- The units whose LOCK bit a MODE value changes (R117, R118). -/
def flipUnits (st : Strand) (new : BitVec 24) : List UnitId :=
  [UnitId.cu, .alu0, .alu1, .mdu, .prd, .crf, .fpa, .sfu, .sem, .dma, .vec].filter fun u =>
    match lockBit u with
    | some i => new.getLsbD i != st.mode.getLsbD i
    | none => false

/-- The LOCK bits a mode write changes belong to units with operations outstanding (R118). -/
def modeHeld (s : State) (v : Word) : Bool :=
  let st := s.me
  (flipUnits st ((v.truncate 24) &&& modeMask)).any fun u =>
    st.user.unready u s.here.cycle || st.trap.unready u s.here.cycle

/-- What a control strand's halt waits for beyond its own operations: helpers, stopped ones too (R312, R351). -/
def Tile.busy (x : Tile) : Bool :=
  (x.strands.any fun e => e.1 != 0 && e.2.status != .free) || !x.arrq.isEmpty || x.satisfied.isSome

/-- The strand's cu.meet is held: its own arrival is still open, or would stay open, or waits to be made (R299). -/
def meetHeld (s : State) (v : Word) : Bool :=
  let (m, p) := meetOf v
  let q := s.here.meet m
  match s.me.ownMeet m with
  | some g => g == q.gen
  | none => s.meetWaits s.cur.1 s.cur.2 || q.count + 1 != (if q.count = 0 then p else q.parties)

/-- The arrival that a held cu.meet makes at its first attempt: its key, meet point and party count (R299). -/
def meetDue (s : State) (v : Word) : Option (Nat × Nat) :=
  let (m, p) := meetOf v
  if (s.me.ownMeet m).isSome || s.meetWaits s.cur.1 s.cur.2 then none else some (m, p)

/-- cu triggers that wait: cu.halt, a call or return that spills behind an acquire, and cu.trymeet's arrival, a release
at tile scope (R294, R297, R299, R330). -/
def cuHeld (s : State) (port : Nat) (v : Word) : Bool :=
  let (t, k) := s.cur
  let st := s.me
  match port with
  | 0x005 => decide (16 ≤ st.ret.length) && acquireHeld s
  | 0x006 => st.ret.isEmpty && acquireHeld s
  | 0x00A => !s.drained t k || (k == 0 && s.here.busy)
  | 0x00D => (st.polled (meetOf v).1).isNone && s.meetWaits t k
  | _ => false

/-- An operation of the trap bank has neither delivered nor become due (R350). -/
def trapBusy (s : State) (t : Nat) (st : Strand) : Bool :=
  st.trap.res.any fun r => match r.due with
    | none => true
    | some d => r.wait || decide (st.trap.clock < d ∧ (s.tile t).cycle < r.ready)

/-- The unit of a trigger port holds it; s has the word's writes. cu.meet is apart (meetHeld). -/
def unitHeld (s : State) (port : Nat) (v : Word) : Bool :=
  let (t, k) := s.cur
  match portUnit port with
  | some .cu => cuHeld s port v
  | some .mdu => mduHeld s port
  | some .crf =>
    let i := if port = 0x0F2 then v.bits 10 0 else (s.opnd 0x0F0).bits 10 0
    (decide (i < 0x400) && acquireHeld s) || (port == 0x0F3 && i == 0x400 && modeHeld s v)
  | some .fpa => match s.here.fpaOwner with
    | some j => j != k
    | none => false
  | some .lsu => lsuHeld s port v
  | some .atm => atmHeld s port v
  | some .sem =>
    if port = 0x1C5 then semHeld s v || acquireHeld s
    else if 0x1C6 ≤ port ∧ port ≤ 0x1C8 then acquireHeld s
    else port == 0x1C4 && (decide (8 ≤ s.sends t k) || orderHeld s false true (s.tileScope t (semTile s)))
  | some .net => netHeld s port v
  | some .dma =>
    ((port == 0x203 || port == 0x204) && acquireHeld s) || (port == 0x203 && copyHeld s false v) || (port == 0x204 && copyHeld s true v)
  | some .vec =>
    vecLoadDue s t k || vecLockedOut s port v || (((0x246 ≤ port ∧ port ≤ 0x249) ∨ port = 0x26B ∨ port = 0x26C) && acquireHeld s)
      || ((port == 0x246 || port == 0x248) && orderHeld s true false 1)
      || ((port == 0x247 || port == 0x249) && orderHeld s false true 1)
  | some .sys =>
    if port = 0x2C2 then false
    else if port = 0x2C4 then v.bits 6 0 == 6 && modeHeld s (s.opnd 0x2C0)
    else
      decide (0x2C5 ≤ port)
        && (orderHeld s (port == 0x2C5) (port == 0x2C6) 4
          || (port == 0x2C6 && (xaddrCheck 1 v).isNone && isHipi v && !hipiReady s (s.opnd 0x2C0)) || s.hbmCh.any fun c => c.2.trainTo.isSome)
  | _ =>
    match stkWrite port with
    | some i => decide (64 ≤ (s.here.sock i).fifo.length)
    | none => false

/-- A send beside a sem.sig in one word: both count against the limit of 8 (R240, R335). -/
def pairHeld (s : State) (vs : List (Move × Word)) (port : Nat) : Bool :=
  (port == 0x1E7 || (port == 0x1EE && decide ((netC s).bits 2 0 ≤ 1))) && (vs.any fun e => e.1.dst == 0x1C4)
    && decide (7 ≤ s.sends s.cur.1 s.cur.2)

/-! ## Traps taken before the word has any effect -/

/-- A dma trigger of the word changes the sockets before a higher slot's stk.w (R28). -/
def rebinds (en : List Move) (e : Move) : Bool := en.any fun f => decide (f.k < e.k) && portUnit f.dst == some .dma

/-- Trap 0x25 of a stk.w on a socket (R108). -/
def stkTrap (s : State) (port : Nat) : Option (Nat × Word) :=
  match stkWrite port with
  | some k => (sockWriteBad s k).map fun r => (0x25, info25 r k)
  | none => none

/-- An uncorrectable error in a register or result latch that a move reads (R380; log entry 61). -/
def sourceBad (s : State) (port : Nat) : Option (Nat × Word) :=
  if 0x300 ≤ port then
    (hasBad s.here.poolBad (8 * (port - 0x300)) 8).map fun b => (0x31, sinfo78 0 0 0 (BitVec.ofNat 64 b))
  else if s.me.bad.contains (s.me.cellPort port) then some (regTrap s)
  else none

/-- An uncorrectable error in an operand latch of the unit that a trigger fires, unless the word writes the latch (R380; log
entry 61). -/
def latchBad (s : State) (en : List Move) (port : Nat) : Option (Nat × Word) :=
  let st := s.me
  if isTrigger port && st.bad.any fun p =>
      portKind (p % 0x1000) == some .operand && portUnit (p % 0x1000) == portUnit port
        && st.cellPort (p % 0x1000) == p && !en.any fun e => e.dst == p % 0x1000
  then some (regTrap s)
  else none

/-- A word whose guards read PW (R13, R21). -/
def readsGuards (w : TWord) : Bool := (movesOf w).any fun e => !alwaysFires e.dst && e.m.guard != 0

/-- The protected words that sys.eret reads: SSTAT, SPC, SDS and XSTEP (R350). -/
def eretCells : List Nat := [sysCell 0, sysCell 1, sysCell 4, sysCell 5]

/-- An uncorrectable error in PW, which a word's guards read, or in what its sys.eret reads (R380; log entry 61). -/
def stateBad (s : State) (w : TWord) (en : List Move) : Option (Nat × Word) :=
  if (readsGuards w && s.me.bad.contains 0x02A) || (en.any (·.dst == 0x2C2) && s.me.bad.any eretCells.contains) then
    some (regTrap s)
  else none

/-- Stream sockets (R108), registers and latches (R380) and cu.meet in a handler (R299), which need no value. -/
def earlyTrap (s : State) (en : List Move) : Option (Nat × Word) :=
  en.findSome? fun e =>
    let rd := match e.src with
      | some p => match stkRead p with
        | some k => (sockReadBad s k).map fun r => (0x25, info25 r k)
        | none => sourceBad s p
      | none => none
    rd.or <| (latchBad s en e.dst).or <| (if rebinds en e then none else stkTrap s e.dst).or <|
      if e.dst = 0x00C ∧ s.me.hnd then some (0x0A, sinfoOp 0 0x00C) else none

/-- Barriers (R341), sem.wait (R336) and net.recv in a handler, on the state with the word's writes. -/
def lateTrap (s : State) (vs : List (Move × Word)) : Option (Nat × Word) :=
  vs.findSome? fun e =>
    match e.1.dst with
    | 0x1C5 => waitCheck s
    | 0x1E8 => recvCheck s e.2
    | 0x1EA => barCheck s 0x1EA
    | 0x1EB => barCheck s 0x1EB
    | 0x1EC => barCheck s 0x1EC
    | _ => none

/-- The strand's share is used up and the word holds an enabled vector trigger other than shape and rel (R321). -/
def budgetBlocked (st : Strand) (en : List Move) : Bool :=
  st.vgrant.1 != 0 && decide (st.acct ≤ 0) &&
    en.any fun e => decide (0x245 ≤ e.dst ∧ e.dst ≤ 0x274)

/-- The operations the enabled moves fire, sys.eret apart; st is the strand before the word. -/
def firedOf (st : Strand) (chop : Nat) (vs : List (Move × Word)) : List Fired :=
  (vs.filter fun e => isTrigger e.1.dst && e.1.dst != 0x2C2).map fun e =>
    { port := e.1.dst, v := e.2, g := st.guard e.1.m.guard.toNat, chop := chop }

/-- The state in which a move's trigger fires: the triggers of the lower slots have fired (R28); s has the word's
writes. -/
def atSlot (st : Strand) (s : State) (vs : List (Move × Word)) (e : Move) : State :=
  (firedOf st ((s.opnd 0x1E2).toNat % 8) (vs.filter fun f => decide (f.1.k < e.k))).foldl (fun s f =>
    match firePort f.port f.v f.g f.chop s with
    | .next s' => s'
    | _ => s) s

/-- A stk.w behind a dma trigger of its word, judged as it fires (R108). -/
def stkLate (st : Strand) (s : State) (vs : List (Move × Word)) : Option (Nat × Word) :=
  vs.findSome? fun e => if rebinds (vs.map Prod.fst) e.1 then stkTrap (atSlot st s vs e.1) e.1.dst else none

/-- The state with the fence of a lower slot in force: it orders what is outstanding now before the later access of its
word (R28, R329). -/
def fenceState (s : State) (vs : List (Move × Word)) (e : Move) : State :=
  match vs.find? fun f => f.1.dst == 0x173 && decide (f.1.k < e.k) with
  | some f => match execLsuFence f.2 s with
    | .next s' => s'
    | _ => s
  | none => s

/-- A trigger is held by its unit; a copy and a stk.w look at their queue entry, descriptor and socket as they fire
(R28, R98, R101, R107). -/
def heldAt (st : Strand) (s : State) (vs : List (Move × Word)) (e : Move × Word) : Bool :=
  if e.1.dst = 0x203 ∨ e.1.dst = 0x204 ∨ (stkWrite e.1.dst).isSome then unitHeld (atSlot st s vs e.1) e.1.dst e.2
  else unitHeld (fenceState s vs e.1) e.1.dst e.2

/-! ## Results that count as due (R431) -/

/-- The MODE value that a word leaves, that of its highest slot that writes it; s has the word's writes (R28, R118). -/
def modeWrite (s : State) (vs : List (Move × Word)) : Option (BitVec 24) :=
  vs.reverse.findSome? fun e =>
    if e.1.dst = 0x0F3 ∧ (s.opnd 0x0F0).bits 10 0 = 0x400 then some ((e.2.truncate 24) &&& modeMask)
    else if e.1.dst = 0x2C4 ∧ e.2.bits 6 0 = 6 then some (((s.opnd 0x2C0).truncate 24) &&& modeMask)
    else none

/-- A divide trigger. -/
def isDivide (port : Nat) : Bool := decide (0x0CA ≤ port ∧ port ≤ 0x0CD)

/-- The state from which a word reads its sources: the ready results that it waits for, of the mdu for a divide and of
the units whose LOCK bit it changes, count as due from its issue (R118, R147, R431). -/
def dueState (s : State) (limm : BitVec 24) (all en : List Move) (j : Nat) : State :=
  let st := s.me
  let vs := values s limm en
  let div := if en.any fun e => isDivide e.dst then [UnitId.mdu] else []
  let flips := ((modeWrite (writeMoves s all j vs) vs).map (flipUnits st)).getD []
  let c := s.here.cycle
  if (div.any fun u => st.bank.unready u c) || (flips.any fun u => st.user.unready u c || st.trap.unready u c) then s
  else
    let st := div.foldl (fun st u => st.setBank (st.bank.dueNow u)) st
    s.setMe { st with user := flips.foldl Bank.dueNow st.user, trap := flips.foldl Bank.dueNow st.trap }

/-! ## The judgement on a word -/

/-- What a word's attempt comes to. -/
inductive Verdict where
  | trap (cause : Nat) (info : Word)
  /-- held: the port R353 names, a meet to arrive at first, what the hold records -/
  | held (port : Nat) (meet : Option (Nat × Nat)) (sem : Option SemHold) (recv bar : Bool) (want : List Nat)
  /-- budget-blocked: not eligible, and no hold -/
  | blocked
  /-- nothing holds it; what its sem.wait waited for -/
  | go (sem : Option SemHold)
deriving DecidableEq, Repr

/-- What a sem.wait waits for: it is tested at its word's first attempt (R337). -/
def semHoldOf (s : State) (v : Word) : SemHold :=
  let q := semOwn s
  let thr := v.bits 31 0
  { sem := semIndex s, thr := thr, limit := (s.opnd 0x1C2).bits 31 0
    met := if serialGe q.s thr 32 then some (q.s, q.err) else none, tout := false }

/-- The value that a port of the word fires with. -/
def valueAt (vs : List (Move × Word)) (port : Nat) : Option Word := (vs.find? fun e => e.1.dst == port).map Prod.snd

/-- A move's source holds the word. -/
def Move.waits (s : State) (e : Move) : Bool :=
  match e.src with
  | some p => sourceHeld s p
  | none => false

/-- A move's trigger and operands do not come from a source that holds the word. -/
def Move.known (s : State) (en : List Move) (e : Move) : Bool :=
  !e.waits s && !en.any fun f => f.waits s && (portUnit e.dst).isSome && portUnit f.dst == portUnit e.dst

/-- An operation that a handler may not wait on: sem.wait, net.recv, net.barwait (R241, R336, R341). -/
def isWait (port : Nat) : Bool := port == 0x1C5 || port == 0x1E8 || port == 0x1EB

/-- The traps of a word that a source still holds, at its first attempt: those of the waits and barrier operations whose
operands are there, and 0x0A of a handler's wait whatever its operands; s has the word's writes (R241, R336, R341). -/
def firstTrap (s0 s : State) (en : List Move) (vs : List (Move × Word)) : Option (Nat × Word) :=
  vs.findSome? fun e =>
    if e.1.known s0 en then (lateTrap s [e]).filter fun c => e.1.dst != 0x1E8 || c.1 == 0x0A
    else if isWait e.1.dst && s0.me.hnd then some (0x0A, sinfoOp 0 e.1.dst)
    else none

/-- A move whose value is there is held: its trigger by R23 or its unit, or its access to the own tile (R23, R299, R330). -/
def moveHeld (st : Strand) (s : State) (reads : List Nat) (vs : List (Move × Word)) (e : Move × Word) : Bool :=
  if isTrigger e.1.dst then
    triggerHeld s reads e.1.dst || heldAt st s vs e || pairHeld s vs e.1.dst || (e.1.dst == 0x00C && meetHeld s e.2)
  else decide (0x300 ≤ e.1.dst) && acquireHeld s

/-- A word's traps before it has any effect, what holds it, or nothing. Where a source holds it, the moves whose operands are
there are judged all the same: a sem.wait is tested, a hold names the lowest-numbered held move (R337, R353). A cu.meet
arrives once nothing else holds its word (R299). -/
def wordVerdict (s : State) (en : List Move) (vs : List (Move × Word)) (ts : State) (fires : List Nat) : Verdict :=
  let reads := en.filterMap Move.src
  let starved := en.any fun e => e.waits s
  let there (e : Move × Word) : Bool := !starved || e.1.known s en
  let known := vs.filter there
  let sem := (valueAt known 0x1C5).map (semHoldOf ts)
  match if starved then firstTrap s ts en vs else (stkLate s.me ts vs).or (lateTrap ts vs) with
  | some (c, i) => .trap c i
  | none =>
    let held (e : Move × Word) : Bool :=
      e.1.waits s || (isTrigger e.1.dst && triggerHeld ts reads e.1.dst) || (there e && moveHeld s.me ts reads vs e)
    match vs.find? held with
    | none => .go sem
    | some e =>
      let alone := !vs.any fun f => f.1.dst != 0x00C && held f
      .held e.1.dst (if alone then (valueAt vs 0x00C).bind (meetDue ts) else none) sem
        (((valueAt known 0x1E8).map (recvHeld ts)).getD false) (((valueAt known 0x1EB).map (barHeld ts)).getD false) fires

/-- Judge repetition j of a word of n repetitions for the strand s.cur. At a repetition from 1 on, a move without keep takes no
part in R26's conflicts or in a hold (DESIGN CHOICE, log entry 73). -/
def judge (s : State) (w : TWord) (n j : Nat) : Verdict :=
  let st := s.me
  let all := (movesOf w).filter fun e => e.on st 0
  let en := (movesOf w).filter fun e => e.on st j
  if budgetBlocked st en then .blocked
  else
    match (wordCheck s w n en).or ((stateBad s w en).or (earlyTrap s en)) with
    | some (c, i) => .trap c i
    | none =>
      let fires := (en.map Move.dst).filter isTrigger
      let s := if en.any fun e => e.waits s then s else dueState s w.limm all en j
      let vs := values s w.limm en
      wordVerdict s en vs (writeMoves (popSocks s en) all j vs) fires

end Sys2Proof.Machine
end

