-- ==== Sys2Proof/Machine/Issue.lean ====
section
/-! DEFINITION. The issue: parcels (R29 to R39), words (R24 to R28), delay issues (R289 to R293), the return from a handler
(R350), and the issue choice (R317 to R319). -/
namespace Sys2Proof.Machine

/-! ## The end of an issue -/

/-- The units of a LOCK bit that a mode write changes: their results count as due, their ports start empty (R118). -/
def flipBank (units : List UnitId) (b : Bank) : Bank :=
  units.foldl (fun b u =>
    let b := b.dueNow u
    { b with
      full := b.full.filter (· != yPort u)
      res := b.res.map fun r => if r.unit == u then { r with lock := false } else r }) b

/-- What the word wrote with effect from the next issue (R118, R123, R173, R347). -/
def applyNext (st : Strand) : Strand :=
  let n := st.next
  let st := match n.mode with
    | none => st
    | some m =>
      let flips := flipUnits st m
      { st with mode := m, user := flipBank flips st.user, trap := flipBank flips st.trap }
  { st with
    fmt := n.fmt.getD st.fmt, sstat := n.sstat.getD st.sstat, srkey := n.key.getD st.srkey
    tbank := n.tbank.getD st.tbank
    vgrant := if st.vreq.1 = 0 then (0, 0) else n.grant.getD st.vgrant, next := Next.none }

/-- One more issue on the bank that was selected. -/
def Strand.clockOn (st : Strand) (trap : Bool) : Strand :=
  let b := st.bankAt trap
  st.setBankAt trap { b with clock := b.clock + 1 }

/-- A delay issue has passed: after the second, fetch goes to the target or past the parcel (R289, R290). -/
def afterDelay (st : Strand) (d : Option Delay) (len : BitVec 24) : Strand :=
  match d with
  | none => st
  | some d =>
    if 1 < d.cnt then { st with delay := some { d with cnt := d.cnt - 1 } }
    else
      let pc := if d.taken then d.target else if st.rep = 0 then st.pc else st.pc + len
      { st with delay := none, pc := pc, rep := 0, rword := none }

/-- At the end of a parcel its PIM is cleared, and the next issue begins (R31, R34). -/
def newIssue (st : Strand) : Strand := if st.rep = 0 then { st with ia := st.pc, pim := 0, pimRun := 0 } else st

/-- The counts of an issue (R8, R121, R318). -/
def countIssue (st : Strand) (cycle : Nat) (step : Bool) : Strand :=
  { st with
    issue := st.issue + 1, wait := 0, last := cycle, hold := none, attempts := 0, stepPend := st.stepPend || step }

/-- The position before repetition j of n of a parcel of len parcels is left for the next. -/
def advanceTo (st : Strand) (n j : Nat) (len : BitVec 24) : Strand :=
  let more := decide (j + 1 < n)
  { st with
    pc := if more then st.pc else st.pc + len, rep := if more then j + 1 else 0
    rword := if more then st.rword else none, wrep := j, yielded := false }

/-- Add to one of the tile's counters (R390). -/
def bump (m : Map Word) (i n : Nat) : Map Word := if n = 0 then m else Map.set m i (Map.find 0 m i + BitVec.ofNat 64 n)

/-- A cycle of the tile ends; the turn with it. -/
def endCycle (s : State) (t : Nat) : State :=
  let x := s.tile t
  { (s.setTile t { x with cycle := x.cycle + 1, fusing := false }) with turn := none }

/-- A cycle of the tile ends without an issue: IDLE counts it (R390). -/
def lostCycle (s : State) (t : Nat) : State :=
  let x := s.tile t
  endCycle (s.setTile t { x with counters := bump x.counters 2 1 }) t

/-- The issue of strand k of tile t ends: st0 is the strand before it. A host piece may be applied again (R91), and the
issue of a train's later member counts in FUSED (R390). -/
def closeIssue (s : State) (t k : Nat) (st0 : Strand) (len : BitVec 24) : State :=
  let st := (applyNext (s.strand t k)).clockOn st0.tl
  let st := newIssue (afterDelay st st0.delay len)
  let st := countIssue st (s.tile t).cycle (st0.ss && !st0.tl)
  let x := (s.tile t).setStrand k st
  (endCycle (s.setTile t { x with
    issues := x.issues + 1, pieced := false, counters := bump x.counters 1 x.fusing.toNat }) t).resumed t k

/-! ## Halting and leaving (R297, R312, R251) -/

/-- The strand ends: it gives up what it holds, and its slot frees; the control strand's halt completes its tile. -/
def haltStrand (s : State) (t k : Nat) : State :=
  let s := s.releaseStrand t k
  let x := s.tile t
  let x := { x with fpaOwner := if x.fpaOwner = some k then none else x.fpaOwner }
  let s := s.setTile t (x.setStrand k (x.strand k).ended)
  let s := enter36 (s.tile t).wait36.length s t
  if k = 0 then completeTile s t else s.settleSlots t

/-- Nothing that the last word of a strand fired is still under way: its operations, expansion and traps (R251, R253,
R297); and no strand that one of these has started keeps a tile from completing (R312). -/
def canLeave (s : State) (t k : Nat) : Bool :=
  let st := s.strand t k
  let x := s.tile t
  st.leaving && st.status == .live && s.drained t k && st.exp.isNone && !st.latchedDue && !st.refire && st.reported.isNone
    && (x.divOwner.all fun o => o.1 != k) && !(k == 0 && st.ending && x.busy)

/-- The control strand's halt has proceeded: the armed entries left are discarded (R312). -/
def disarm (s : State) (t k : Nat) : State :=
  let x := s.tile t
  if k = 0 ∧ (x.strand 0).ending then s.setTile t { x with wtt := x.wtt.filter fun e => e.2.state == 2 } else s

/-- A word's halt or departure, once what it fired has been done. -/
def leave (s : State) (t k : Nat) : State :=
  let st := s.strand t k
  if !canLeave s t k then s
  else if st.ending then haltStrand s t k
  else
    match st.going with
    | some v => depart s t k v
    | none => s

/-! ## The return from a handler (R350) -/

/-- Let an operation count as fired from the issue before the next (log entry 9). -/
def Strand.backOne (st : Strand) (trap : Bool) : Strand :=
  let b := st.bankAt trap
  st.setBankAt trap { b with clock := b.clock - 1 }

/-- Mark the tile's watch on or off (R390: a re-fired access is not watched). -/
def State.watch (s : State) (t : Nat) (on : Bool) : State := s.setTile t { (s.tile t) with watched := on }

/-- A latched operation of strand k of tile t is held as its trigger would be. -/
def refireHeld (s : State) (t k : Nat) (f : Fired) : Bool :=
  let s := { s with cur := (t, k) }
  triggerHeld s [] f.port || unitHeld s f.port f.v

/-- Fire one latched operation again, with what its own word fired beside it (R252). -/
def refireOne (s : State) (t k : Nat) (l : Latched) : State :=
  let f := l.op
  let tl := (s.strand t k).tl
  let st := s.strand t k
  let s := (s.setStrand t k ({ st with wgo := l.wgo }.backOne tl)).watch t false
  let s := match firePort f.port f.v f.g f.chop s with
    | .next s' => s'
    | _ => s
  (s.setStrand t k ((s.strand t k).clockOn tl)).watch t true

/-- Re-fire the latched operations in order, up to the first that traps or is held (R165); a system call or breakpoint
that waits behind another trap takes its own in its turn (R301). -/
def refireAll (n : Nat) (s : State) (t k : Nat) : State :=
  match n with
  | 0 => s
  | n + 1 =>
    let st := s.strand t k
    match st.latched with
    | [] => s.setStrand t k st.eretEnd
    | l :: rest =>
      if refireHeld s t k l.op then s
      else
        let s := refireOne (s.setStrand t k { st with latched := [] }) t k l
        let st := s.strand t k
        match st.latched with
        | [] => refireAll n (s.setStrand t k { st with latched := rest }) t k
        | bad => s.setStrand t k { st with latched := bad ++ rest, latchedDue := true }.eretEnd

/-- The re-fires that are still to come. -/
def refireRest (s : State) (t k : Nat) : State :=
  let s := refireAll ((s.strand t k).latched.length + 1) s t k
  leave s t k

/-- sys.eret takes effect, and the latched operations are re-fired. -/
def doEret (s : State) (t k : Nat) : State :=
  let s := s.setStrand t k { (s.strand t k) with ereting := false }
  match execSysEret 0 s with
  | .next s' => if (s'.strand t k).refire then refireRest s' t k else s'
  | _ => s

/-- A strand in its return: the operations of the trap bank are waited for, and held re-fires are tried again. -/
def Strand.returning (st : Strand) : Bool := st.ereting || st.refire

/-- The return can go on. -/
def canReturn (s : State) (t k : Nat) : Bool :=
  let st := s.strand t k
  if st.ereting then !trapBusy s t st
  else
    match st.latched with
    | l :: _ => !refireHeld s t k l.op
    | [] => true

/-- The return of the strand whose turn it is goes on. -/
def goOn (s : State) : State :=
  let (t, k) := s.cur
  let s' := if !canReturn s t k then s else if (s.strand t k).ereting then doEret s t k else refireRest s t k
  (lostCycle s' t).settleSlots t

/-! ## Trapping and holding -/

/-- The strand whose turn it is takes a trap before its word has any effect. -/
def stopIssue (s : State) (cause : Nat) (info : Word) : State :=
  let s := if cause = 0x31 then s.poolLog s.cur.1 (info.bits 51 0) else s
  { (trapP s s.cur.1 s.cur.2 cause info) with turn := none }

/-- I parcels before a parcel count in its issue address: it is a T parcel, or has the form of an inline word (R31, R34). -/
def takesPim (p : BitVec 16) : Bool := p.getLsbD 15 == false || p.extractLsb' 8 8 == 0xC1

/-- Order 1 of R27: an illegal parcel. SPC is its issue address, which for any other parcel than a T parcel or inline word
does not count the I parcels before it (R34, R291). Where fetch goes beyond the code object (reason 4) there is no parcel,
and SINFO[15:0] is 0 (DESIGN CHOICE, log entry 62). -/
def illegal (s : State) (reason : Nat) : State :=
  let st := s.me
  let p := (s.parcels s.cur.1 st.pc.toNat 1).head?
  let s := if p.any takesPim then s else s.setMe { st with ia := st.pc }
  stopIssue s 0x01 (BitVec.ofNat 64 (reason * 2 ^ 16 + (p.getD 0).toNat))

/-- Record a hold: when it began, and what it waits for (R25, R335, R353). -/
def recordHold (s : State) (t k port : Nat) (sem : Option SemHold) (recv bar : Bool) (want : List Nat) : State :=
  let st := s.strand t k
  match st.hold with
  | some h =>
    s.setStrand t k { st with hold := some { h with
      since := if h.clear then s.time else h.since, held := true, port := port, sem := h.sem.or sem, recv := h.recv || recv
      bar := h.bar || bar, want := want, clear := false } }
  | none =>
    { (s.setStrand t k { st with hold := some {
        since := s.time, first := s.time, held := true, seq := s.nextId, port := port, sem := sem, recv := recv
        bar := bar, want := want, clear := false } }) with nextId := s.nextId + 1 }

/-- Record an attempt that nothing holds: its TIME and place, and the test of its sem.wait (R335, R337). -/
def recordClear (s : State) (t k : Nat) (sem : Option SemHold) : State :=
  let st := s.strand t k
  match st.hold with
  | some h => s.setStrand t k { st with hold := some { h with clear := true, sem := h.sem.or sem } }
  | none =>
    { (s.setStrand t k { st with hold := some {
        since := s.time, first := s.time, held := false, seq := s.nextId, port := 0x3FF, sem := sem, recv := false
        bar := false, want := [], clear := true } }) with nextId := s.nextId + 1 }

/-- A word held on its first attempt makes its arrival at a meet point (log entry 13). -/
def meetFirst (s : State) (t k : Nat) (meet : Option (Nat × Nat)) : State :=
  match meet with
  | some (m, p) => s.meetArrive t k m (meetKey m) p
  | none => s

/-! ## Words (R24, R25) -/

/-- The registers and latches that a word reads are corrected where they can be, each with a log entry (R379). -/
def fixRegs (s : State) (ports : List Nat) : State := s.fixCells (ports.map s.me.cellPort)

/-- The word writes a register or latch anew: it is a move's destination, though a move to one predicate leaves the others of
PW, or a result latch of a unit that it fires. -/
def writesCell (st : Strand) (en : List Move) (p : Nat) : Bool :=
  en.any fun e => (st.cellPort e.dst == p && (p != 0x02A || e.dst == 0x02A))
    || (isTrigger e.dst && portKind (p % 0x1000) == some .result && portUnit (p % 0x1000) == portUnit e.dst
      && st.cellPort (p % 0x1000) == p)

/-- The registers and latches that a word writes anew hold no error (R380). -/
def renewRegs (s : State) (en : List Move) : State :=
  let st := s.me
  s.setMe { st with bad := st.bad.filter fun p => !writesCell st en p, weak := st.weak.filter fun p => !writesCell st en p }

/-- The ports a word reads are emptied, a socket's head is removed once (R23, R107), and registers and latches with a
correctable error are corrected (R379), PW for the word's guards among them. -/
def consume (s : State) (w : TWord) (en : List Move) : State :=
  let ports := (en.filterMap Move.src).eraseDups
  let s := s.fixCells ((if readsGuards w then [0x02A] else []) ++ if en.any (·.dst == 0x2C2) then eretCells else [])
  let s := renewRegs (fixRegs s ports) en
  let s := (ports.filter fun p => decide (0x300 ≤ p)).foldl (fun s p => s.poolScrub s.cur.1 (8 * (p - 0x300)) 8) s
  let st := s.me
  let b := st.bank
  popSocks (s.setMe (st.setBank { b with full := b.full.filter fun p => !ports.contains p })) en

/-- Fire the triggers in slot order (R24, R28). -/
def fireAll (fs : List Fired) (s : State) : Out :=
  match fs with
  | [] => .next s
  | f :: r =>
    match firePort f.port f.v f.g f.chop s with
    | .next s' => fireAll r s'
    | .fault e => .fault e
    | .refused e => .refused e

/-- Record each unit's latest trigger (R363). -/
def noteTriggers (s : State) (fs : List Fired) : State :=
  let st := s.me
  let b := st.bank
  let put (l : List (UnitId × Nat × Word)) (f : Fired) : List (UnitId × Nat × Word) :=
    match portUnit f.port with
    | some u => (l.filter fun e => e.1 != u) ++ [(u, f.port, f.v)]
    | none => l
  s.setMe (st.setBank { b with trig := fs.foldl put b.trig })

/-- What a word's vector triggers cost the strand (R194). -/
def chargeOf (s : State) (fs : List Fired) : Nat :=
  ((fs.filter fun f => decide (0x244 ≤ f.port ∧ f.port ≤ 0x275)).map fun f => vecCharge s f.port f.v).sum

/-- Charge the strand's account. -/
def charge (s : State) (c : Nat) : State :=
  let st := s.me
  if c = 0 ∨ st.vreq.1 = 0 then s else s.setMe { st with acct := st.acct - (c : Int) }

/-- The flags of a word: the host-write window and the re-negotiation point (R17, R91, R173). -/
def wordFlags (s : State) (w : TWord) : State :=
  let s := if w.syncpt then s.renegotiate else s
  if w.hwin && s.here.hwin then applyAll s.here.ingress.length s s.cur.1 else s

/-- After the word's other moves a sys.eret waits for the trap bank's operations, and then returns (R350). -/
def eretWord (s : State) (t k : Nat) : State :=
  let st := s.strand t k
  if st.latchedDue || trapBusy s t st then s.setStrand t k { st with ereting := true } else doEret s t k

/-- A word that nothing stops takes effect, as repetition j of n of a parcel of len parcels. -/
def proceed (s : State) (w : TWord) (n j : Nat) (len : BitVec 24) : Out :=
  let (t, k) := s.cur
  let st0 := s.me
  let all := (movesOf w).filter fun e => e.on st0 0
  let en := (movesOf w).filter fun e => e.on st0 j
  let s := dueState s w.limm all en j
  let vs := values s w.limm en
  let s := s.setMe { (advanceTo s.me n j len) with wgo := decide (1 < n) || en.any fun e => isCu e.dst }
  let s := writeMoves (consume s w en) all j vs
  let fs := firedOf st0 ((s.opnd 0x1E2).toNat % 8) vs
  let c := chargeOf s fs
  match fireAll fs (noteTriggers s fs) with
  | .next s =>
    let s := leave (closeIssue (disarm (wordFlags (charge s c) w) t k) t k st0 len) t k
    .next ((if en.any fun e => e.dst == 0x2C2 then eretWord s t k else s).settleSlots t)
  | .fault e => .fault e
  | .refused e => .refused e

/-- Attempt a word: its trap, its hold, or its effect. -/
def issueWord (s : State) (w : TWord) (n j : Nat) (len : BitVec 24) : Out :=
  match judge s w n j with
  | .trap c i => .next (stopIssue s c i)
  | .held port meet sem recv bar want =>
    .next (lostCycle (recordHold (meetFirst s s.cur.1 s.cur.2 meet) s.cur.1 s.cur.2 port sem recv bar want) s.cur.1)
  | .blocked => .next (lostCycle s s.cur.1)
  | .go _ => proceed s w n j len

/-- An issue without effect: an empty one (R30, R32), or an annulled one (R291). -/
def emptyIssue (s : State) (n j : Nat) (len : BitVec 24) : State :=
  let (t, k) := s.cur
  let st0 := s.me
  (closeIssue (s.setMe (advanceTo st0 n j len)) t k st0 len).settleSlots t

/-! ## Parcels (R29 to R39) -/

/-- What fetching a table word comes to. -/
inductive Fetch where
  | word (w : BitVec 256)
  /-- held on the overlay being loaded (R300) -/
  | wait
  /-- table bank error (R33) -/
  | bad
deriving DecidableEq, Repr

/-- The kernel the strand runs has overlays. -/
def State.hasOverlays (s : State) (t : Nat) : Bool :=
  match s.objOf t with
  | some o => !o.overlays.isEmpty
  | none => false

/-- The table word at an index (R33, R35). -/
def fetchTable (s : State) (index : Nat) : Fetch :=
  let t := s.cur.1
  let x := s.here
  if index < 256 ∨ !s.hasOverlays t then .word (Map.find emptyWord x.table index)
  else if x.loading.isSome then .wait
  else if x.overlay ≠ some s.me.tbank.toNat then .bad
  else .word (Map.find emptyWord x.table index)

/-- The word and guard of repetition j: the copy of the first issue, or the table; the guard is evaluated once (R30,
R39). -/
def fetchRep (s : State) (index g j : Nat) : Fetch × Bool :=
  let st := s.me
  match st.rword with
  | some r =>
    if j = 0 then (fetchTable s index, st.guard g)
    else if r.reread then (fetchTable s index, r.guard)
    else (.word r.word, r.guard)
  | none => (fetchTable s index, st.guard g)

/-- Repetition j reads the table. -/
def readsTable (st : Strand) (j : Nat) : Bool :=
  match st.rword with
  | some r => j == 0 || r.reread
  | none => true

/-- A fetch held on an overlay: port 0x3FF (R353). -/
def holdFetch (s : State) : State := lostCycle (recordHold s s.cur.1 s.cur.2 0x3FF none false false []) s.cur.1

/-- The fetch of repetition j of a T parcel, and the state that keeps its copy for the later ones (R30, R33). -/
def fetchKept (s : State) (index g j : Nat) : Fetch × Bool × State :=
  let (f, on) := fetchRep s index g j
  let s := if readsTable s.me j then s.cellReload s.cur.1 (.table s.cur.1 index) else s
  match f with
  | .word w =>
    let overlaid := decide (256 ≤ index) && s.hasOverlays s.cur.1
    (f, on, s.setMe { s.me with
      rword := some { word := w, guard := on, pc := s.me.ia, overlaid := overlaid, reread := false } })
  | f => (f, on, s)

/-- Repetition j of a T parcel. -/
def issueTable (s : State) (index n g j : Nat) : Out :=
  match fetchKept s index g j with
  | (.wait, _, s) => .next (holdFetch s)
  | (.bad, _, s) => .next (illegal s 3)
  | (.word w, on, s) => if on then issueWord s (decodeWord w) n j 1 else .next (emptyIssue s n j 1)

/-- T_PARCEL: the first issue of a T parcel (R30). -/
def execTParcel (index : BitVec 9) (nm1 g : BitVec 3) (s : State) : Out :=
  if s.me.returning then .next (goOn s) else issueTable s index.toNat (nm1.toNat + 1) g.toNat 0

/-- REPETITION: a later repetition of the T parcel at the strand's address (R36, R39). -/
def execRepetition (s : State) : Out :=
  if s.me.returning then .next (goOn s)
  else
    match decodeParcels (s.parcels s.cur.1 s.me.pc.toNat 1) with
    | .ok (.tParcel index nm1 g) => issueTable s index.toNat (nm1.toNat + 1) g.toNat s.me.rep
    | _ => .next s

/-- I_PARCEL: shift a chunk into PIM; a fifth in a run is illegal. It is no issue, and the turn goes on (R31). -/
def execIParcel (chunk : BitVec 14) (s : State) : Out :=
  let st := s.me
  if st.returning then .next (goOn s)
  else if 4 ≤ st.pimRun then .next (illegal s 2)
  else
    let raw : Word := (st.pim <<< 14) ||| chunk.zeroExtend 64
    let pim := if st.pimRun = 0 then Word.sx raw 14 else raw
    .next (s.setMe { st with pim := pim, pimRun := st.pimRun + 1, pc := st.pc + 1 })

/-- IDLE: one of the argument + 1 empty issues (R32). -/
def execIdle (arg : BitVec 8) (s : State) : Out :=
  let st := s.me
  if st.returning then .next (goOn s)
  else if st.pimRun ≠ 0 then .next (illegal s 2)
  else .next (emptyIssue s (arg.toNat + 1) st.rep 1)

/-- INLINE: a literal word, issued once (R32). -/
def execInline (w : BitVec 256) (s : State) : Out :=
  if s.me.returning then .next (goOn s) else issueWord s (decodeWord w) 1 0 17

/-- BANK: TBANK := argument. It is no issue, and the turn goes on (R32, R33). Of several causes of trap 0x01 the manual
names no order: a parcel's own form comes first (decoding), then a broken I run, then a bank without overlays (DESIGN
CHOICE, log entry 62). -/
def execBank (n : BitVec 8) (s : State) : Out :=
  let st := s.me
  if st.returning then .next (goOn s)
  else if st.pimRun ≠ 0 then .next (illegal s 2)
  else if !s.hasOverlays s.cur.1 then .next (illegal s 3)
  else .next (s.setMe { st with tbank := n, pc := st.pc + 1, ia := st.pc + 1 })

/-- ANNULLED_ISSUE: a delay issue without effect, checked for illegal parcels only (R291). -/
def execAnnulledIssue (s : State) : Out :=
  let st := s.me
  if st.returning then .next (goOn s)
  else
    match decodeParcels (s.parcels s.cur.1 st.pc.toNat 17) with
    | .ok (.tParcel index nm1 g) =>
      match fetchKept s index.toNat g.toNat st.rep with
      | (.wait, _, s) => .next (holdFetch s)
      | (.bad, _, s) => .next (illegal s 3)
      | (.word _, _, s) => .next (emptyIssue s (nm1.toNat + 1) st.rep 1)
    | .ok (.idle arg) => if st.pimRun ≠ 0 then .next (illegal s 2) else .next (emptyIssue s (arg.toNat + 1) st.rep 1)
    | .ok (.inline _) => .next (emptyIssue s 1 0 17)
    | _ => .next s

/-! ## The next word, before its turn -/

/-- What the strand s.cur would issue next. -/
inductive Ahead where
  /-- a word with effect: repetitions and index -/
  | word (w : TWord) (n j : Nat)
  /-- held on a fetch -/
  | wait
  /-- an issue that nothing holds -/
  | free
  /-- trap 0x01 -/
  | illegal
deriving DecidableEq, Repr

/-- Look past I parcels and table-bank selects at the strand's next issue. -/
def lookAhead (fuel : Nat) (s : State) : State × Ahead :=
  match fuel with
  | 0 => (s, .free)
  | fuel + 1 =>
    let st := s.me
    let annul := match st.delay with
      | some d => d.annul
      | none => false
    match decodeParcels (s.parcels s.cur.1 st.pc.toNat 17) with
    | .ok (.iParcel c) =>
      match execIParcel c s with
      | .next s' => if 4 ≤ st.pimRun then (s, .illegal) else lookAhead fuel s'
      | _ => (s, .free)
    | .ok (.bank n) =>
      if st.pimRun ≠ 0 ∨ !s.hasOverlays s.cur.1 then (s, .illegal)
      else lookAhead fuel (s.setMe { st with tbank := n, pc := st.pc + 1, ia := st.pc + 1 })
    | .ok (.tParcel index nm1 g) =>
      match fetchRep s index.toNat g.toNat st.rep with
      | (.wait, _) => (s, .wait)
      | (.bad, _) => (s, .illegal)
      | (.word w, on) => if annul || !on then (s, .free) else (s, .word (decodeWord w) (nm1.toNat + 1) st.rep)
    | .ok (.inline w) => if annul then (s, .free) else (s, .word (decodeWord w) 1 0)
    | .ok (.idle _) => if st.pimRun ≠ 0 then (s, .illegal) else (s, .free)
    | _ => (s, .illegal)

/-- The strand in slot k could be asked for a word: it is live, between issues, has not fired its last word, and has no
cause to take first. -/
def canAttempt (st : Strand) : Bool :=
  st.status == .live && st.block.isNone && st.exp.isNone && st.boundary.isNone && !st.leaving

/-- What the next word of a strand comes to: none when it is in its return. -/
def nextVerdict (s : State) (t k : Nat) : Verdict :=
  let s := { s with cur := (t, k) }
  match lookAhead (s.objLen t + 1) s with
  | (_, .wait) => .held 0x3FF none none false false []
  | (_, .free) => .go none
  | (_, .illegal) => .trap 0x01 0
  | (s', .word w n j) => judge s' w n j

/-- The return's hold: by the trap bank's operations (port sys.eret), or of the operation to be re-fired (R350, R353). -/
def attemptReturn (s : State) (t k : Nat) : State :=
  let st := s.strand t k
  if canReturn s t k then recordClear s t k none
  else
    let want := if st.ereting then [] else st.latched.head?.toList.map fun l => l.op.port
    recordHold s t k (want.headD 0x2C2) none false false want

/-- The strand attempts its next word: a hold is recorded, or found to be over. -/
def attempt (s : State) (t k : Nat) : State :=
  let st := s.strand t k
  if !canAttempt st then s
  else if st.returning then attemptReturn s t k
  else
    match nextVerdict s t k with
    | .held port meet sem recv bar want => recordHold (meetFirst s t k meet) t k port sem recv bar want
    | .go sem => recordClear s t k sem
    | _ => s.setStrand t k { st with hold := st.hold.map fun h => { h with clear := true } }

/-- The strand is eligible (R317): a word that takes a trap of R27 does not issue. -/
def eligible (s : State) (t k : Nat) : Bool :=
  let st := s.strand t k
  canAttempt st &&
    if st.returning then canReturn s t k
    else
      match nextVerdict s t k with
      | .go _ => true
      | _ => false

/-- The strand's next word takes a trap of R27, at the boundary before it (R348 item 4). -/
def wordTraps (s : State) (t k : Nat) : Bool :=
  let st := s.strand t k
  canAttempt st && !st.returning && match nextVerdict s t k with
    | .trap _ _ => entryReady s t k
    | _ => false

/-! ## The choice (R318, R319) -/

/-- Rank of a strand's class: lower is better. -/
def classOfStrand (st : Strand) : Nat := if st.yielded then 3 else if st.sup then 0 else if st.prio then 1 else 2

/-- The member with the least value, the lowest slot of a tie. -/
def leastBy (f : Nat → Nat) (ks : List Nat) : Option Nat :=
  ks.foldl (fun b k => match b with
    | none => some k
    | some c => if f k < f c then some k else some c) none

/-- The address and bank that the members of a train share: those of a strand's next issue (R34, R319). -/
abbrev TrainKey := BitVec 24 × BitVec 8

def State.trainKey (s : State) (t k : Nat) : TrainKey :=
  let st := s.atIssue t (s.strand t k)
  (st.ia, st.tbank)

/-- The member that has waited longest, the lowest slot of a tie (R318). -/
def longest (x : Tile) (ks : List Nat) : Option Nat :=
  ks.foldl (fun b k => match b with
    | none => some k
    | some c => if (x.strand c).wait < (x.strand k).wait then some k else some c) none

/-- The strands that join a train of strand k, by LAST, then slot; key gives each strand's address and bank. -/
def trainOf (x : Tile) (key : Nat → TrainKey) (ks : List Nat) (c k : Nat) : List Nat :=
  ((ks.filter fun j => j != k && classOfStrand (x.strand j) == c && key j == key k)).mergeSort
    fun a b => decide ((x.strand a).last < (x.strand b).last ∨ (x.strand a).last = (x.strand b).last ∧ a ≤ b)

/-- A train: the members still to issue, and the address and bank of its word (R319). -/
abbrev Train := List Nat × TrainKey

/-- A train without the strands a test picks. -/
def Train.without (f : Nat → Bool) (tr : Train) : Train := (tr.1.filter fun j => !f j, tr.2)

/-- The trains as their members stand: those that ceased to be eligible, or whose address no longer matches, have left,
and a train without members has ended (R319). -/
def trainsNow (x : Tile) (key : Nat → TrainKey) (ks : List Nat) : List Train :=
  (x.trains.map fun tr => Train.without (fun j => !(ks.contains j && key j == tr.2)) tr).filter fun tr =>
    !tr.1.isEmpty

/-- The trains after a strand and the members of its new train have left theirs. -/
def trainsOff (ts : List Train) (gone : List Nat) : List Train :=
  (ts.map (Train.without fun j => gone.contains j)).filter fun tr => !tr.1.isEmpty

/-- A choice: the strand, the trains that are left, whether one was formed, and whether the strand follows in one. -/
structure Choice where
  k : Nat
  trains : List Train
  formed : Bool
  fused : Bool
deriving DecidableEq, Repr

/-- The pick by LAST in class c: the other strands of the class at its address and bank join it in a train (R319). -/
def pickLast (x : Tile) (key : Nat → TrainKey) (ks : List Nat) (ts : List Train) (c : Nat) : Option Choice :=
  (leastBy (fun k => (x.strand k).last) (ks.filter fun k => classOfStrand (x.strand k) == c)).map fun k =>
    let tr := trainOf x key ks c k
    { k := k, trains := trainsOff ts (k :: tr) ++ (if tr.isEmpty then [] else [(tr, key k)])
      formed := !tr.isEmpty, fused := false }

/-- The choice among eligible strands (R318, R319). -/
def chooseStrand (x : Tile) (key : Nat → TrainKey) (ks : List Nat) : Option Choice :=
  let ts := trainsNow x key ks
  match longest x (ks.filter fun k => decide (16 ≤ (x.strand k).wait)) with
  | some k => some { k := k, trains := trainsOff ts [k], formed := false, fused := false }
  | none =>
    match leastBy (fun k => classOfStrand (x.strand k)) ks with
    | none => none
    | some b =>
      let c := classOfStrand (x.strand b)
      match ts.findSome? fun tr => tr.1.head?.filter fun m => classOfStrand (x.strand m) == c with
      | some m => some { k := m, trains := trainsOff ts [m], formed := false, fused := true }
      | none => pickLast x key ks ts c

/-- WAIT of every strand after a choice; the issue of the chosen strand takes its own back to 0 (R318). -/
def countWaits (x : Tile) (ks : List Nat) : Map Strand :=
  x.strands.map fun e => (e.1, { e.2 with wait := if ks.contains e.1 then e.2.wait + 1 else 0 })

/-- A cycle in which no strand is eligible: idle, and ballast where BAL is set (R370, R390). -/
def idleCycle (s : State) (t : Nat) : State :=
  let x := s.tile t
  lostCycle (s.setTile t { x with counters := bump x.counters 3 x.bal.toNat, trains := [], strands := countWaits x [] }) t

/-- The choice takes effect: counters, trains, WAIT and the turn. -/
def giveTurn (s : State) (t : Nat) (ks : List Nat) (c : Choice) : State :=
  let x := s.tile t
  { (s.setTile t { x with
      counters := bump x.counters 0 c.formed.toNat, trains := c.trains, fusing := c.fused
      strands := countWaits x ks }) with
    turn := some (t, c.k) }

/-- ISSUE_CHOICE: each cycle the tile ends the strands whose last word is done and attempts every strand's next word. A strand
whose word traps takes its trap, which is no issue (R27); then the turn goes to the strand of R318. A paused tile's clock
stands (R373, R377). -/
def execIssueChoice (t : Nat) (s : State) : Out :=
  if s.turn.isSome ∨ s.pausedAt t then .next s
  else if (s.tile t).stopped then .next (idleCycle s t)
  else
    let s := slots.foldl (fun s k => attempt (leave s t k) t k) s
    match slots.find? (wordTraps s t) with
    | some k => .next { s with turn := some (t, k) }
    | none =>
      let ks := slots.filter (eligible s t)
      match chooseStrand (s.tile t) (s.trainKey t) ks with
      | none => .next (idleCycle s t)
      | some c => .next (giveTurn s t ks c)

/-! ## Replay (R354, R355) -/

/-- What a failed check can be of: the strand's next word, or the result of a copy or matrix command of the strand that
is running (R354). -/
inductive Checked where
  | word
  | copy (e : Nat) (c : CopyEnt)
  | mx (c : MxCmd)
deriving DecidableEq, Repr

/-- What of the strand a check can fail on now; a word that takes a trap of R27 is not executed. -/
def checkedOf (s : State) (t k : Nat) : List Checked :=
  let st := s.strand t k
  let x := s.tile t
  let ready := !x.stopped && canAttempt st && !st.returning && entryReady s t k && match nextVerdict s t k with
    | .go _ => true
    | _ => false
  (if ready then [.word] else [])
    ++ (x.copies.filter fun e => e.2.state == 2 && e.2.owner == k).map (fun e => .copy e.1 e.2)
    ++ (x.mxq.filter fun c => c.phase == 1 && !c.suspended && c.slot == k).map .mx

/-- The log entry of a failed check: a replay, or the fourth failure (R355). -/
def logFail (s : State) (t n : Nat) : State :=
  s.log t (if n < 3 then 2 else 3) 4 t 0 (Config.syndrome s.oracle)

/-- A check fails: what it was of is made again; a fourth failure takes 0x32 before the word has any effect, or suspends
the copy or command and reports it to its strand. -/
def failCheck (s : State) (t k : Nat) (c : Checked) : State :=
  let x := s.tile t
  let info := Config.openWord s.oracle
  match c with
  | .word =>
    let st := s.strand t k
    let s := logFail s t st.attempts
    if st.attempts < 3 then s.setStrand t k { st with attempts := st.attempts + 1 } else trapP (settle s t k) t k 0x32 info
  | .copy e c =>
    let s := logFail s t c.fails
    if c.fails < 3 then s.setTile t (x.setCopy e { c with fails := c.fails + 1 })
    else (s.setTile t (x.setCopy e { c with state := 3, fails := 0 })).report t k c.id 0x32 info
  | .mx c =>
    let s := logFail s t c.fails
    if c.fails < 3 then s.setTile t (x.mxSet { c with fails := c.fails + 1 })
    else (s.setTile t (x.mxSet { c with suspended := true, fails := 0 })).report t k c.id 0x32 info

/-- CHECK_FAIL: a check of the strand's fails: its next word's, or a running copy's or matrix command's of its own; which,
the manual leaves to the failure (R354, log entry 21). -/
def execCheckFail (t k : Nat) (s : State) : Out :=
  match (checkedOf s t k)[s.choice (checkedOf s t k).length]? with
  | some c => .next (failCheck s.tick t k c)
  | none => .next s

end Sys2Proof.Machine
end

