-- ==== Sys2Proof/Machine/Dispatch.lean ====
section
/-! DEFINITION. One arm per instruction. -/
namespace Sys2Proof.Machine

def exec (i : Instr) (s : State) : Host.Outcome State Fault Refusal :=
  match i with
  | .tParcel index nm1 g => Sys2Proof.Machine.execTParcel index nm1 g s
  | .repetition => Sys2Proof.Machine.execRepetition s
  | .iParcel chunk => Sys2Proof.Machine.execIParcel chunk s
  | .idle arg => Sys2Proof.Machine.execIdle arg s
  | .inline w => Sys2Proof.Machine.execInline w s
  | .bank n => Sys2Proof.Machine.execBank n s
  | .annulledIssue => Sys2Proof.Machine.execAnnulledIssue s
  | .issueChoice t => Sys2Proof.Machine.execIssueChoice t s
  | .resultDelivery t k u => Sys2Proof.Machine.execResultDelivery t k u s
  | .checkFail t k => Sys2Proof.Machine.execCheckFail t k s
  | .overlayLoaded t => Sys2Proof.Machine.execOverlayLoaded t s
  | .divideDeliver t => Sys2Proof.Machine.execDivideDeliver t s
  | .expansionStep t k => Sys2Proof.Machine.execExpansionStep t k s
  | .blkStep t k => Sys2Proof.Machine.execBlkStep t k s
  | .translationRequest p => Sys2Proof.Machine.execTranslationRequest p s
  | .pageWalkDone w => Sys2Proof.Machine.execPageWalkDone w s
  | .l2Access p => Sys2Proof.Machine.execL2Access p s
  | .sorusPoolAccess p => Sys2Proof.Machine.execSorusPoolAccess p s
  | .wrsTimeout t k => Sys2Proof.Machine.execWrsTimeout t k s
  | .lockedReservationExpire t g => Sys2Proof.Machine.execLockedReservationExpire t g s
  | .atomicPerform p => Sys2Proof.Machine.execAtomicPerform p s
  | .scWindowPerform t => Sys2Proof.Machine.execScWindowPerform t s
  | .semWaitTimeout t k => Sys2Proof.Machine.execSemWaitTimeout t k s
  | .semSignalArrive p => Sys2Proof.Machine.execSemSignalArrive p s
  | .handlerStart t => Sys2Proof.Machine.execHandlerStart t s
  | .netPiece t n => Sys2Proof.Machine.execNetPiece t n s
  | .messageArrive p => Sys2Proof.Machine.execMessageArrive p s
  | .migrationArrive p => Sys2Proof.Machine.execMigrationArrive p s
  | .migrationRefused p => Sys2Proof.Machine.execMigrationRefused p s
  | .ipiArrive p => Sys2Proof.Machine.execIpiArrive p s
  | .barrierReport p => Sys2Proof.Machine.execBarrierReport p s
  | .barrierRelease p => Sys2Proof.Machine.execBarrierRelease p s
  | .barrierReleaseDelayed t b => Sys2Proof.Machine.execBarrierReleaseDelayed t b s
  | .channelLineArrive p => Sys2Proof.Machine.execChannelLineArrive p s
  | .creditArrive p => Sys2Proof.Machine.execCreditArrive p s
  | .streamLineArrive p => Sys2Proof.Machine.execStreamLineArrive p s
  | .mergeRecord t e => Sys2Proof.Machine.execMergeRecord t e s
  | .streamOutput t e => Sys2Proof.Machine.execStreamOutput t e s
  | .scaleupFrame f => Sys2Proof.Machine.execScaleupFrame f s
  | .copyPiece t e => Sys2Proof.Machine.execCopyPiece t e s
  | .copyRecordPost t e => Sys2Proof.Machine.execCopyRecordPost t e s
  | .mxNop t => Sys2Proof.Machine.execMxNop t s
  | .mxClaim t => Sys2Proof.Machine.execMxClaim t s
  | .mxRelease t => Sys2Proof.Machine.execMxRelease t s
  | .mxLoad t => Sys2Proof.Machine.execMxLoad t s
  | .mxScale t => Sys2Proof.Machine.execMxScale t s
  | .mxMma t => Sys2Proof.Machine.execMxMma t s
  | .mxMmat t => Sys2Proof.Machine.execMxMmat t s
  | .mxZero t => Sys2Proof.Machine.execMxZero t s
  | .mxStore t => Sys2Proof.Machine.execMxStore t s
  | .mxFence t => Sys2Proof.Machine.execMxFence t s
  | .mxComplete t => Sys2Proof.Machine.execMxComplete t s
  | .trapEntry t k => Sys2Proof.Machine.execTrapEntry t k s
  | .faultRecordPost t => Sys2Proof.Machine.execFaultRecordPost t s
  | .watchdog t k => Sys2Proof.Machine.execWatchdog t k s
  | .recover p => Sys2Proof.Machine.execRecover p s
  | .doorbell iod off size v => Sys2Proof.Machine.execDoorbell iod off size v s
  | .recordTake q => Sys2Proof.Machine.execRecordTake q s
  | .placement p => Sys2Proof.Machine.execPlacement p s
  | .controlStrandStart l => Sys2Proof.Machine.execControlStrandStart l s
  | .sorusComplete l o => Sys2Proof.Machine.execSorusComplete l o s
  | .launchComplete l => Sys2Proof.Machine.execLaunchComplete l s
  | .hostPoolWrite iod off d => Sys2Proof.Machine.execHostPoolWrite iod off d s
  | .hostPieceApply t => Sys2Proof.Machine.execHostPieceApply t s
  | .hostPoolRead iod off n => Sys2Proof.Machine.execHostPoolRead iod off n s
  | .hostHbmAccess a => Sys2Proof.Machine.execHostHbmAccess a s
  | .xlinvAll => Sys2Proof.Machine.execXlinvAll s
  | .xlinvCtx ctx => Sys2Proof.Machine.execXlinvCtx ctx s
  | .xlinvRange ctx => Sys2Proof.Machine.execXlinvRange ctx s
  | .xlinvComplete => Sys2Proof.Machine.execXlinvComplete s
  | .hipi v => Sys2Proof.Machine.execHipi v s
  | .deviceRegisterWrite host x v => Sys2Proof.Machine.execDeviceRegisterWrite host x v s
  | .gangSwitch p => Sys2Proof.Machine.execGangSwitch p s
  | .gangRestore p => Sys2Proof.Machine.execGangRestore p s
  | .gangCheckpoint p => Sys2Proof.Machine.execGangCheckpoint p s
  | .strandResume p lt slot => Sys2Proof.Machine.execStrandResume p lt slot s
  | .endPartition p => Sys2Proof.Machine.execEndPartition p s
  | .checkpointTimer p => Sys2Proof.Machine.execCheckpointTimer p s
  | .gangStop t => Sys2Proof.Machine.execGangStop t s
  | .gangSpill p => Sys2Proof.Machine.execGangSpill p s
  | .gangSave t => Sys2Proof.Machine.execGangSave t s
  | .gangOut p => Sys2Proof.Machine.execGangOut p s
  | .spillCapture p => Sys2Proof.Machine.execSpillCapture p s
  | .restoreStart p => Sys2Proof.Machine.execRestoreStart p s
  | .budgetRefill t => Sys2Proof.Machine.execBudgetRefill t s
  | .stipeUpdate n => Sys2Proof.Machine.execStipeUpdate n s
  | .diePowerMeasure d => Sys2Proof.Machine.execDiePowerMeasure d s
  | .powerStateDescend => Sys2Proof.Machine.execPowerStateDescend s
  | .powerWake => Sys2Proof.Machine.execPowerWake s
  | .hbmTempPoll => Sys2Proof.Machine.execHbmTempPoll s
  | .scrubVisit l => Sys2Proof.Machine.execScrubVisit l s
  | .linkDown iod link => Sys2Proof.Machine.execLinkDown iod link s
  | .chctlWrite st ch v => Sys2Proof.Machine.execChctlWrite st ch v s
  | .trainEffect st ch => Sys2Proof.Machine.execTrainEffect st ch s
  | .readTest st ch => Sys2Proof.Machine.execReadTest st ch s
  | .writeTest st ch => Sys2Proof.Machine.execWriteTest st ch s
  | .patternTestDone st ch => Sys2Proof.Machine.execPatternTestDone st ch s
  | .patternTestTimeout st ch => Sys2Proof.Machine.execPatternTestTimeout st ch s
  | .hmodeWrite st ch n v => Sys2Proof.Machine.execHmodeWrite st ch n v s
  | .deviceReset => Sys2Proof.Machine.execDeviceReset s
  | .recoveryImage image => Sys2Proof.Machine.execRecoveryImage image s
  | .getVersion body => Sys2Proof.Machine.execGetVersion body s
  | .getCapabilities body => Sys2Proof.Machine.execGetCapabilities body s
  | .negotiateAlgorithms body => Sys2Proof.Machine.execNegotiateAlgorithms body s
  | .getDigests body => Sys2Proof.Machine.execGetDigests body s
  | .getCertificate body => Sys2Proof.Machine.execGetCertificate body s
  | .challenge body => Sys2Proof.Machine.execChallenge body s
  | .getMeasurements body => Sys2Proof.Machine.execGetMeasurements body s
  | .configurationRequest iod req => Sys2Proof.Machine.execConfigurationRequest iod req s
  | .cuJmp v => Sys2Proof.Machine.execCuJmp v s
  | .cuBr v => Sys2Proof.Machine.execCuBr v s
  | .cuCall v => Sys2Proof.Machine.execCuCall v s
  | .cuRet v => Sys2Proof.Machine.execCuRet v s
  | .cuBrl g v => Sys2Proof.Machine.execCuBrl g v s
  | .cuBrk g v => Sys2Proof.Machine.execCuBrk g v s
  | .cuStart v => Sys2Proof.Machine.execCuStart v s
  | .cuHalt v => Sys2Proof.Machine.execCuHalt v s
  | .cuYield v => Sys2Proof.Machine.execCuYield v s
  | .cuMeet v => Sys2Proof.Machine.execCuMeet v s
  | .cuTrymeet v => Sys2Proof.Machine.execCuTrymeet v s
  | .cuTload v => Sys2Proof.Machine.execCuTload v s
  | .cuScall v => Sys2Proof.Machine.execCuScall v s
  | .cuBkpt v => Sys2Proof.Machine.execCuBkpt v s
  | .crfRd v => Sys2Proof.Machine.execCrfRd v s
  | .crfWr v => Sys2Proof.Machine.execCrfWr v s
  | .aluMov u v => Sys2Proof.Machine.execAluMov u v s
  | .aluAdd u v => Sys2Proof.Machine.execAluAdd u v s
  | .aluSub u v => Sys2Proof.Machine.execAluSub u v s
  | .aluAdds u v => Sys2Proof.Machine.execAluAdds u v s
  | .aluSubs u v => Sys2Proof.Machine.execAluSubs u v s
  | .aluAddus u v => Sys2Proof.Machine.execAluAddus u v s
  | .aluSubus u v => Sys2Proof.Machine.execAluSubus u v s
  | .aluAddw u v => Sys2Proof.Machine.execAluAddw u v s
  | .aluSubw u v => Sys2Proof.Machine.execAluSubw u v s
  | .aluNeg u v => Sys2Proof.Machine.execAluNeg u v s
  | .aluAbs u v => Sys2Proof.Machine.execAluAbs u v s
  | .aluMin u v => Sys2Proof.Machine.execAluMin u v s
  | .aluMax u v => Sys2Proof.Machine.execAluMax u v s
  | .aluMinu u v => Sys2Proof.Machine.execAluMinu u v s
  | .aluMaxu u v => Sys2Proof.Machine.execAluMaxu u v s
  | .aluAnd u v => Sys2Proof.Machine.execAluAnd u v s
  | .aluOr u v => Sys2Proof.Machine.execAluOr u v s
  | .aluXor u v => Sys2Proof.Machine.execAluXor u v s
  | .aluAndn u v => Sys2Proof.Machine.execAluAndn u v s
  | .aluOrn u v => Sys2Proof.Machine.execAluOrn u v s
  | .aluNot u v => Sys2Proof.Machine.execAluNot u v s
  | .aluShl u v => Sys2Proof.Machine.execAluShl u v s
  | .aluShr u v => Sys2Proof.Machine.execAluShr u v s
  | .aluSar u v => Sys2Proof.Machine.execAluSar u v s
  | .aluRol u v => Sys2Proof.Machine.execAluRol u v s
  | .aluRor u v => Sys2Proof.Machine.execAluRor u v s
  | .aluShlw u v => Sys2Proof.Machine.execAluShlw u v s
  | .aluShrw u v => Sys2Proof.Machine.execAluShrw u v s
  | .aluSarw u v => Sys2Proof.Machine.execAluSarw u v s
  | .aluEq u v => Sys2Proof.Machine.execAluEq u v s
  | .aluNe u v => Sys2Proof.Machine.execAluNe u v s
  | .aluLt u v => Sys2Proof.Machine.execAluLt u v s
  | .aluLe u v => Sys2Proof.Machine.execAluLe u v s
  | .aluLtu u v => Sys2Proof.Machine.execAluLtu u v s
  | .aluLeu u v => Sys2Proof.Machine.execAluLeu u v s
  | .aluClz u v => Sys2Proof.Machine.execAluClz u v s
  | .aluCtz u v => Sys2Proof.Machine.execAluCtz u v s
  | .aluPopc u v => Sys2Proof.Machine.execAluPopc u v s
  | .aluBswap u v => Sys2Proof.Machine.execAluBswap u v s
  | .aluSxb u v => Sys2Proof.Machine.execAluSxb u v s
  | .aluSxh u v => Sys2Proof.Machine.execAluSxh u v s
  | .aluSxw u v => Sys2Proof.Machine.execAluSxw u v s
  | .aluZxb u v => Sys2Proof.Machine.execAluZxb u v s
  | .aluZxh u v => Sys2Proof.Machine.execAluZxh u v s
  | .aluZxw u v => Sys2Proof.Machine.execAluZxw u v s
  | .aluExt u v => Sys2Proof.Machine.execAluExt u v s
  | .aluExtu u v => Sys2Proof.Machine.execAluExtu u v s
  | .aluIns u v => Sys2Proof.Machine.execAluIns u v s
  | .aluSel u v => Sys2Proof.Machine.execAluSel u v s
  | .aluLea u v => Sys2Proof.Machine.execAluLea u v s
  | .prdAnd v => Sys2Proof.Machine.execPrdAnd v s
  | .prdOr v => Sys2Proof.Machine.execPrdOr v s
  | .prdXor v => Sys2Proof.Machine.execPrdXor v s
  | .prdAndn v => Sys2Proof.Machine.execPrdAndn v s
  | .prdOrn v => Sys2Proof.Machine.execPrdOrn v s
  | .prdNot v => Sys2Proof.Machine.execPrdNot v s
  | .prdNz v => Sys2Proof.Machine.execPrdNz v s
  | .prdEz v => Sys2Proof.Machine.execPrdEz v s
  | .prdBit v => Sys2Proof.Machine.execPrdBit v s
  | .mduMul v => Sys2Proof.Machine.execMduMul v s
  | .mduMulh v => Sys2Proof.Machine.execMduMulh v s
  | .mduMulhu v => Sys2Proof.Machine.execMduMulhu v s
  | .mduMulhsu v => Sys2Proof.Machine.execMduMulhsu v s
  | .mduMulw v => Sys2Proof.Machine.execMduMulw v s
  | .mduMac v => Sys2Proof.Machine.execMduMac v s
  | .mduDiv v => Sys2Proof.Machine.execMduDiv v s
  | .mduDivu v => Sys2Proof.Machine.execMduDivu v s
  | .mduDivw v => Sys2Proof.Machine.execMduDivw v s
  | .mduDivuw v => Sys2Proof.Machine.execMduDivuw v s
  | .fpaAddd v => Sys2Proof.Machine.execFpaAddd v s
  | .fpaSubd v => Sys2Proof.Machine.execFpaSubd v s
  | .fpaMuld v => Sys2Proof.Machine.execFpaMuld v s
  | .fpaFmad v => Sys2Proof.Machine.execFpaFmad v s
  | .fpaFmsd v => Sys2Proof.Machine.execFpaFmsd v s
  | .fpaFnmad v => Sys2Proof.Machine.execFpaFnmad v s
  | .fpaDivd v => Sys2Proof.Machine.execFpaDivd v s
  | .fpaSqrtd v => Sys2Proof.Machine.execFpaSqrtd v s
  | .fpaMind v => Sys2Proof.Machine.execFpaMind v s
  | .fpaMaxd v => Sys2Proof.Machine.execFpaMaxd v s
  | .fpaAbsd v => Sys2Proof.Machine.execFpaAbsd v s
  | .fpaNegd v => Sys2Proof.Machine.execFpaNegd v s
  | .fpaCeqd v => Sys2Proof.Machine.execFpaCeqd v s
  | .fpaCltd v => Sys2Proof.Machine.execFpaCltd v s
  | .fpaCled v => Sys2Proof.Machine.execFpaCled v s
  | .fpaCund v => Sys2Proof.Machine.execFpaCund v s
  | .fpaClassd v => Sys2Proof.Machine.execFpaClassd v s
  | .fpaRintd v => Sys2Proof.Machine.execFpaRintd v s
  | .fpaAddf v => Sys2Proof.Machine.execFpaAddf v s
  | .fpaSubf v => Sys2Proof.Machine.execFpaSubf v s
  | .fpaMulf v => Sys2Proof.Machine.execFpaMulf v s
  | .fpaFmaf v => Sys2Proof.Machine.execFpaFmaf v s
  | .fpaMinf v => Sys2Proof.Machine.execFpaMinf v s
  | .fpaMaxf v => Sys2Proof.Machine.execFpaMaxf v s
  | .fpaCeqf v => Sys2Proof.Machine.execFpaCeqf v s
  | .fpaCltf v => Sys2Proof.Machine.execFpaCltf v s
  | .fpaClef v => Sys2Proof.Machine.execFpaClef v s
  | .fpaCvtfd v => Sys2Proof.Machine.execFpaCvtfd v s
  | .fpaCvtdf v => Sys2Proof.Machine.execFpaCvtdf v s
  | .fpaCvtdl v => Sys2Proof.Machine.execFpaCvtdl v s
  | .fpaCvtld v => Sys2Proof.Machine.execFpaCvtld v s
  | .fpaCvtdlu v => Sys2Proof.Machine.execFpaCvtdlu v s
  | .fpaCvtlud v => Sys2Proof.Machine.execFpaCvtlud v s
  | .fpaCvtfw v => Sys2Proof.Machine.execFpaCvtfw v s
  | .fpaCvtwf v => Sys2Proof.Machine.execFpaCvtwf v s
  | .fpaCvtdh v => Sys2Proof.Machine.execFpaCvtdh v s
  | .fpaCvthd v => Sys2Proof.Machine.execFpaCvthd v s
  | .fpaCvtdb v => Sys2Proof.Machine.execFpaCvtdb v s
  | .fpaCvtbd v => Sys2Proof.Machine.execFpaCvtbd v s
  | .sfuRcp v => Sys2Proof.Machine.execSfuRcp v s
  | .sfuRsqrt v => Sys2Proof.Machine.execSfuRsqrt v s
  | .sfuSqrt v => Sys2Proof.Machine.execSfuSqrt v s
  | .sfuExp2 v => Sys2Proof.Machine.execSfuExp2 v s
  | .sfuExp v => Sys2Proof.Machine.execSfuExp v s
  | .sfuLog2 v => Sys2Proof.Machine.execSfuLog2 v s
  | .sfuLn v => Sys2Proof.Machine.execSfuLn v s
  | .sfuSinpi v => Sys2Proof.Machine.execSfuSinpi v s
  | .sfuCospi v => Sys2Proof.Machine.execSfuCospi v s
  | .sfuTanh v => Sys2Proof.Machine.execSfuTanh v s
  | .sfuSigm v => Sys2Proof.Machine.execSfuSigm v s
  | .sfuGelu v => Sys2Proof.Machine.execSfuGelu v s
  | .sfuSilu v => Sys2Proof.Machine.execSfuSilu v s
  | .sfuErf v => Sys2Proof.Machine.execSfuErf v s
  | .lsuLdb v => Sys2Proof.Machine.execLsuLdb v s
  | .lsuLdbu v => Sys2Proof.Machine.execLsuLdbu v s
  | .lsuLdh v => Sys2Proof.Machine.execLsuLdh v s
  | .lsuLdhu v => Sys2Proof.Machine.execLsuLdhu v s
  | .lsuLdw v => Sys2Proof.Machine.execLsuLdw v s
  | .lsuLdwu v => Sys2Proof.Machine.execLsuLdwu v s
  | .lsuLdd v => Sys2Proof.Machine.execLsuLdd v s
  | .lsuLdl v => Sys2Proof.Machine.execLsuLdl v s
  | .lsuStb v => Sys2Proof.Machine.execLsuStb v s
  | .lsuSth v => Sys2Proof.Machine.execLsuSth v s
  | .lsuStw v => Sys2Proof.Machine.execLsuStw v s
  | .lsuStd v => Sys2Proof.Machine.execLsuStd v s
  | .lsuStl v => Sys2Proof.Machine.execLsuStl v s
  | .lsuLdacq v => Sys2Proof.Machine.execLsuLdacq v s
  | .lsuStrel v => Sys2Proof.Machine.execLsuStrel v s
  | .lsuFence v => Sys2Proof.Machine.execLsuFence v s
  | .lsuPf v => Sys2Proof.Machine.execLsuPf v s
  | .lsuBlk v => Sys2Proof.Machine.execLsuBlk v s
  | .atmAddw v => Sys2Proof.Machine.execAtmAddw v s
  | .atmAddd v => Sys2Proof.Machine.execAtmAddd v s
  | .atmAddf v => Sys2Proof.Machine.execAtmAddf v s
  | .atmMinw v => Sys2Proof.Machine.execAtmMinw v s
  | .atmMind v => Sys2Proof.Machine.execAtmMind v s
  | .atmMinuw v => Sys2Proof.Machine.execAtmMinuw v s
  | .atmMinud v => Sys2Proof.Machine.execAtmMinud v s
  | .atmMaxw v => Sys2Proof.Machine.execAtmMaxw v s
  | .atmMaxd v => Sys2Proof.Machine.execAtmMaxd v s
  | .atmMaxuw v => Sys2Proof.Machine.execAtmMaxuw v s
  | .atmMaxud v => Sys2Proof.Machine.execAtmMaxud v s
  | .atmAndw v => Sys2Proof.Machine.execAtmAndw v s
  | .atmAndd v => Sys2Proof.Machine.execAtmAndd v s
  | .atmOrw v => Sys2Proof.Machine.execAtmOrw v s
  | .atmOrd v => Sys2Proof.Machine.execAtmOrd v s
  | .atmXorw v => Sys2Proof.Machine.execAtmXorw v s
  | .atmXord v => Sys2Proof.Machine.execAtmXord v s
  | .atmSwpw v => Sys2Proof.Machine.execAtmSwpw v s
  | .atmSwpd v => Sys2Proof.Machine.execAtmSwpd v s
  | .atmCasw v => Sys2Proof.Machine.execAtmCasw v s
  | .atmCasd v => Sys2Proof.Machine.execAtmCasd v s
  | .atmLrw v => Sys2Proof.Machine.execAtmLrw v s
  | .atmLrd v => Sys2Proof.Machine.execAtmLrd v s
  | .atmScw v => Sys2Proof.Machine.execAtmScw v s
  | .atmScd v => Sys2Proof.Machine.execAtmScd v s
  | .atmWrs v => Sys2Proof.Machine.execAtmWrs v s
  | .semSig v => Sys2Proof.Machine.execSemSig v s
  | .semWait v => Sys2Proof.Machine.execSemWait v s
  | .semTrywait v => Sys2Proof.Machine.execSemTrywait v s
  | .semRd v => Sys2Proof.Machine.execSemRd v s
  | .semSet v => Sys2Proof.Machine.execSemSet v s
  | .semArm v => Sys2Proof.Machine.execSemArm v s
  | .semDisarm v => Sys2Proof.Machine.execSemDisarm v s
  | .netPut v => Sys2Proof.Machine.execNetPut v s
  | .netGet v => Sys2Proof.Machine.execNetGet v s
  | .netSend v => Sys2Proof.Machine.execNetSend v s
  | .netRecv v => Sys2Proof.Machine.execNetRecv v s
  | .netTryrecv v => Sys2Proof.Machine.execNetTryrecv v s
  | .netGo v => Sys2Proof.Machine.execNetGo v s
  | .netIpi v => Sys2Proof.Machine.execNetIpi v s
  | .netArrive v => Sys2Proof.Machine.execNetArrive v s
  | .netBarwait v => Sys2Proof.Machine.execNetBarwait v s
  | .netTrybarwait v => Sys2Proof.Machine.execNetTrybarwait v s
  | .chSend v => Sys2Proof.Machine.execChSend v s
  | .chFree v => Sys2Proof.Machine.execChFree v s
  | .chConf v => Sys2Proof.Machine.execChConf v s
  | .stConf v => Sys2Proof.Machine.execStConf v s
  | .chQuery v => Sys2Proof.Machine.execChQuery v s
  | .dmaCopy v => Sys2Proof.Machine.execDmaCopy v s
  | .dmaBind v => Sys2Proof.Machine.execDmaBind v s
  | .dmaUnbind v => Sys2Proof.Machine.execDmaUnbind v s
  | .dmaQuery v => Sys2Proof.Machine.execDmaQuery v s
  | .dmaAbort v => Sys2Proof.Machine.execDmaAbort v s
  | .stkW k v => Sys2Proof.Machine.execStkW k v s
  | .vecShape v => Sys2Proof.Machine.execVecShape v s
  | .vecRel v => Sys2Proof.Machine.execVecRel v s
  | .vecEdge v => Sys2Proof.Machine.execVecEdge v s
  | .vecLd v => Sys2Proof.Machine.execVecLd v s
  | .vecSt v => Sys2Proof.Machine.execVecSt v s
  | .vecGath v => Sys2Proof.Machine.execVecGath v s
  | .vecScat v => Sys2Proof.Machine.execVecScat v s
  | .vecAdd v => Sys2Proof.Machine.execVecAdd v s
  | .vecSub v => Sys2Proof.Machine.execVecSub v s
  | .vecMul v => Sys2Proof.Machine.execVecMul v s
  | .vecFma v => Sys2Proof.Machine.execVecFma v s
  | .vecFms v => Sys2Proof.Machine.execVecFms v s
  | .vecFnma v => Sys2Proof.Machine.execVecFnma v s
  | .vecMin v => Sys2Proof.Machine.execVecMin v s
  | .vecMax v => Sys2Proof.Machine.execVecMax v s
  | .vecAbs v => Sys2Proof.Machine.execVecAbs v s
  | .vecNeg v => Sys2Proof.Machine.execVecNeg v s
  | .vecAnd v => Sys2Proof.Machine.execVecAnd v s
  | .vecOr v => Sys2Proof.Machine.execVecOr v s
  | .vecXor v => Sys2Proof.Machine.execVecXor v s
  | .vecShl v => Sys2Proof.Machine.execVecShl v s
  | .vecShr v => Sys2Proof.Machine.execVecShr v s
  | .vecSar v => Sys2Proof.Machine.execVecSar v s
  | .vecCeq v => Sys2Proof.Machine.execVecCeq v s
  | .vecCne v => Sys2Proof.Machine.execVecCne v s
  | .vecClt v => Sys2Proof.Machine.execVecClt v s
  | .vecCle v => Sys2Proof.Machine.execVecCle v s
  | .vecSel v => Sys2Proof.Machine.execVecSel v s
  | .vecCvt v => Sys2Proof.Machine.execVecCvt v s
  | .vecCvtsr v => Sys2Proof.Machine.execVecCvtsr v s
  | .vecBcrow v => Sys2Proof.Machine.execVecBcrow v s
  | .vecBccol v => Sys2Proof.Machine.execVecBccol v s
  | .vecBcs v => Sys2Proof.Machine.execVecBcs v s
  | .vecRsum v => Sys2Proof.Machine.execVecRsum v s
  | .vecRmax v => Sys2Proof.Machine.execVecRmax v s
  | .vecRmin v => Sys2Proof.Machine.execVecRmin v s
  | .vecRcp v => Sys2Proof.Machine.execVecRcp v s
  | .vecRsqrt v => Sys2Proof.Machine.execVecRsqrt v s
  | .vecExp2 v => Sys2Proof.Machine.execVecExp2 v s
  | .vecMov v => Sys2Proof.Machine.execVecMov v s
  | .vecTocr v => Sys2Proof.Machine.execVecTocr v s
  | .vecFromcr v => Sys2Proof.Machine.execVecFromcr v s
  | .vecAdds v => Sys2Proof.Machine.execVecAdds v s
  | .vecSubs v => Sys2Proof.Machine.execVecSubs v s
  | .vecClamp v => Sys2Proof.Machine.execVecClamp v s
  | .vecIota v => Sys2Proof.Machine.execVecIota v s
  | .vecMskand v => Sys2Proof.Machine.execVecMskand v s
  | .vecMskor v => Sys2Proof.Machine.execVecMskor v s
  | .vecMsknot v => Sys2Proof.Machine.execVecMsknot v s
  | .vecRotr v => Sys2Proof.Machine.execVecRotr v s
  | .sysEret v => Sys2Proof.Machine.execSysEret v s
  | .sysRdsr v => Sys2Proof.Machine.execSysRdsr v s
  | .sysWrsr v => Sys2Proof.Machine.execSysWrsr v s
  | .sysXrd v => Sys2Proof.Machine.execSysXrd v s
  | .sysXwr v => Sys2Proof.Machine.execSysXwr v s

end Sys2Proof.Machine
end

