-- ==== Sys2Proof/WellFormed.lean ====
section
/-! DEFINITION. Which instruction terms the machine accepts. A move's value, a parcel's fields and a configuration line are
bit vectors, so every such term is well formed; an event must name a place the device has. -/
namespace Sys2Proof.Instr

/-- A TILEID: 14 bits (R122). -/
def isTile (t : Nat) : Bool := decide (t < 16384)

/-- A strand slot (R311). -/
def isSlot (k : Nat) : Bool := decide (k < 16)

/-- A partition (R356). -/
def isPart (p : Nat) : Bool := decide (p < 288)

/-- An I/O die (R1). -/
def isIod (d : Nat) : Bool := decide (d < 2)

/-- A stipe: 150 to a die, numbered die × 150 + band × 25 + column (R1, R367). -/
def isStipe (i : Nat) : Bool := decide (i < 1200)

/-- A channel of an HBM stack (R5). -/
def isChan (st ch : Nat) : Bool := decide (st < 16 ∧ ch < 32)

/-- A PCIe write payload (R391). -/
def isPayload (d : List Byte) : Bool := decide (0 < d.length ∧ d.length ≤ 512)

/-- A scale-up frame of a known kind, with a whole line or piece (R284, R393). -/
def isFrame (f : Frame) : Bool :=
  decide (1 ≤ f.kind ∧ f.kind ≤ 4) && decide (f.destEnt < 64) && decide (f.data.length ≤ 64)

/-- A place scrub visits: a pool word, an operand or scale memory word, an entry of the
table store, a word of a die L2, an HBM line (R382). -/
def isScrub (l : ScrubLoc) : Bool :=
  match l with
  | .pool t off => isTile t && decide (off < 0x100000 ∧ off % 8 = 0)
  | .opmem t off => isTile t && decide (off < 0x20000 ∧ off % 8 = 0)
  | .scale t off => isTile t && decide (off < 0x2000 ∧ off % 8 = 0)
  | .table t i => isTile t && decide (i < 512)
  | .reg _ _ _ | .sem _ _ | .inbox _ _ | .parcel _ _ => false
  | .l2 pa => decide (pa < 2 ^ 40 ∧ pa % 8 = 0)
  | .hbm pa => decide (pa < 2 ^ 40 ∧ pa % 64 = 0)

/-- The check. -/
def wf (i : Instr) : Bool :=
  match i with
  | .tParcel _ _ _ => true
  | .repetition => true
  | .iParcel _ => true
  | .idle _ => true
  | .inline _ => true
  | .bank _ => true
  | .annulledIssue => true
  | .issueChoice t => isTile t
  | .resultDelivery t k _ => isTile t && isSlot k
  | .checkFail t k => isTile t && isSlot k
  | .cuJmp _ => true
  | .cuBr _ => true
  | .cuCall _ => true
  | .cuRet _ => true
  | .cuBrl _ _ => true
  | .cuBrk _ _ => true
  | .cuStart _ => true
  | .cuHalt _ => true
  | .cuYield _ => true
  | .cuMeet _ => true
  | .cuTrymeet _ => true
  | .cuTload _ => true
  | .overlayLoaded t => isTile t
  | .cuScall _ => true
  | .cuBkpt _ => true
  | .crfRd _ => true
  | .crfWr _ => true
  | .aluMov _ _ => true
  | .aluAdd _ _ => true
  | .aluSub _ _ => true
  | .aluAdds _ _ => true
  | .aluSubs _ _ => true
  | .aluAddus _ _ => true
  | .aluSubus _ _ => true
  | .aluAddw _ _ => true
  | .aluSubw _ _ => true
  | .aluNeg _ _ => true
  | .aluAbs _ _ => true
  | .aluMin _ _ => true
  | .aluMax _ _ => true
  | .aluMinu _ _ => true
  | .aluMaxu _ _ => true
  | .aluAnd _ _ => true
  | .aluOr _ _ => true
  | .aluXor _ _ => true
  | .aluAndn _ _ => true
  | .aluOrn _ _ => true
  | .aluNot _ _ => true
  | .aluShl _ _ => true
  | .aluShr _ _ => true
  | .aluSar _ _ => true
  | .aluRol _ _ => true
  | .aluRor _ _ => true
  | .aluShlw _ _ => true
  | .aluShrw _ _ => true
  | .aluSarw _ _ => true
  | .aluEq _ _ => true
  | .aluNe _ _ => true
  | .aluLt _ _ => true
  | .aluLe _ _ => true
  | .aluLtu _ _ => true
  | .aluLeu _ _ => true
  | .aluClz _ _ => true
  | .aluCtz _ _ => true
  | .aluPopc _ _ => true
  | .aluBswap _ _ => true
  | .aluSxb _ _ => true
  | .aluSxh _ _ => true
  | .aluSxw _ _ => true
  | .aluZxb _ _ => true
  | .aluZxh _ _ => true
  | .aluZxw _ _ => true
  | .aluExt _ _ => true
  | .aluExtu _ _ => true
  | .aluIns _ _ => true
  | .aluSel _ _ => true
  | .aluLea _ _ => true
  | .prdAnd _ => true
  | .prdOr _ => true
  | .prdXor _ => true
  | .prdAndn _ => true
  | .prdOrn _ => true
  | .prdNot _ => true
  | .prdNz _ => true
  | .prdEz _ => true
  | .prdBit _ => true
  | .mduMul _ => true
  | .mduMulh _ => true
  | .mduMulhu _ => true
  | .mduMulhsu _ => true
  | .mduMulw _ => true
  | .mduMac _ => true
  | .mduDiv _ => true
  | .mduDivu _ => true
  | .mduDivw _ => true
  | .mduDivuw _ => true
  | .divideDeliver t => isTile t
  | .fpaAddd _ => true
  | .fpaSubd _ => true
  | .fpaMuld _ => true
  | .fpaFmad _ => true
  | .fpaFmsd _ => true
  | .fpaFnmad _ => true
  | .fpaDivd _ => true
  | .fpaSqrtd _ => true
  | .expansionStep t k => isTile t && isSlot k
  | .fpaMind _ => true
  | .fpaMaxd _ => true
  | .fpaAbsd _ => true
  | .fpaNegd _ => true
  | .fpaCeqd _ => true
  | .fpaCltd _ => true
  | .fpaCled _ => true
  | .fpaCund _ => true
  | .fpaClassd _ => true
  | .fpaRintd _ => true
  | .fpaAddf _ => true
  | .fpaSubf _ => true
  | .fpaMulf _ => true
  | .fpaFmaf _ => true
  | .fpaMinf _ => true
  | .fpaMaxf _ => true
  | .fpaCeqf _ => true
  | .fpaCltf _ => true
  | .fpaClef _ => true
  | .fpaCvtfd _ => true
  | .fpaCvtdf _ => true
  | .fpaCvtdl _ => true
  | .fpaCvtld _ => true
  | .fpaCvtdlu _ => true
  | .fpaCvtlud _ => true
  | .fpaCvtfw _ => true
  | .fpaCvtwf _ => true
  | .fpaCvtdh _ => true
  | .fpaCvthd _ => true
  | .fpaCvtdb _ => true
  | .fpaCvtbd _ => true
  | .sfuRcp _ => true
  | .sfuRsqrt _ => true
  | .sfuSqrt _ => true
  | .sfuExp2 _ => true
  | .sfuExp _ => true
  | .sfuLog2 _ => true
  | .sfuLn _ => true
  | .sfuSinpi _ => true
  | .sfuCospi _ => true
  | .sfuTanh _ => true
  | .sfuSigm _ => true
  | .sfuGelu _ => true
  | .sfuSilu _ => true
  | .sfuErf _ => true
  | .lsuLdb _ => true
  | .lsuLdbu _ => true
  | .lsuLdh _ => true
  | .lsuLdhu _ => true
  | .lsuLdw _ => true
  | .lsuLdwu _ => true
  | .lsuLdd _ => true
  | .lsuLdl _ => true
  | .lsuStb _ => true
  | .lsuSth _ => true
  | .lsuStw _ => true
  | .lsuStd _ => true
  | .lsuStl _ => true
  | .lsuLdacq _ => true
  | .lsuStrel _ => true
  | .lsuFence _ => true
  | .lsuPf _ => true
  | .lsuBlk _ => true
  | .blkStep t k => isTile t && isSlot k
  | .translationRequest _ => true
  | .pageWalkDone _ => true
  | .l2Access _ => true
  | .sorusPoolAccess _ => true
  | .atmAddw _ => true
  | .atmAddd _ => true
  | .atmAddf _ => true
  | .atmMinw _ => true
  | .atmMind _ => true
  | .atmMinuw _ => true
  | .atmMinud _ => true
  | .atmMaxw _ => true
  | .atmMaxd _ => true
  | .atmMaxuw _ => true
  | .atmMaxud _ => true
  | .atmAndw _ => true
  | .atmAndd _ => true
  | .atmOrw _ => true
  | .atmOrd _ => true
  | .atmXorw _ => true
  | .atmXord _ => true
  | .atmSwpw _ => true
  | .atmSwpd _ => true
  | .atmCasw _ => true
  | .atmCasd _ => true
  | .atmLrw _ => true
  | .atmLrd _ => true
  | .atmScw _ => true
  | .atmScd _ => true
  | .atmWrs _ => true
  | .wrsTimeout t k => isTile t && isSlot k
  | .lockedReservationExpire t g => isTile t && decide (g < 16384)
  | .atomicPerform _ => true
  | .scWindowPerform t => isTile t
  | .semSig _ => true
  | .semWait _ => true
  | .semWaitTimeout t k => isTile t && isSlot k
  | .semTrywait _ => true
  | .semRd _ => true
  | .semSet _ => true
  | .semArm _ => true
  | .semDisarm _ => true
  | .semSignalArrive _ => true
  | .handlerStart t => isTile t
  | .netPut _ => true
  | .netGet _ => true
  | .netPiece t _ => isTile t
  | .netSend _ => true
  | .messageArrive _ => true
  | .netRecv _ => true
  | .netTryrecv _ => true
  | .netGo _ => true
  | .migrationArrive _ => true
  | .migrationRefused _ => true
  | .netIpi _ => true
  | .ipiArrive _ => true
  | .netArrive _ => true
  | .netBarwait _ => true
  | .netTrybarwait _ => true
  | .barrierReport _ => true
  | .barrierRelease _ => true
  | .barrierReleaseDelayed t b => isTile t && decide (b < 16)
  | .chSend _ => true
  | .chFree _ => true
  | .chConf _ => true
  | .stConf _ => true
  | .chQuery _ => true
  | .channelLineArrive _ => true
  | .creditArrive _ => true
  | .streamLineArrive _ => true
  | .mergeRecord t e => isTile t && decide (e < 64)
  | .streamOutput t e => isTile t && decide (e < 64)
  | .scaleupFrame f => isFrame f
  | .dmaCopy _ => true
  | .dmaBind _ => true
  | .dmaUnbind _ => true
  | .dmaQuery _ => true
  | .dmaAbort _ => true
  | .stkW _ _ => true
  | .copyPiece t e => isTile t && decide (e < 32)
  | .copyRecordPost t e => isTile t && decide (e < 32)
  | .vecShape _ => true
  | .vecRel _ => true
  | .vecEdge _ => true
  | .vecLd _ => true
  | .vecSt _ => true
  | .vecGath _ => true
  | .vecScat _ => true
  | .vecAdd _ => true
  | .vecSub _ => true
  | .vecMul _ => true
  | .vecFma _ => true
  | .vecFms _ => true
  | .vecFnma _ => true
  | .vecMin _ => true
  | .vecMax _ => true
  | .vecAbs _ => true
  | .vecNeg _ => true
  | .vecAnd _ => true
  | .vecOr _ => true
  | .vecXor _ => true
  | .vecShl _ => true
  | .vecShr _ => true
  | .vecSar _ => true
  | .vecCeq _ => true
  | .vecCne _ => true
  | .vecClt _ => true
  | .vecCle _ => true
  | .vecSel _ => true
  | .vecCvt _ => true
  | .vecCvtsr _ => true
  | .vecBcrow _ => true
  | .vecBccol _ => true
  | .vecBcs _ => true
  | .vecRsum _ => true
  | .vecRmax _ => true
  | .vecRmin _ => true
  | .vecRcp _ => true
  | .vecRsqrt _ => true
  | .vecExp2 _ => true
  | .vecMov _ => true
  | .vecTocr _ => true
  | .vecFromcr _ => true
  | .vecAdds _ => true
  | .vecSubs _ => true
  | .vecClamp _ => true
  | .vecIota _ => true
  | .vecMskand _ => true
  | .vecMskor _ => true
  | .vecMsknot _ => true
  | .vecRotr _ => true
  | .sysEret _ => true
  | .sysRdsr _ => true
  | .sysWrsr _ => true
  | .sysXrd _ => true
  | .sysXwr _ => true
  | .mxNop t => isTile t
  | .mxClaim t => isTile t
  | .mxRelease t => isTile t
  | .mxLoad t => isTile t
  | .mxScale t => isTile t
  | .mxMma t => isTile t
  | .mxMmat t => isTile t
  | .mxZero t => isTile t
  | .mxStore t => isTile t
  | .mxFence t => isTile t
  | .mxComplete t => isTile t
  | .trapEntry t k => isTile t && isSlot k
  | .faultRecordPost t => isTile t
  | .watchdog t k => isTile t && isSlot k
  | .recover p => isPart p
  | .doorbell iod off _ _ => isIod iod && decide (off < 0x80000)
  | .recordTake q => decide (q < 131072)
  | .placement p => isPart p
  | .controlStrandStart _ => true
  | .sorusComplete _ _ => true
  | .launchComplete _ => true
  | .hostPoolWrite iod _ d => isIod iod && isPayload d
  | .hostPieceApply t => isTile t
  | .hostPoolRead iod _ n => isIod iod && decide (0 < n ∧ n ≤ 4096)
  | .hostHbmAccess a => isIod a.iod && (if a.write then isPayload a.data else decide (0 < a.n ∧ a.n ≤ 4096))
  | .xlinvAll => true
  | .xlinvCtx _ => true
  | .xlinvRange _ => true
  | .xlinvComplete => true
  | .hipi _ => true
  | .deviceRegisterWrite _ _ _ => true
  | .gangSwitch p => isPart p
  | .gangRestore p => isPart p
  | .gangCheckpoint p => isPart p
  | .strandResume p lt slot => isPart p && decide (lt < 65536) && isSlot slot
  | .endPartition p => isPart p
  | .checkpointTimer p => isPart p
  | .gangStop t => isTile t
  | .gangSpill p => isPart p
  | .gangSave t => isTile t
  | .gangOut p => isPart p
  | .spillCapture _ => true
  | .restoreStart p => isPart p
  | .budgetRefill t => isTile t
  | .stipeUpdate i => isStipe i
  | .diePowerMeasure d => decide (d < 8)
  | .powerStateDescend => true
  | .powerWake => true
  | .hbmTempPoll => true
  | .scrubVisit l => isScrub l
  | .linkDown iod link => isIod iod && decide (link < 65536)
  | .chctlWrite st ch _ => isChan st ch
  | .trainEffect st ch => isChan st ch
  | .readTest st ch => isChan st ch
  | .writeTest st ch => isChan st ch
  | .patternTestDone st ch => isChan st ch
  | .patternTestTimeout st ch => isChan st ch
  | .hmodeWrite st ch n _ => isChan st ch && decide (n < 16)
  | .deviceReset => true
  | .recoveryImage _ => true
  | .getVersion _ => true
  | .getCapabilities _ => true
  | .negotiateAlgorithms _ => true
  | .getDigests _ => true
  | .getCertificate _ => true
  | .challenge _ => true
  | .getMeasurements _ => true
  | .configurationRequest iod _ => isIod iod

end Sys2Proof.Instr
end

