-- ==== Sys2Proof/Machine/Sched.lean ====
section
/-! DEFINITION. Which events can come next: what comes from outside, and the events of the tiles, packets, walks, launches,
partitions, controllers and channels. An event that is listed and not due leaves the state as it is (log entry 11). -/
namespace Sys2Proof.Machine

/-! ## Events from outside -/

/-- An event of the host, the fabric, the security block or the hardware's own failures: only these come from inputs
(log entry 15). -/
def isInput (i : Instr) : Bool :=
  match i with
  | .checkFail _ _ | .linkDown _ _ | .doorbell _ _ _ _ | .hipi _ | .hostPoolWrite _ _ _ | .hostPoolRead _ _ _
  | .hostHbmAccess _ | .deviceRegisterWrite _ _ _ | .xlinvAll | .xlinvCtx _ | .xlinvRange _ | .gangSwitch _
  | .gangRestore _ | .gangCheckpoint _ | .strandResume _ _ _ | .endPartition _ | .scaleupFrame _ | .readTest _ _
  | .writeTest _ _ | .deviceReset | .recoveryImage _ | .getVersion _ | .getCapabilities _ | .negotiateAlgorithms _
  | .getDigests _ | .getCertificate _ | .challenge _ | .getMeasurements _ | .configurationRequest _ _ => true
  | _ => false

/-! ## Events of a strand and of a tile -/

/-- Every unit. -/
def allUnits : List UnitId := unitOrder

/-- A result of a unit stands in a bank and is not delivered. -/
def Strand.owes (st : Strand) (u : UnitId) : Bool := st.user.pending u || st.trap.pending u

/-- The events of strand k of tile t; a trap that becomes due at a gang stop is saved pending (R358). -/
def strandEvents (t : Nat) (stopped : Bool) (k : Nat) (st : Strand) : List Instr :=
  ((allUnits.filter st.owes).map fun u => .resultDelivery t k u)
    ++ (if st.exp.isSome then [.expansionStep t k, .blkStep t k] else [])
    ++ (if st.block.isSome then [.wrsTimeout t k] else [])
    ++ (if st.hold.isSome && !stopped then [.semWaitTimeout t k, .watchdog t k] else [])
    ++ (if st.boundary.isSome && !stopped then [.trapEntry t k] else [])

/-- A running multiply or zero, which a gang stop lets run to its end (R210, R358). -/
def mxRunsOn (c : MxCmd) : Bool := c.phase == 1 && !c.suspended && decide (5 ≤ mxOpc c.line ∧ mxOpc c.line ≤ 7)

/-- The events of a tile's matrix queue: the step of the first command not yet completed, by its opcode, and the
retirement of the first (R199, R201, R206). At a gang stop a running load, scale or store stops at its line, and a multiply
or zero runs to its end (R210, R358). -/
def mxEvents (t : Nat) (x : Tile) : List Instr :=
  (if x.mxq.isEmpty then [] else [.mxComplete t]) ++ (match mxHead x with
    | none => []
    | some c => if x.stopped && !mxRunsOn c then [] else match c.line with
      | b :: _ => (decodeMx b.toNat t).toList
      | [] => [])

/-- The events of tile t before its save area is written. -/
def tileRuns (t : Nat) (x : Tile) : List Instr :=
  [.issueChoice t, .scWindowPerform t, .handlerStart t, .faultRecordPost t, .hostPieceApply t, .gangStop t, .budgetRefill t]
    ++ (if x.mxq.any mxRunsOn then [] else [.gangSave t])
    ++ (if x.loading.isSome then [.overlayLoaded t] else [])
    ++ (if x.divOwner.isSome then [.divideDeliver t] else [])
    ++ (x.resv.map fun e => .lockedReservationExpire t e.granule)
    ++ (x.gets.map fun g => .netPiece t g.id)
    ++ (x.ents.flatMap fun e => [.mergeRecord t e.1, .streamOutput t e.1])
    ++ (x.bars.map fun e => .barrierReleaseDelayed t e.1)
    ++ (x.copies.flatMap fun e => [.copyPiece t e.1, .copyRecordPost t e.1])
    ++ mxEvents t x ++ x.strands.flatMap fun e => strandEvents t x.stopped e.1 e.2

/-- The events of tile t: a tile that has written its save area keeps it (R357). -/
def tileEvents (t : Nat) (x : Tile) : List Instr := if x.halted then [.issueChoice t, .faultRecordPost t] else tileRuns t x

/-! ## Events of packets and of the device -/

/-- The events of a packet in flight; one that has reached a saving partition falls into its ring, and nothing else happens
to one for a tile whose save area is written (R359). -/
def packetEvents (saved : Bool) (p : Packet) : List Instr :=
  .spillCapture p.id :: if saved then [] else match p.body with
    | .lsu _ _ _ _ => [.translationRequest p.id, .l2Access p.id]
    | .pool _ _ _ | .vmem _ => [.sorusPoolAccess p.id]
    | .atomic _ => [.atomicPerform p.id]
    | .sem _ _ _ => [.semSignalArrive p.id]
    | .msg _ => [.messageArrive p.id]
    | .migrate _ => [.migrationArrive p.id]
    | .refused => [.migrationRefused p.id]
    | .ipi _ _ => [.ipiArrive p.id]
    | .barReport _ _ => [.barrierReport p.id]
    | .barRelease _ _ _ => [.barrierRelease p.id]
    | .chLine _ _ _ _ _ _ => [.channelLineArrive p.id]
    | .credit _ _ _ => [.creditArrive p.id]
    | .stLine _ _ _ => [.streamLineArrive p.id]
    | .piece _ _ _ _ _ _ | .irq35 _ _ => []

/-- The events of a launch. -/
def launchEvents (id : Nat) (l : Launch) : List Instr :=
  [.controlStrandStart id, .launchComplete id]
    ++ (List.range (soriOf l.record.x l.record.y)).map fun o => .sorusComplete id o

/-- The events of a partition. -/
def partEvents (p : Nat) : List Instr :=
  [.placement p, .recover p, .gangSpill p, .gangOut p, .restoreStart p, .checkpointTimer p]

/-- The words a scrub can find something in: those with errors, and a line of HBM wherever it is (R382). -/
def scrubEvents (s : State) : List Instr :=
  (s.tiles.flatMap fun e =>
      ((e.2.poolBad ++ e.2.poolWeak).map fun a => .scrubVisit (.pool e.1 a))
        ++ ((e.2.opBad ++ e.2.opWeak).map fun a => .scrubVisit (.opmem e.1 a))
        ++ ((e.2.scaleBad ++ e.2.scaleWeak).map fun a => .scrubVisit (.scale e.1 a))
        ++ ((e.2.cellBad ++ e.2.cellWeak).map .scrubVisit))
    ++ (s.weakRun.map fun e => .scrubVisit e.1) ++ ((s.l2Bad ++ s.l2Weak).map fun a => .scrubVisit (.l2 a))
    ++ ((s.hbmBad ++ s.hbmWeak).map fun a => .scrubVisit (.hbm a))
    ++ [.scrubVisit (.hbm (64 * (Config.freeChoice (s.oracle + 1) % 2 ^ 34)))]

/-- The events of a channel of an HBM stack. -/
def chanEvents (i : Nat) : List Instr :=
  [.trainEffect (i / 32) (i % 32), .patternTestDone (i / 32) (i % 32), .patternTestTimeout (i / 32) (i % 32)]

/-- The start-up is between two stages (R394). -/
def State.booting (s : State) : Bool := decide (1 ≤ s.stage ∧ s.stage ≤ 3)

/-- The events of the device as a whole. -/
def deviceEvents (s : State) : List Instr :=
  [.xlinvComplete, .powerStateDescend, .hbmTempPoll] ++ (if s.booting then [.deviceReset] else [])
    ++ (s.walks.map fun w => .pageWalkDone w.id) ++ (s.queues.map fun e => .recordTake e.1)
    ++ (s.launches.flatMap fun e => launchEvents e.1 e.2) ++ (s.parts.flatMap fun e => partEvents e.1)
    ++ ((List.range 1200).map fun i => .stipeUpdate i) ++ ((List.range 8).map fun d => .diePowerMeasure d)
    ++ (s.hbmCh.flatMap fun e => chanEvents e.1) ++ scrubEvents s

/-- Every event of the device's own that can come next. -/
def State.events (s : State) : List Instr :=
  (s.tiles.flatMap fun e => tileEvents e.1 e.2) ++ (s.flight.flatMap fun p => packetEvents (s.tile p.dst).halted p) ++ deviceEvents s

/-! ## The next event -/

/-- What comes next: an input with the inputs that stay, or an event of the device's own. -/
inductive Pick where
  | input (i : Instr) (rest : List Instr)
  | own (i : Instr)
  | nothing
deriving DecidableEq, Repr

/-- The free choice among the first input that can be taken and the device's own events (log entry 1). -/
def State.pick (s : State) : Pick :=
  let evs := s.events
  match takeInput s [] s.inputs with
  | some (i, rest) =>
    match s.choice (evs.length + 1) with
    | 0 => .input i rest
    | n + 1 => match evs[n]? with
      | some e => .own e
      | none => .input i rest
  | none =>
    match evs[s.choice evs.length]? with
    | some e => .own e
    | none => .nothing

/-- The package has the tile (R122). -/
def hasTile (t : Nat) : Bool :=
  if isService t then decide (t < 10240 ∧ t % 1024 < 4) else decide (colOf t < 25 ∧ rowOf t < 24)

/-- A register or latch in which an error can arise: s0 to s9 and PW, system registers 0 to 9, the return store, and the operand
and result latches of either bank (log entry 22). -/
def isCellPort (t port : Nat) : Bool :=
  decide (0x020 ≤ port ∧ port ≤ 0x02A) || decide (sysCell 0 ≤ port ∧ port ≤ sysCell 9)
    || decide (retCell 0 ≤ port ∧ port ≤ retCell 15)
    || (decide (port < 0x2000) && match kindOn t (port % 0x1000) with
      | some .operand | some .result => true
      | _ => false)

/-- The package has the place of storage. -/
def hasPlace (l : ScrubLoc) : Bool :=
  match l with
  | .pool t _ | .table t _ => Instr.isScrub l && hasTile t
  | .opmem t _ | .scale t _ => Instr.isScrub l && hasTile t && !isService t
  | .l2 a | .hbm a => Instr.isScrub l && !isHole a
  | .reg t k p => hasTile t && decide (k < 16) && isCellPort t p
  | .sem t i => hasTile t && decide (i < 255)
  | .inbox t _ | .parcel t _ => hasTile t

/-- A storage error may arise in a word the machine has (R379; log entry 22). -/
def State.arise (s : State) (e : Option (ScrubLoc × Bool)) : State :=
  match e with
  | none => s
  | some (l, weak) => if hasPlace l then s.errorAt l weak else s

/-- Time passes before an event, by a number of ticks the manual leaves open (log entry 5), in which a line may leave its die
L2 and an error may arise (log entries 22 and 64). -/
def State.pass (s : State) : State :=
  { s.tick with time := s.time + Config.freeTicks s.oracle }.evict.arise (Config.storageError s.oracle)

/-! ## The turn of a strand -/

/-- What the strand whose turn it is executes: the instruction at its address (R34), a later repetition of a repeated
parcel (R36), or an annulled delay issue (R291); or the reason its parcel is illegal (R27). -/
def State.current (s : State) : Except Nat Instr :=
  let st := s.me
  match decodeParcels (s.parcels s.cur.1 st.pc.toNat 17) with
  | .error r => .error r
  | .ok i =>
    let annul := match st.delay with
      | some d => d.annul
      | none => false
    match i with
    | .tParcel _ _ _ => .ok (if annul then .annulledIssue else if st.rep = 0 then i else .repetition)
    | .idle _ | .inline _ => .ok (if annul then .annulledIssue else i)
    | _ => .ok i

/-- The lines of the parcel cache that the parcel at an address is read from (R3, R29): one, or two of an inline word. -/
def parcelLines (ps : List (BitVec 16)) (a : Nat) : List Nat :=
  match decodeParcels ps with
  | .ok (.inline _) => if (a + 16) / 32 = a / 32 then [a / 32] else [a / 32, a / 32 + 1]
  | _ => if ps.isEmpty then [] else [a / 32]

/-- A line of parcels is read through the parcel cache of tile t: 256 lines of 64 bytes; the manual gives no rule of
replacement (log entry 71). -/
def readLine (s : State) (t line : Nat) : State :=
  let x := s.tile t
  if x.pcache.contains line then s.cellReload t (.parcel t line)
  else if x.pcache.length < 256 then s.setTile t { x with pcache := line :: x.pcache }
  else
    let out := x.pcache.getD (s.choice 256) 0
    (s.setTile t { x.renew (.parcel t out) with pcache := line :: x.pcache.filter (· != out) }).tick

/-- The instruction at hand as the turn of strand k of tile t goes on: its parcels are in the parcel cache. -/
def State.atTurn (s : State) (t k : Nat) : State :=
  let a := (s.strand t k).pc.toNat
  (parcelLines (s.parcels t a 17) a).foldl (fun s l => readLine s t l) { s with cur := (t, k) }

/-! ## Placing an instruction where the next step fetches (log entry 12) -/

/-- The kernel object that withFetchWord places: the parcels, in one overlay's bank. -/
def probeObject (ps : List (BitVec 16)) : KObj :=
  { ctx := 0, va := 0, size := 64, hash := [], parcels := (List.range ps.length).zip ps, len := ps.length, table := []
    overlays := [(0, [])], data := [], constOff := 0, entry := 0, torus := none, partword := 1, strands := 16, cls := 1
    fmt := 0, lock := 0, hwin := false, handlers := [], badHead := false, badBody := false }

/-- The record of its launch: one tile. -/
def probeRecord : Record :=
  { va := 0, queue := 0, ver := 1, pri := 0, pclass := 0, hint := false, msiv := 0xFFFF, obj := 0, hash := [], arg := 0
    lid := 0, partword := 1, x := 1, y := 1, pa := 0, deps := [], csem := none, cinc := 0, tnote := 0x00FF0000
    snote := 0x00FF0000, reserved := false }

/-- Its launch, running on tile 0. -/
def probeLaunch (obj : Nat) : Launch :=
  { record := probeRecord, ctx := 0, part := 0, phase := 2, status := 0, sori := [0], tiles := [0], doneTiles := []
    doneSori := [], doneAt := 0, objIdx := obj }

/-- The machine with a program of these parcels running on tile 0, its control strand's turn to issue. -/
def State.withParcels (s : State) (ps : List (BitVec 16)) : State :=
  let o := probeObject ps
  let l := probeLaunch s.objects.length
  let x := loadTile (s.tile 0) s.nextId 0 l o
  let x := { x.setStrand 0 (controlStrand x l o) with overlay := some 0 }
  { s.setTile 0 x with
    objects := s.objects ++ [o], launches := Map.set s.launches s.nextId l, nextId := s.nextId + 1, turn := some (0, 0)
    cur := (0, 0) }

end Sys2Proof.Machine
end

