-- ==== Sys2Proof/Machine/Run.lean ====
section
/-! DEFINITION. What a step runs: the instruction at the address of the strand whose turn it is, or the next event. -/
namespace Sys2Proof.Machine

/-- The turn of strand k of tile t: it executes the instruction at its address; an illegal parcel traps (R27); a strand
that can issue nothing now leaves the turn. -/
def runTurn (s : State) (t k : Nat) : Out :=
  let s := s.atTurn t k
  if !canAttempt s.me then .next (lostCycle s t)
  else
    match s.current with
    | .ok i => exec i s
    | .error r => .next (illegal s r)

/-- In recovery the host has no doorbells, and its writes to registers have no effect (R395). -/
def barred (s : State) (i : Instr) : Bool :=
  s.bar0Only && (isRegWrite i || match i with
    | .doorbell _ _ _ _ => true
    | _ => false)

/-- An event from outside: the device wakes for it first (R377); a term that is no event from outside, or is not well
formed, stops the machine. -/
def runInput (s : State) (i : Instr) (rest : List Instr) : Out :=
  if !(isInput i && i.wf) then .fault .illFormed
  else if s.pwrst ≠ 0 ∧ wakes i then exec .powerWake s
  else if barred s i then .next { s with inputs := rest }
  else exec i { s with inputs := rest }

/-- The next event (R430). -/
def runEvent (s : State) : Out :=
  let s := s.pass
  match s.pick with
  | .input i rest => runInput s i rest
  | .own i => exec i s
  | .nothing => .next s

end Sys2Proof.Machine
end

