-- ==== Sys2Proof/Machine/Step.lean ====
section
/-! DEFINITION. One step: the instruction of the strand whose turn it is, or the next event. -/
namespace Sys2Proof.Machine

/-- One step of the machine. -/
def step (s : State) : Host.Outcome State Fault Refusal :=
  match s.turn with
  | some (t, k) => runTurn s t k
  | none => runEvent s

/-- The machine with a row's instruction placed where the next step fetches, and that step its strand's turn
(log entry 12). -/
def State.withFetchWord (s : State) (nbits w : Nat) : State := s.withParcels (tableParcels nbits w)

end Sys2Proof.Machine
end

