-- ==== Sys2Proof/Safety.lean ====
section
/-! DEFINITION. What a safe run is, in the terms claims use. -/
namespace Sys2Proof.Machine

/-- The step answers a next state. -/
def goesOn (s : State) : Prop := ∃ t, step s = .next t

/-- The three memories of a tile are in canonical form. -/
def Tile.memOk (x : Tile) : Prop := x.pool.wf = true ∧ x.opmem.wf = true ∧ x.scale.wf = true

/-- The memories of the tiles of a saved image are. -/
def Image.memOk (im : Image) : Prop := ∀ v ∈ im.tiles, v.tile.memOk

/-- The memories of the images a partition keeps are. -/
def Part.memOk (p : Part) : Prop := (∀ im, p.image = some im → im.memOk) ∧ ∀ im, p.last = some im → im.memOk

/-- The machine's memories are in canonical form: HBM, the host's memory, the other devices', every tile's pool, operand
memory and scale memory, and those of every saved image. -/
def State.memOk (s : State) : Prop :=
  s.hbm.wf = true ∧ s.hostMem.wf = true ∧ s.far.wf = true ∧ (∀ e ∈ s.tiles, e.2.memOk) ∧ ∀ e ∈ s.parts, e.2.memOk

end Sys2Proof.Machine
end

