-- ==== Sys2Proof/Certificates/Slice0/Obligations.lean ====
section
/-! DEFINITION. The statements for the provers. -/

open Sys2Proof Sys2Proof.Machine

/-! ## Integer units -/

namespace Sys2Proof.Claims

/-- Bits [n-1:0] of x as a signed value. -/
def signed (n x : Nat) : Int := if x % 2 ^ n < 2 ^ (n - 1) then (x % 2 ^ n : Nat) else (x % 2 ^ n : Nat) - 2 ^ n

/-- z of R140: [0] C, [1] V, [2] S. -/
def flags3 (c v s : Bool) : Word := BitVec.ofNat 64 (c.toNat + 2 * v.toNat + 4 * s.toNat)

/-- An exact value is outside the signed range of n bits. -/
def outS (n : Nat) (x : Int) : Bool := decide (x < -2 ^ (n - 1) ∨ 2 ^ (n - 1) ≤ x)

/-- The alu operation i runs in every state: its unit gets one result, with latency 1 (R135), whose y and z stand in
relation p to the operands a, b and v (R134); nothing else of the state changes. -/
def AluIs (i : Alu → Word → Instr) (p : Word → Word → Word → Word → Word → Prop) : Prop :=
  ∀ u v s, ∃ y z, exec (i u v) s = .next (s.result u.unit y (some z) 1) ∧ p (s.opnd u.base) (s.opnd (u.base + 1)) v y z

/-- The mdu operation i runs in every state, with latency 3 (R135). -/
def MulIs (i : Word → Instr) (p : Word → Word → Word → Word → Word → Prop) : Prop :=
  ∀ v s, ∃ y z, exec (i v) s = .next (s.result .mdu y (some z) 3) ∧ p (s.opnd 0x0C0) (s.opnd 0x0C1) v y z

/-- The prd operation i runs in every state, with latency 1 and no z (R135, R149). -/
def PrdIs (i : Word → Instr) (p : Word → Word → Word → Word → Prop) : Prop :=
  ∀ v s, ∃ y, exec (i v) s = .next (s.result .prd y none 1) ∧ p (s.opnd 0x0E0) (s.opnd 0x0E1) v y

/-- y is the exact value x wrapped to 64 bits. -/
def wraps (x : Int) (y : Word) : Prop := (y.toNat : Int) = x % 2 ^ 64

/-- y is bits [127:64] of the exact value x. -/
def highOf (x : Int) (y : Word) : Prop := (y.toNat : Int) = x / 2 ^ 64 % 2 ^ 64

/-- The position of a field, the length asked for, and the length used (R141). -/
def fieldPos (v : Word) : Nat := v.toNat % 64
def fieldLen (v : Word) : Nat := v.toNat / 64 % 64 + 1
def fieldUsed (v : Word) : Nat := min (fieldLen v) (64 - fieldPos v)

/-- A divide that does not trap: the tile's divider is the strand's, and its result, with y and z, stands undelivered in
the strand's latches (R145, R147); no other tile and no memory changes. -/
def DivIs (i : Word → Instr) (zero : Word → Prop) (p : Word → Word → Word → Word → Prop) : Prop :=
  ∀ v s, ¬ (zero v ∧ s.me.mode.getLsbD 18 = true) →
    ∃ t r y z, exec (i v) s = .next t ∧ t.here.divOwner = some (s.cur.2, s.here.cycle) ∧
      t.me.bank.res.getLast? = some r ∧ r.unit = .mdu ∧ r.y = some y ∧ r.z = some z ∧ r.due = none ∧ r.wait = true ∧
      p (s.opnd 0x0C0) v y z ∧ t.here.pool = s.here.pool ∧ (∀ u, u ≠ s.cur.1 → t.tile u = s.tile u)

/-- With IDZE set, a divisor of 0 leaves the operation latched with trap 0x27 and the port in SINFO, and mdu.y and mdu.z
unwritten (R146). -/
def DivTraps (i : Word → Instr) (port : Nat) (zero : Word → Prop) : Prop :=
  ∀ v s, zero v → s.me.mode.getLsbD 18 = true →
    ∃ t l, exec (i v) s = .next t ∧ (if s.me.tl then t.me.latchedT else t.me.latched).getLast? = some l ∧
      l.op.port = port ∧ l.op.v = v ∧ l.cause = 0x27 ∧ l.info = BitVec.ofNat 64 port ∧
      t.me.latchedDue = true ∧ t.me.user = s.me.user ∧ t.me.trap = s.me.trap

end Sys2Proof.Claims

open Sys2Proof.Claims

/-- R140, the adds and subtracts: y and the status bits of z from the exact sum or difference. -/
def Obligations.AluArithmetic : Prop :=
  AluIs .aluMov (fun _ _ v y z => y = v ∧ z = 0) ∧
  AluIs .aluAdd (fun a _ v y z => wraps (a.toNat + v.toNat) y ∧
    z = flags3 (decide (2 ^ 64 ≤ a.toNat + v.toNat)) (outS 64 (a.toInt + v.toInt)) false) ∧
  AluIs .aluSub (fun a _ v y z => wraps (a.toNat - v.toNat) y ∧
    z = flags3 (decide (a.toNat < v.toNat)) (outS 64 (a.toInt - v.toInt)) false) ∧
  AluIs .aluAdds (fun a _ v y z => y.toInt = max (-2 ^ 63) (min (a.toInt + v.toInt) (2 ^ 63 - 1)) ∧
    z = flags3 false (outS 64 (a.toInt + v.toInt)) (outS 64 (a.toInt + v.toInt))) ∧
  AluIs .aluSubs (fun a _ v y z => y.toInt = max (-2 ^ 63) (min (a.toInt - v.toInt) (2 ^ 63 - 1)) ∧
    z = flags3 false (outS 64 (a.toInt - v.toInt)) (outS 64 (a.toInt - v.toInt))) ∧
  AluIs .aluAddus (fun a _ v y z => y.toNat = min (a.toNat + v.toNat) (2 ^ 64 - 1) ∧
    z = flags3 (decide (2 ^ 64 ≤ a.toNat + v.toNat)) false (decide (2 ^ 64 ≤ a.toNat + v.toNat))) ∧
  AluIs .aluSubus (fun a _ v y z => y.toNat = a.toNat - v.toNat ∧
    z = flags3 (decide (a.toNat < v.toNat)) false (decide (a.toNat < v.toNat))) ∧
  AluIs .aluAddw (fun a _ v y z => y.toInt = signed 32 (a.toNat + v.toNat) ∧
    z = flags3 (decide (2 ^ 32 ≤ a.toNat % 2 ^ 32 + v.toNat % 2 ^ 32))
      (outS 32 (signed 32 a.toNat + signed 32 v.toNat)) false) ∧
  AluIs .aluSubw (fun a _ v y z => y.toInt = signed 32 (a.toNat + 2 ^ 64 - v.toNat) ∧
    z = flags3 (decide (a.toNat % 2 ^ 32 < v.toNat % 2 ^ 32))
      (outS 32 (signed 32 a.toNat - signed 32 v.toNat)) false) ∧
  AluIs .aluNeg (fun _ _ v y z => wraps (-v.toInt) y ∧ z = flags3 false (decide (v.toInt = -2 ^ 63)) false) ∧
  AluIs .aluAbs (fun _ _ v y z => y.toNat = v.toInt.natAbs ∧ z = flags3 false (decide (v.toInt = -2 ^ 63)) false) ∧
  AluIs .aluMin (fun a _ v y z => y.toInt = min a.toInt v.toInt ∧ z = 0) ∧
  AluIs .aluMax (fun a _ v y z => y.toInt = max a.toInt v.toInt ∧ z = 0) ∧
  AluIs .aluMinu (fun a _ v y z => y.toNat = min a.toNat v.toNat ∧ z = 0) ∧
  AluIs .aluMaxu (fun a _ v y z => y.toNat = max a.toNat v.toNat ∧ z = 0)

/-- R140, the logic, shift and rotate operations, bit by bit or on the exact value. -/
def Sys2Proof.Claims.AluLogicShift : Prop :=
  AluIs .aluAnd (fun a _ v y z => (∀ i, y.getLsbD i = (a.getLsbD i && v.getLsbD i)) ∧ z = 0) ∧
  AluIs .aluOr (fun a _ v y z => (∀ i, y.getLsbD i = (a.getLsbD i || v.getLsbD i)) ∧ z = 0) ∧
  AluIs .aluXor (fun a _ v y z => (∀ i, y.getLsbD i = (a.getLsbD i != v.getLsbD i)) ∧ z = 0) ∧
  AluIs .aluAndn (fun a _ v y z => (∀ i, i < 64 → y.getLsbD i = (a.getLsbD i && !v.getLsbD i)) ∧ z = 0) ∧
  AluIs .aluOrn (fun a _ v y z => (∀ i, i < 64 → y.getLsbD i = (a.getLsbD i || !v.getLsbD i)) ∧ z = 0) ∧
  AluIs .aluNot (fun _ _ v y z => (∀ i, i < 64 → y.getLsbD i = !v.getLsbD i) ∧ z = 0) ∧
  AluIs .aluShl (fun a _ v y z => y.toNat = a.toNat * 2 ^ (v.toNat % 64) % 2 ^ 64 ∧ z = 0) ∧
  AluIs .aluShr (fun a _ v y z => y.toNat = a.toNat / 2 ^ (v.toNat % 64) ∧ z = 0) ∧
  AluIs .aluSar (fun a _ v y z => y.toInt = a.toInt / 2 ^ (v.toNat % 64) ∧ z = 0) ∧
  AluIs .aluRol (fun a _ v y z => (∀ i, i < 64 → y.getLsbD ((i + v.toNat) % 64) = a.getLsbD i) ∧ z = 0) ∧
  AluIs .aluRor (fun a _ v y z => (∀ i, i < 64 → y.getLsbD i = a.getLsbD ((i + v.toNat) % 64)) ∧ z = 0) ∧
  AluIs .aluShlw (fun a _ v y z => y.toInt = signed 32 (a.toNat % 2 ^ 32 * 2 ^ (v.toNat % 32)) ∧ z = 0) ∧
  AluIs .aluShrw (fun a _ v y z => y.toInt = signed 32 (a.toNat % 2 ^ 32 / 2 ^ (v.toNat % 32)) ∧ z = 0) ∧
  AluIs .aluSarw (fun a _ v y z => y.toInt = signed 32 a.toNat / 2 ^ (v.toNat % 32) ∧ z = 0)

/-- R140, the comparisons, counts, byte swap and extensions. -/
def Obligations.AluCompareCount : Prop :=
  AluIs .aluEq (fun a _ v y z => y.toNat = (if a = v then 1 else 0) ∧ z = 0) ∧
  AluIs .aluNe (fun a _ v y z => y.toNat = (if a = v then 0 else 1) ∧ z = 0) ∧
  AluIs .aluLt (fun a _ v y z => y.toNat = (if a.toInt < v.toInt then 1 else 0) ∧ z = 0) ∧
  AluIs .aluLe (fun a _ v y z => y.toNat = (if a.toInt ≤ v.toInt then 1 else 0) ∧ z = 0) ∧
  AluIs .aluLtu (fun a _ v y z => y.toNat = (if a.toNat < v.toNat then 1 else 0) ∧ z = 0) ∧
  AluIs .aluLeu (fun a _ v y z => y.toNat = (if a.toNat ≤ v.toNat then 1 else 0) ∧ z = 0) ∧
  AluIs .aluClz (fun _ _ v y z => y.toNat ≤ 64 ∧ (∀ i, 64 ≤ i + y.toNat → v.getLsbD i = false) ∧
    (y.toNat < 64 → v.getLsbD (63 - y.toNat) = true) ∧ z = 0) ∧
  AluIs .aluCtz (fun _ _ v y z => y.toNat ≤ 64 ∧ (∀ i, i < y.toNat → v.getLsbD i = false) ∧
    (y.toNat < 64 → v.getLsbD y.toNat = true) ∧ z = 0) ∧
  AluIs .aluPopc (fun _ _ v y z => y.toNat = ((List.range 64).filter fun i => v.getLsbD i).length ∧ z = 0) ∧
  AluIs .aluBswap (fun _ _ v y z => (∀ j, j < 8 → y.extractLsb' (8 * (7 - j)) 8 = v.extractLsb' (8 * j) 8) ∧ z = 0) ∧
  AluIs .aluSxb (fun _ _ v y z => y.toInt = signed 8 v.toNat ∧ z = 0) ∧
  AluIs .aluSxh (fun _ _ v y z => y.toInt = signed 16 v.toNat ∧ z = 0) ∧
  AluIs .aluSxw (fun _ _ v y z => y.toInt = signed 32 v.toNat ∧ z = 0) ∧
  AluIs .aluZxb (fun _ _ v y z => y.toNat = v.toNat % 2 ^ 8 ∧ z = 0) ∧
  AluIs .aluZxh (fun _ _ v y z => y.toNat = v.toNat % 2 ^ 16 ∧ z = 0) ∧
  AluIs .aluZxw (fun _ _ v y z => y.toNat = v.toNat % 2 ^ 32 ∧ z = 0)

/-- R141 to R143: bit fields cut at bit 63, the choice between a and b, and addresses that keep their class. -/
def Sys2Proof.Claims.AluFieldSelect : Prop :=
  AluIs .aluExt (fun a _ v y z => y.toInt = signed (fieldUsed v) (a.toNat / 2 ^ fieldPos v) ∧ z = 0) ∧
  AluIs .aluExtu (fun a _ v y z => y.toNat = a.toNat / 2 ^ fieldPos v % 2 ^ fieldUsed v ∧ z = 0) ∧
  AluIs .aluIns (fun a b v y z =>
    (∀ i, i < 64 → y.getLsbD i =
      if fieldPos v ≤ i ∧ i < fieldPos v + fieldUsed v then b.getLsbD (i - fieldPos v) else a.getLsbD i) ∧
    z.toNat = (if fieldUsed v < fieldLen v then 1 else 0)) ∧
  AluIs .aluSel (fun a b v y z => y = (if v.getLsbD 0 then a else b) ∧ z = 0) ∧
  AluIs .aluLea (fun a b v y z =>
    let x := a.toNat % 2 ^ 56 + v.toNat * 2 ^ (b.toNat % 8) % 2 ^ 64
    y.toNat = a.toNat / 2 ^ 56 * 2 ^ 56 + x % 2 ^ 56 ∧ z.toNat = (if x / 2 ^ 56 % 2 ^ 8 = 0 then 0 else 1))

/-- R140 to R143: logic, shifts and rotates, bit fields, selection and addresses. -/
def Obligations.AluLogicShiftField : Prop := Sys2Proof.Claims.AluLogicShift ∧ Sys2Proof.Claims.AluFieldSelect

/-- R149: the predicate unit, bit by bit under the keep-mask b. -/
def Obligations.PredicateUnit : Prop :=
  let logic (f : Bool → Bool → Bool) (a b v y : Word) : Prop :=
    ∀ i, y.getLsbD i = (decide (i < 8) && if b.getLsbD i then a.getLsbD i else f (a.getLsbD i) (v.getLsbD i))
  PrdIs .prdAnd (logic fun a v => a && v) ∧ PrdIs .prdOr (logic fun a v => a || v) ∧
  PrdIs .prdXor (logic fun a v => a != v) ∧ PrdIs .prdAndn (logic fun a v => a && !v) ∧
  PrdIs .prdOrn (logic fun a v => a || !v) ∧ PrdIs .prdNot (logic fun _ v => !v) ∧
  PrdIs .prdNz (fun _ _ v y => y.toNat = if v = 0 then 0 else 1) ∧
  PrdIs .prdEz (fun _ _ v y => y.toNat = if v = 0 then 1 else 0) ∧
  PrdIs .prdBit (fun a _ v y => y.toNat = if a.getLsbD (v.toNat % 64) then 1 else 0)

/-- R144: the multiplies write the two halves of the exact product. -/
def Sys2Proof.Claims.Multiplies : Prop :=
  MulIs .mduMul (fun a _ v y z => wraps (a.toInt * v.toInt) y ∧ highOf (a.toInt * v.toInt) z) ∧
  MulIs .mduMulh (fun a _ v y z => highOf (a.toInt * v.toInt) y ∧ wraps (a.toInt * v.toInt) z) ∧
  MulIs .mduMulhu (fun a _ v y z => highOf (a.toNat * v.toNat) y ∧ wraps (a.toNat * v.toNat) z) ∧
  MulIs .mduMulhsu (fun a _ v y z => highOf (a.toInt * v.toNat) y ∧ wraps (a.toInt * v.toNat) z) ∧
  MulIs .mduMulw (fun a _ v y z => y.toInt = signed 32 (a.toNat * v.toNat) ∧
    z.toInt = signed 32 a.toNat * signed 32 v.toNat) ∧
  MulIs .mduMac (fun a b v y z => wraps (b.toInt + a.toInt * v.toInt) y ∧
    z = flags3 false (outS 64 (b.toInt + a.toInt * v.toInt)) false)

/-- R145 to R147: the divides, their corner cases, trap 0x27, and the delivery that frees the divider. -/
def Sys2Proof.Claims.Divides : Prop :=
  DivIs .mduDiv (fun v => v = 0) (fun a v y z =>
    if v = 0 then y.toNat = 2 ^ 64 - 1 ∧ z = a else wraps (a.toInt.tdiv v.toInt) y ∧ wraps (a.toInt.tmod v.toInt) z) ∧
  DivIs .mduDivu (fun v => v = 0) (fun a v y z =>
    if v = 0 then y.toNat = 2 ^ 64 - 1 ∧ z = a else y.toNat = a.toNat / v.toNat ∧ z.toNat = a.toNat % v.toNat) ∧
  DivIs .mduDivw (fun v => v.toNat % 2 ^ 32 = 0) (fun a v y z =>
    if v.toNat % 2 ^ 32 = 0 then y.toNat = 2 ^ 64 - 1 ∧ z.toInt = signed 32 a.toNat
    else y.toInt = signed 32 (((signed 32 a.toNat).tdiv (signed 32 v.toNat)) % 2 ^ 32).toNat ∧
      z.toInt = (signed 32 a.toNat).tmod (signed 32 v.toNat)) ∧
  DivIs .mduDivuw (fun v => v.toNat % 2 ^ 32 = 0) (fun a v y z =>
    if v.toNat % 2 ^ 32 = 0 then y.toNat = 2 ^ 32 - 1 ∧ z.toNat = a.toNat % 2 ^ 32
    else y.toNat = a.toNat % 2 ^ 32 / (v.toNat % 2 ^ 32) ∧ z.toNat = a.toNat % 2 ^ 32 % (v.toNat % 2 ^ 32)) ∧
  DivTraps .mduDiv 0x0CA (fun v => v = 0) ∧ DivTraps .mduDivu 0x0CB (fun v => v = 0) ∧
  DivTraps .mduDivw 0x0CC (fun v => v.toNat % 2 ^ 32 = 0) ∧ DivTraps .mduDivuw 0x0CD (fun v => v.toNat % 2 ^ 32 = 0) ∧
  ∀ t s k c, (s.tile t).divOwner = some (k, c) → c + 6 ≤ (s.tile t).cycle →
    ∃ s', exec (.divideDeliver t) s = .next s' ∧ (s'.tile t).divOwner = none ∧
      (∀ r ∈ (s'.strand t k).user.res, r.unit = .mdu → r.due = none → r.wait = false) ∧
      ((∀ r ∈ (s.strand t k).user.res, r.ready ≤ (s.tile t).cycle) → (s'.strand t k).user.pending .mdu = false) ∧
      (s'.tile t).pool = (s.tile t).pool ∧ (∀ u, u ≠ t → s'.tile u = s.tile u)

/-- R144 to R147: products, quotients, and the delivery of a quotient. -/
def Obligations.MultiplyDivide : Prop := Sys2Proof.Claims.Multiplies ∧ Sys2Proof.Claims.Divides

/-! ## Results and floats -/

/-- R22: in free-running mode the result of an operation of latency L triggered at issue n is what .y reads from issue
n + L on, and until then .y reads as if the operation had not been triggered. b is the strand's bank at issue n; m issues
later no other operation has been triggered. -/
def Sys2Proof.Claims.FreeRunningResult : Prop :=
  ∀ (b : Bank) (u : UnitId) (y : Word) (z : Option Word) (L c m : Nat),
    let after := { (b.push u (some y) z L c false false) with clock := b.clock + m }
    (m < L → after.readY u = { b with clock := b.clock + m }.readY u) ∧
    (L ≤ m → (∀ r ∈ b.res, r.unit = u → ∀ d, r.due = some d → d ≤ b.clock + L) → after.readY u = y)

/-- R23 and R432: a data-locked result fills its port at a delivery no earlier than L cycles after its firing, and .y then
reads it; a delivery event before that leaves the port as it was. -/
def Sys2Proof.Claims.DataLockedResult : Prop :=
  ∀ (b : Bank) (u : UnitId) (y : Word) (z : Option Word) (L c now : Nat),
    (∀ r ∈ b.res, r.unit = u → ∃ d, r.due = some d ∧ d ≤ b.clock) →
      (c + L ≤ now → ((b.push u (some y) z L c true false).deliver u true now).full.contains (yPort u) = true ∧
        ((b.push u (some y) z L c true false).deliver u true now).readY u = y) ∧
      (now < c + L → ((b.push u (some y) z L c true false).deliver u true now).full = b.full)

/-- R22, R23, R432: when .y reads a result, in free-running and in data-locked mode. -/
def Obligations.ResultLatches : Prop := Sys2Proof.Claims.FreeRunningResult ∧ Sys2Proof.Claims.DataLockedResult

/-- The scalar operations that only deliver a result: every operation of alu0, alu1, mdu multiplies, prd, crf.rd, and
sys.rdsr, by trigger port (R40 to R43). -/
def Sys2Proof.Claims.resultOnly (port : Nat) : Prop :=
  (0x044 ≤ port ∧ port ≤ 0x075) ∨ (0x084 ≤ port ∧ port ≤ 0x0B5) ∨ (0x0C4 ≤ port ∧ port ≤ 0x0C9) ∨
    (0x0E3 ≤ port ∧ port ≤ 0x0EB) ∨ port = 0x0F2 ∨ port = 0x2C3

/-- No error stands in the register that crf.rd or sys.rdsr reads (R119, R123, R379): a common register lies in the pool, and
MODE, FMT, SRKEY, TBANK and the registers an exception saves into are protected words of the strand. -/
def Sys2Proof.Claims.cleanReg (s : State) (port : Nat) (v : Word) : Prop :=
  let c := v.toNat % 2 ^ 11
  let clean (w : Nat) : Prop := w ∉ s.me.bad ∧ w ∉ s.me.weak
  (port = 0x0F2 → c < 0x400 → hasBad s.here.poolBad (8 * c) 8 = none ∧ wordsIn s.here.poolWeak (8 * c) 8 = []) ∧
    (port = 0x0F2 → 0x400 ≤ c → ∀ w ∈ crfCells c, clean w) ∧
    (port = 0x2C3 → v.toNat % 128 < 10 → clean (sysCell (v.toNat % 128)))

/-- The frame of the operations that only deliver a result (R134, R135, R140, R144, R149, R120, R123): every register,
predicate, operand latch, special register, flag and semaphore of the strand and tile, every other strand and tile, and
every byte of every memory stay as they were; only the strand's list of results changes. A crf.rd or sys.rdsr of a register
with a storage error logs it or traps, and is not covered here. -/
def Sys2Proof.Claims.ResultOnlyFrame : Prop :=
  ∀ (port : Nat) (v : Word) (g : Bool) (chop : Nat) (i : Instr) (s t : State),
    resultOnly port → cleanReg s port v → decodeTrigger port v g chop = some i → exec i s = .next t →
      t = { s with tiles := t.tiles } ∧ (∀ u, u ≠ s.cur.1 → t.tile u = s.tile u) ∧
      t.here = { s.here with strands := t.here.strands } ∧
      (∀ k, k ≠ s.cur.2 → t.here.strand k = s.here.strand k) ∧
      t.me = s.me.setBank { s.me.bank with res := t.me.bank.res } ∧
      (∀ u a, (t.tile u).pool.read a = (s.tile u).pool.read a) ∧ (∀ a, t.hbm.read a = s.hbm.read a)

namespace Sys2Proof.Claims

/-- The registers of a strand that operations do not name: its s-registers and predicates, PC and issue address, mode and status
registers, the registers an exception saves into, delay state, return store, MXS, TBANK and the issue count. -/
def controlSame (a b : Strand) : Prop :=
  b.status = a.status ∧ b.regs = a.regs ∧ b.pw = a.pw ∧ b.pc = a.pc ∧ b.ia = a.ia ∧ b.sstat = a.sstat ∧ b.mode = a.mode ∧
    b.fmt = a.fmt ∧ b.spc = a.spc ∧ b.scause = a.scause ∧ b.sinfo = a.sinfo ∧ b.sds = a.sds ∧ b.xstep = a.xstep ∧
    b.delay = a.delay ∧ b.ret = a.ret ∧ b.sdepth = a.sdepth ∧ b.mxs = a.mxs ∧ b.tbank = a.tbank ∧ b.issue = a.issue

/-- The frame of every operation of the units from alu0 to vec but the stk sockets and the five whose own checks trap before
their word (sem.wait, net.recv and the three barrier operations): the registers above of every strand stay as they were,
SRKEY too except under vec.cvtsr, and so do the device's control block, queues, launches and channels, and the partitions
where no tile's storage error recurs (R384). -/
def ControlFrame : Prop :=
  ∀ (i : Instr) (port : Nat) (v : Word) (g : Bool) (chop : Nat) (s t : State),
    encode i = some (.move port v g chop) → 0x040 ≤ port → port < 0x2C0 →
    port ∉ [0x1C5, 0x1E8, 0x1EA, 0x1EB, 0x1EC, 0x221, 0x223, 0x225, 0x227] → exec i s = .next t →
    (∀ u k, controlSame (s.strand u k) (t.strand u k) ∧ (port ≠ 0x260 → (t.strand u k).srkey = (s.strand u k).srkey)) ∧
      t.launches = s.launches ∧ t.queues = s.queues ∧ (s.recurs = [] → t.parts = s.parts) ∧ t.xlbase = s.xlbase ∧ t.xlinv = s.xlinv ∧
      t.psbase = s.psbase ∧ t.qtbase = s.qtbase ∧ t.irqv = s.irqv ∧ t.pwrst = s.pwrst ∧ t.bootst = s.bootst ∧
      t.hbmCh = s.hbmCh ∧ t.windows = s.windows ∧ t.time = s.time

end Sys2Proof.Claims

/-- What operations leave as it was: all but a result for those that only compute, and the control registers for the rest. -/
def Obligations.Frames : Prop := Sys2Proof.Claims.ResultOnlyFrame ∧ Sys2Proof.Claims.ControlFrame

namespace Sys2Proof.Claims

/-- FPTE of MODE is zero: no float condition traps (R117, R164). -/
def noFloatTraps (st : Strand) : Prop := st.mode.extractLsb' 19 5 = 0

/-- The rounding mode of fpa.c (R151). -/
def rm (s : State) : Rnd := rndOf ((s.opnd 0x102).toNat % 4)

/-- With no float trap enabled the fpa operation i delivers, with latency L, the y and the conditions that f gives from RM
and the operands a, b and v; nothing else changes. -/
def FpaIs (i : Word → Instr) (L : Nat) (f : Rnd → Nat → Nat → Nat → Nat × Nat) : Prop :=
  ∀ v s, noFloatTraps s.me →
    exec (i v) s = .next (s.result .fpa (BitVec.ofNat 64 (f (rm s) (s.opnd 0x100).toNat (s.opnd 0x101).toNat v.toNat).1)
      (some (BitVec.ofNat 64 (f (rm s) (s.opnd 0x100).toNat (s.opnd 0x101).toNat v.toNat).2)) L)

/-- The same for an operation without conditions, given by what holds of y. -/
def FpaPlain (i : Word → Instr) (p : Nat → Nat → Nat → Prop) : Prop :=
  ∀ v s, noFloatTraps s.me →
    ∃ y, exec (i v) s = .next (s.result .fpa y (some 0) 1) ∧ p (s.opnd 0x100).toNat v.toNat y.toNat

/-- An exact value rounded once, with the conditions of the rounding and of an invalid operation (R155, R71). -/
def once (f : FFmt) (m : Rnd) (x : FVal × Bool) : Nat × Nat :=
  ((f.convert m false x.1).code, (f.convert m false x.1).flags + if x.2 then 16 else 0)

/-- A code is a NaN of FP64, of FP32. -/
abbrev nan64 (x : Nat) : Prop := 0x7FF0000000000000 < x % 2 ^ 63
abbrev nan32 (x : Nat) : Prop := 0x7F800000 < x % 2 ^ 31

/-- The order of the codes of a binary format of n bits: −0 and +0 are equal (R158). -/
def order (n x : Nat) : Int := if x / 2 ^ (n - 1) % 2 = 1 then -(x % 2 ^ (n - 1) : Nat) else (x % 2 ^ (n - 1) : Nat)

/-- The order that takes −0 below +0 (R157). -/
def orderZ (n x : Nat) : Int := if x / 2 ^ (n - 1) % 2 = 1 then -(x % 2 ^ (n - 1) : Nat) - 1 else (x % 2 ^ (n - 1) : Nat)

end Sys2Proof.Claims

/-- R65, the rounding of an exact magnitude N/D in units of the lowest kept bit: RTZ takes the integer part, RNE the nearest
and the even one of a tie, RDN and RUP the neighbour not greater and not less, and inexact says that anything was lost. -/
def Sys2Proof.Claims.RoundingStep : Prop :=
  ∀ (neg : Bool) (n d k : Nat) (e u : Int), 0 < d →
    ∀ N D : Nat, (e = u + k ∧ N = n * 2 ^ k ∧ D = d ∨ u = e + k ∧ N = n ∧ D = d * 2 ^ k) →
      (∀ m, (roundAt m neg n d e u).2 = decide (N % D ≠ 0)) ∧
      (roundAt .rtz neg n d e u).1 = N / D ∧
      (2 * N ≤ (2 * (roundAt .rne neg n d e u).1 + 1) * D ∧
        2 * (roundAt .rne neg n d e u).1 * D ≤ 2 * N + D ∧
        ((2 * N = (2 * (roundAt .rne neg n d e u).1 + 1) * D ∨ 2 * (roundAt .rne neg n d e u).1 * D = 2 * N + D) →
          (roundAt .rne neg n d e u).1 % 2 = 0)) ∧
      (roundAt .rdn neg n d e u).1 = (if neg then (N + D - 1) / D else N / D) ∧
      (roundAt .rup neg n d e u).1 = (if neg then N / D else (N + D - 1) / D)

/-- R155, R159 and R160: the arithmetic operations, rintd and the conversions deliver the exact value rounded once in
mode RM, with its conditions in z. -/
def Sys2Proof.Claims.FloatArithmetic : Prop :=
  FpaIs .fpaAddd 4 (fun m a _ v => once fp64 m (FVal.add m (fp64.decode a) (fp64.decode v))) ∧
  FpaIs .fpaSubd 4 (fun m a _ v => once fp64 m (FVal.add m (fp64.decode a) (fp64.decode v).neg)) ∧
  FpaIs .fpaMuld 4 (fun m a _ v => once fp64 m ((fp64.decode a).mul (fp64.decode v))) ∧
  FpaIs .fpaFmad 4 (fun m a b v => once fp64 m (FVal.fma m (fp64.decode a) (fp64.decode b) (fp64.decode v))) ∧
  FpaIs .fpaFmsd 4 (fun m a b v => once fp64 m (FVal.fma m (fp64.decode a) (fp64.decode b) (fp64.decode v).neg)) ∧
  FpaIs .fpaFnmad 4 (fun m a b v => once fp64 m (FVal.fma m (fp64.decode a).neg (fp64.decode b) (fp64.decode v))) ∧
  FpaIs .fpaAddf 3 (fun m a _ v => once fp32 m (FVal.add m (fp32.decode (a % 2 ^ 32)) (fp32.decode (v % 2 ^ 32)))) ∧
  FpaIs .fpaSubf 3 (fun m a _ v => once fp32 m (FVal.add m (fp32.decode (a % 2 ^ 32)) (fp32.decode (v % 2 ^ 32)).neg)) ∧
  FpaIs .fpaMulf 3 (fun m a _ v => once fp32 m ((fp32.decode (a % 2 ^ 32)).mul (fp32.decode (v % 2 ^ 32)))) ∧
  FpaIs .fpaFmaf 3 (fun m a b v =>
    once fp32 m (FVal.fma m (fp32.decode (a % 2 ^ 32)) (fp32.decode (b % 2 ^ 32)) (fp32.decode (v % 2 ^ 32)))) ∧
  FpaIs .fpaRintd 2 (fun m _ _ v => ((fp64.integral m v).code, (fp64.integral m v).flags)) ∧
  FpaIs .fpaCvtfd 2 (fun m _ _ v => once fp64 m (fp32.decode (v % 2 ^ 32), false)) ∧
  FpaIs .fpaCvtdf 2 (fun m _ _ v => once fp32 m (fp64.decode v, false)) ∧
  FpaIs .fpaCvtdh 2 (fun m _ _ v => once fp16 m (fp64.decode v, false)) ∧
  FpaIs .fpaCvthd 2 (fun m _ _ v => once fp64 m (fp16.decode (v % 2 ^ 16), false)) ∧
  FpaIs .fpaCvtdb 2 (fun m _ _ v => once bf16 m (fp64.decode v, false)) ∧
  FpaIs .fpaCvtbd 2 (fun m _ _ v => once fp64 m (bf16.decode (v % 2 ^ 16), false)) ∧
  FpaIs .fpaCvtld 2 (fun m _ _ v => once fp64 m (ofInteger (signed 64 v), false)) ∧
  FpaIs .fpaCvtlud 2 (fun m _ _ v => once fp64 m (ofInteger v, false)) ∧
  FpaIs .fpaCvtwf 2 (fun m _ _ v => once fp32 m (ofInteger (signed 32 v), false)) ∧
  FpaIs .fpaCvtdl 2 (fun m _ _ v =>
    let r := toInteger m (-2 ^ 63) (2 ^ 63 - 1) (fp64.decode v); ((r.1 % 2 ^ 64).toNat, r.2.1)) ∧
  FpaIs .fpaCvtdlu 2 (fun m _ _ v =>
    let r := toInteger m 0 (2 ^ 64 - 1) (fp64.decode v); ((r.1 % 2 ^ 64).toNat, r.2.1)) ∧
  FpaIs .fpaCvtfw 2 (fun m _ _ v =>
    let r := toInteger m (-2 ^ 31) (2 ^ 31 - 1) (fp32.decode (v % 2 ^ 32)); ((r.1 % 2 ^ 64).toNat, r.2.1))

/-- R65, R155, R159, R160: rounding, and the operations that round once. -/
def Obligations.FloatRoundedArithmetic : Prop := Sys2Proof.Claims.RoundingStep ∧ Sys2Proof.Claims.FloatArithmetic

/-- R157: minimum and maximum take −0 below +0 and the other operand for one NaN; the sign operations touch bit 63 alone and
give the canonical NaN for a NaN. -/
def Sys2Proof.Claims.FloatSelectSign : Prop :=
  FpaPlain .fpaAbsd (fun _ v y => (nan64 v → y = 0x7FF8000000000000) ∧ (¬ nan64 v → y = v % 2 ^ 63)) ∧
  FpaPlain .fpaNegd (fun _ v y => (nan64 v → y = 0x7FF8000000000000) ∧ (¬ nan64 v → y = (v + 2 ^ 63) % 2 ^ 64)) ∧
  FpaPlain .fpaMind (fun a v y => (nan64 a → nan64 v → y = 0x7FF8000000000000) ∧ (nan64 a → ¬ nan64 v → y = v) ∧
    (¬ nan64 a → nan64 v → y = a) ∧ (¬ nan64 a → ¬ nan64 v → y = if orderZ 64 v < orderZ 64 a then v else a)) ∧
  FpaPlain .fpaMaxd (fun a v y => (nan64 a → nan64 v → y = 0x7FF8000000000000) ∧ (nan64 a → ¬ nan64 v → y = v) ∧
    (¬ nan64 a → nan64 v → y = a) ∧ (¬ nan64 a → ¬ nan64 v → y = if orderZ 64 a < orderZ 64 v then v else a)) ∧
  FpaPlain .fpaMinf (fun a v y => (nan32 a → nan32 v → y = 0x7FC00000) ∧ (nan32 a → ¬ nan32 v → y = v % 2 ^ 32) ∧
    (¬ nan32 a → nan32 v → y = a % 2 ^ 32) ∧
    (¬ nan32 a → ¬ nan32 v → y = (if orderZ 32 v < orderZ 32 a then v else a) % 2 ^ 32)) ∧
  FpaPlain .fpaMaxf (fun a v y => (nan32 a → nan32 v → y = 0x7FC00000) ∧ (nan32 a → ¬ nan32 v → y = v % 2 ^ 32) ∧
    (¬ nan32 a → nan32 v → y = a % 2 ^ 32) ∧
    (¬ nan32 a → ¬ nan32 v → y = (if orderZ 32 a < orderZ 32 v then v else a) % 2 ^ 32))

/-- R158: the comparisons are those of the values, zeros being equal, and a NaN makes every one 0 but cund; classd sets the
one bit of the class. -/
def Sys2Proof.Claims.FloatCompareClass : Prop :=
  FpaPlain .fpaCeqd (fun a v y => y = if nan64 a ∨ nan64 v then 0 else if order 64 a = order 64 v then 1 else 0) ∧
  FpaPlain .fpaCltd (fun a v y => y = if nan64 a ∨ nan64 v then 0 else if order 64 a < order 64 v then 1 else 0) ∧
  FpaPlain .fpaCled (fun a v y => y = if nan64 a ∨ nan64 v then 0 else if order 64 a ≤ order 64 v then 1 else 0) ∧
  FpaPlain .fpaCund (fun a v y => y = if nan64 a ∨ nan64 v then 1 else 0) ∧
  FpaPlain .fpaCeqf (fun a v y => y = if nan32 a ∨ nan32 v then 0 else if order 32 a = order 32 v then 1 else 0) ∧
  FpaPlain .fpaCltf (fun a v y => y = if nan32 a ∨ nan32 v then 0 else if order 32 a < order 32 v then 1 else 0) ∧
  FpaPlain .fpaClef (fun a v y => y = if nan32 a ∨ nan32 v then 0 else if order 32 a ≤ order 32 v then 1 else 0) ∧
  FpaPlain .fpaClassd (fun _ v y =>
    let m := v % 2 ^ 63
    let s := v / 2 ^ 63
    y = 2 ^ (if 0x7FF0000000000000 < m then 8 else if m = 0x7FF0000000000000 then (if s = 1 then 0 else 7)
      else if m = 0 then (if s = 1 then 3 else 4) else if m < 2 ^ 52 then (if s = 1 then 2 else 5)
      else if s = 1 then 1 else 6))

/-- R157, R158: minimum, maximum, sign, comparison and class. -/
def Obligations.FloatSelectAndCompare : Prop := Sys2Proof.Claims.FloatSelectSign ∧ Sys2Proof.Claims.FloatCompareClass

namespace Sys2Proof.Claims

/-- An expansion just begun: the strand's, at step 0, on copies of a, v and fpa.c, with the tile's fpa occupied (R162). -/
def Expands (i : Word → Instr) (op : ExpOp) : Prop :=
  ∀ v s, ∃ t e, exec (i v) s = .next t ∧ t.me.exp = some e ∧ t.here.fpaOwner = some s.cur.2 ∧ e.op = op ∧ e.step = 0 ∧
    e.v = v ∧ e.a = s.opnd 0x100 ∧ e.c = s.opnd 0x102 ∧ e.trap = s.me.tl ∧ t.me.bank = s.me.bank ∧
    t.here.pool = s.here.pool ∧ (∀ u, u ≠ s.cur.1 → t.tile u = s.tile u)

/-- The state is one in which strand k of tile t may take a step of the expansion e. -/
def mayStep (s : State) (t k : Nat) (e : Exp) : Prop :=
  (s.strand t k).exp = some e ∧ e.op ≠ .blk ∧ e.fault = none ∧ (s.strand t k).status = .live ∧ (s.tile t).stopped = false ∧
    ((s.tile t).fpaOwner = none ∨ (s.tile t).fpaOwner = some k)

end Sys2Proof.Claims

/-- R161 to R163: divd and sqrtd expand into six steps on copies of their operands; the first five only count, and the
sixth delivers the quotient or the root rounded once, with its conditions, and frees the fpa. Where FPTE enables one of these
conditions, the sixth delivers nothing and leaves the expansion at its step with the fault for the strand's trap 0x37. -/
def Sys2Proof.Claims.FloatExpansion : Prop :=
  Expands .fpaDivd .divd ∧ Expands .fpaSqrtd .sqrtd ∧
  (∀ s t k e, mayStep s t k e → e.step < 5 →
    ∃ s', exec (.expansionStep t k) s = .next s' ∧ (s'.strand t k).exp = some { e with step := e.step + 1 } ∧
      (s'.strand t k).user = (s.strand t k).user ∧ (s'.tile t).pool = (s.tile t).pool) ∧
  (∀ s t k e, mayStep s t k e → e.step = 5 → noFloatTraps (s.strand t k) →
    ∃ s', exec (.expansionStep t k) s = .next s' ∧ (s'.strand t k).exp = none ∧ (s'.tile t).fpaOwner = none ∧
      (s'.tile t).pool = (s.tile t).pool ∧
      ∃ r ∈ ((s'.strand t k).bankAt e.trap).res, r.unit = .fpa ∧
        let q := if e.op = .sqrtd then fp64.squareRoot (rndOf (e.c.toNat % 4)) (fp64.decode e.v.toNat)
          else fp64.divide (rndOf (e.c.toNat % 4)) (fp64.decode e.a.toNat) (fp64.decode e.v.toNat)
        r.y = some (BitVec.ofNat 64 q.code) ∧ r.z = some (BitVec.ofNat 64 q.flags)) ∧
  (∀ s t k e, mayStep s t k e → e.step = 5 →
    let q := if e.op = .sqrtd then fp64.squareRoot (rndOf (e.c.toNat % 4)) (fp64.decode e.v.toNat)
      else fp64.divide (rndOf (e.c.toNat % 4)) (fp64.decode e.a.toNat) (fp64.decode e.v.toNat)
    q.flags % 32 &&& ((s.strand t k).mode.extractLsb' 19 5).toNat ≠ 0 →
      ∃ s', exec (.expansionStep t k) s = .next s' ∧ (s'.tile t).fpaOwner = none ∧
        (s'.strand t k).exp = some { e with fault := some (0x28,
          BitVec.ofNat 64 (q.flags % 32 * 1024 + if e.op = .sqrtd then 0x10C else 0x10B)) } ∧
        (s'.strand t k).user = (s.strand t k).user ∧ (s'.strand t k).trap = (s.strand t k).trap)

/-- R164: an fpa operation other than divd and sqrtd either delivers a result none of whose conditions FPTE enables, or
delivers none and stays latched with trap 0x28, whose SINFO holds the conditions, one of them enabled, and the port. -/
def Sys2Proof.Claims.FloatTraps : Prop :=
  ∀ (port : Nat) (v : Word) (g : Bool) (chop : Nat) (i : Instr) (s : State),
    0x105 ≤ port → port ≤ 0x12B → port ≠ 0x10B → port ≠ 0x10C → decodeTrigger port v g chop = some i →
      ∃ y fl L,
        (fl % 32 &&& (s.me.mode.extractLsb' 19 5).toNat = 0 →
          exec i s = .next (s.result .fpa y (some (BitVec.ofNat 64 fl)) L)) ∧
        (fl % 32 &&& (s.me.mode.extractLsb' 19 5).toNat ≠ 0 →
          exec i s = .next (s.latch { port := port, v := v, g := true, chop := (s.opnd 0x1E2).toNat % 8 } 0x28
            (BitVec.ofNat 64 (fl % 32 * 1024 + port))))

/-- R161, R162, R164: the expanded operations, and the traps of fpa. -/
def Obligations.FloatExpansionAndTraps : Prop := Sys2Proof.Claims.FloatExpansion ∧ Sys2Proof.Claims.FloatTraps

namespace Sys2Proof.Claims

/-- The FP32 code of a number of ulps counted from zero, infinity past the largest finite; a zero takes the sign asked for. -/
def signedCode (below : Bool) (c : Int) : Nat :=
  (if c < 0 ∨ (c = 0 ∧ below = true) then 2 ^ 31 else 0) + min c.natAbs 0x7F800000

/-- R167 and R169: for a finite input that R168 does not list, the result is the exact one where R169 names one that the format
holds, the correctly rounded root for sqrt, and otherwise a code of FP32 in the range that the bound of R167 leaves around the
value the model computes (log entry 8), rounded once with RNE to the format. -/
def SfuBounded (f : SfuFn) : Prop :=
  ∀ sf x, sf < 3 → ∀ neg m e, (sfFmt sf).decode (x % 2 ^ (sfFmt sf).width) = .fin neg m e →
    f.special (.fin neg m e) = none →
      if f = .sqrt then (f.apply (sfFmt sf) sf x).1 = ((sfFmt sf).squareRoot .rne (.fin neg m e)).code
      else
        (∃ z, f.exact neg m e = some z ∧ ((sfFmt sf).convert .rne false z).flags = 0 ∧
          (f.apply (sfFmt sf) sf x).1 = ((sfFmt sf).convert .rne false z).code) ∨
        ∃ c below, (f.codes (fxOf neg m e) (f.value neg m e)).1 ≤ c ∧ c ≤ (f.codes (fxOf neg m e) (f.value neg m e)).2 ∧
          (f.apply (sfFmt sf) sf x).1 = ((sfFmt sf).convert .rne false (fp32.decode (signedCode below c))).code

/-- With no float trap enabled the sfu operation delivers, with its latency, what R166 to R170 let it deliver for the
format that SF names and the input; bits inside the bounds of R167 are free values of Config. -/
def SfuIs (i : Word → Instr) (f : SfuFn) (L : Nat) : Prop :=
  SfuBounded f ∧ ∀ v s, noFloatTraps s.me →
    ∃ sf y, (sf = (if (s.opnd 0x140).toNat % 4 = 1 then 1 else if (s.opnd 0x140).toNat % 4 = 2 then 2 else 0)) ∧
      exec (i v) s = .next (s.result .sfu y none L) ∧ y.toNat = (f.apply (sfFmt sf) sf v.toNat).1 % 2 ^ 64

/-- In FP32 the sfu operation gives y for the input x. -/
def SfuGives (i : Word → Instr) (x y : Nat) : Prop :=
  ∀ v s, noFloatTraps s.me → (s.opnd 0x140).toNat % 4 = 0 → v.toNat % 2 ^ 32 = x →
    ∃ L, exec (i v) s = .next (s.result .sfu (BitVec.ofNat 64 y) none L)

end Sys2Proof.Claims

/-- R166 to R168: every sfu operation runs, in the format of SF, with its latency. Where R168 gives a special value the
result is it, whatever the free values: stated here in FP32 for zeros, infinities, a negative number and a NaN. For every other
input the code delivered lies in the range that R167 allows around the value the model computes (log entry 8). -/
def Obligations.SpecialFunctions : Prop :=
  SfuIs .sfuRcp .rcp 4 ∧ SfuIs .sfuRsqrt .rsqrt 4 ∧ SfuIs .sfuSqrt .sqrt 4 ∧ SfuIs .sfuExp2 .exp2 4 ∧
  SfuIs .sfuExp .exp 6 ∧ SfuIs .sfuLog2 .log2 4 ∧ SfuIs .sfuLn .ln 6 ∧ SfuIs .sfuSinpi .sinpi 6 ∧
  SfuIs .sfuCospi .cospi 6 ∧ SfuIs .sfuTanh .tanh 6 ∧ SfuIs .sfuSigm .sigm 6 ∧ SfuIs .sfuGelu .gelu 6 ∧
  SfuIs .sfuSilu .silu 6 ∧ SfuIs .sfuErf .erf 6 ∧
  SfuGives .sfuRcp 0 0x7F800000 ∧ SfuGives .sfuRcp 0x80000000 0xFF800000 ∧ SfuGives .sfuRcp 0xFF800000 0x80000000 ∧
  SfuGives .sfuRsqrt 0x80000000 0xFF800000 ∧ SfuGives .sfuRsqrt 0x7F800000 0 ∧ SfuGives .sfuRsqrt 0xBF800000 0x7FC00000 ∧
  SfuGives .sfuSqrt 0x80000000 0x80000000 ∧ SfuGives .sfuSqrt 0xBF800000 0x7FC00000 ∧
  SfuGives .sfuExp2 0x80000000 0x3F800000 ∧ SfuGives .sfuExp2 0xFF800000 0 ∧ SfuGives .sfuExp 0 0x3F800000 ∧
  SfuGives .sfuLog2 0 0xFF800000 ∧ SfuGives .sfuLog2 0x7F800000 0x7F800000 ∧ SfuGives .sfuLn 0xBF800000 0x7FC00000 ∧
  SfuGives .sfuSinpi 0x80000000 0x80000000 ∧ SfuGives .sfuSinpi 0x7F800000 0x7FC00000 ∧
  SfuGives .sfuCospi 0 0x3F800000 ∧ SfuGives .sfuTanh 0xFF800000 0xBF800000 ∧ SfuGives .sfuErf 0x7F800000 0x3F800000 ∧
  SfuGives .sfuSigm 0x80000000 0x3F000000 ∧ SfuGives .sfuSigm 0xFF800000 0 ∧ SfuGives .sfuGelu 0xFF800000 0x80000000 ∧
  SfuGives .sfuSilu 0x80000000 0x80000000 ∧ SfuGives .sfuErf 0x7FC00001 0x7FC00000

/-! ## Control, registers, traps -/

/-- Nothing changes but the issuing strand, which becomes st. -/
def Sys2Proof.Claims.onlyMe (s t : State) (st : Strand) : Prop :=
  t.me = st ∧ t = { s with tiles := t.tiles } ∧ (∀ u, u ≠ s.cur.1 → t.tile u = s.tile u) ∧
    t.here = { s.here with strands := t.here.strands } ∧ ∀ k, k ≠ s.cur.2 → t.here.strand k = s.here.strand k

/-- The strand with these of its protected words written whole: no error stands in them (R380). -/
def Sys2Proof.Claims.renewed (st : Strand) (cells : List Nat) : Strand :=
  { st with bad := st.bad.filter fun w => !cells.contains w, weak := st.weak.filter fun w => !cells.contains w }

/-- The word stands in its strand's latches as a kind-A operation with this cause and SINFO, and nothing else has changed
(R165, R345). -/
def Sys2Proof.Claims.latchedAs (s t : State) (port : Nat) (v : Word) (cause : Nat) (info : Word) : Prop :=
  ∃ l : Latched, l.op.port = port ∧ l.op.v = v ∧ l.cause = cause ∧ l.info = info ∧ t = s.setMe (s.me.addLatched l)

/-- The operation stands in its strand's latches with trap 0x31 for the pool's word at b, and no pool has changed (R379). -/
def Sys2Proof.Claims.latchedPool (s t : State) (port : Nat) (v : Word) (b : Nat) : Prop :=
  ∃ l, (if s.me.tl then t.me.latchedT else t.me.latched).getLast? = some l ∧ l.op.port = port ∧ l.op.v = v ∧
    l.cause = 0x31 ∧ l.info = BitVec.ofNat 64 (b % 2 ^ 52) ∧ ∀ u, (t.tile u).pool = (s.tile u).pool

/-- R119, R120, R379: crf.rd reads at firing the register its index names, and traps with 0x31 where an uncorrectable error
stands in it (SINFO for a register that lies in no pool: log entry 61, the model's choice); crf.wr writes a common register into
the tile's pool and
MODE and FMT from the next issue; other indexes read 0 and are not written. Writing a common register changes no other
byte of any pool or of HBM, and no register, predicate or status of any strand. -/
def Sys2Proof.Claims.CommonRegisters : Prop :=
  (∀ v s, cleanReg s 0x0F2 v → ∃ y, exec (.crfRd v) s = .next (s.result .crf y none 2) ∧
    let i := v.toNat % 2 ^ 11
    (i < 0x400 → y.toNat = leNat (s.here.pool.readBytes (8 * i) 8)) ∧
    (i = 0x400 → y.toNat = s.me.mode.toNat) ∧ (i = 0x401 → y.toNat = s.me.fmt.toNat) ∧
    (i = 0x402 → y.toNat = s.me.tbank.toNat) ∧ (0x402 < i → y = 0)) ∧
  (∀ v s b, let i := v.toNat % 2 ^ 11
    i < 0x400 → hasBad s.here.poolBad (8 * i) 8 = some b → ∃ t, exec (.crfRd v) s = .next t ∧ latchedPool s t 0x0F2 v b) ∧
  (∀ v s, let i := v.toNat % 2 ^ 11
    0x400 ≤ i → (∃ w ∈ crfCells i, w ∈ s.me.bad) → ∃ t info, exec (.crfRd v) s = .next t ∧ latchedAs s t 0x0F2 v 0x31 info) ∧
  (∀ v s, let i := (s.opnd 0x0F0).toNat % 2 ^ 11
    (i < 0x400 → ∃ t, exec (.crfWr v) s = .next t ∧ t.here.pool.readBytes (8 * i) 8 = leBytes v.toNat 8 ∧
      (∀ a, a < 8 * i ∨ 8 * i + 8 ≤ a → t.here.pool.read a = s.here.pool.read a) ∧
      (∀ u, u ≠ s.cur.1 → (t.tile u).pool = (s.tile u).pool) ∧ t.hbm = s.hbm ∧
      (∀ u k, (t.strand u k).regs = (s.strand u k).regs ∧ (t.strand u k).pw = (s.strand u k).pw ∧
        (t.strand u k).sstat = (s.strand u k).sstat ∧ (t.strand u k).mode = (s.strand u k).mode)) ∧
    (i = 0x400 → ∃ t, exec (.crfWr v) s = .next t ∧ onlyMe s t { renewed s.me [sysCell 6] with
      next := { s.me.next with mode := some (v.truncate 24 &&& 0xFF0FFF) } }) ∧
    (i = 0x401 → ∃ t, exec (.crfWr v) s = .next t ∧ onlyMe s t { renewed s.me [sysCell 7] with
      next := { s.me.next with fmt := some (v.truncate 16) } }) ∧
    (0x401 < i → exec (.crfWr v) s = .next s))

namespace Sys2Proof.Claims

/-- The strand with two delay issues opened (R289). -/
def opened (st : Strand) (annul taken : Bool) (target : BitVec 24) : Strand :=
  { st with delay := some { cnt := 2, annul := annul, taken := taken, target := target } }

end Sys2Proof.Claims

/-- R287 to R289, R294 and R295: what each transfer opens, what a call pushes (to the store, or spilling its oldest entry to
the strand's spill area), what a return pops, and traps 0x08 and 0x09. R380: a return address that cannot be read, in the store
or in the spill area, is trap 0x31 (SINFO of the store's: log entry 61, the model's choice). -/
def Obligations.Transfers : Prop :=
  (∀ v s, exec (.cuJmp v) s = .next (s.setMe (opened s.me false true (v.truncate 24)))) ∧
  (∀ v s, exec (.cuBr v) s = .next (s.setMe (opened s.me false true (s.me.ia + v.truncate 24)))) ∧
  (∀ v s, exec (.cuBrl true v) s = .next (s.setMe (opened s.me false true (s.me.ia + v.truncate 24)))) ∧
  (∀ v s, exec (.cuBrl false v) s = .next (s.setMe (opened s.me true false 0))) ∧
  (∀ v s, exec (.cuBrk true v) s = .next (s.setMe (opened s.me true true (s.me.ia + v.truncate 24)))) ∧
  (∀ v s, exec (.cuBrk false v) s = .next (s.setMe (opened s.me false false 0))) ∧
  (∀ v s, s.me.ret.length < 16 → ∃ t r, exec (.cuCall v) s = .next t ∧
    onlyMe s t (opened { renewed s.me [retCell (s.me.sdepth + s.me.ret.length)] with ret := r :: s.me.ret } false true
      (v.truncate 24)) ∧
    ∀ p q rest, s.parcels s.cur.1 s.me.pc.toNat (s.objLen s.cur.1) = p :: q :: rest → p.toNat < 2 ^ 15 → p.toNat / 8 % 8 = 0 →
      q.toNat < 2 ^ 15 → q.toNat / 8 % 8 = 0 → r = s.me.pc + 2) ∧
  (∀ v s, s.me.ret.length = 16 → s.me.sdepth < 64 → retCell (s.me.sdepth + 16) ∈ s.me.bad →
    ∃ t info, exec (.cuCall v) s = .next t ∧ latchedAs s t 0x005 v 0x31 info) ∧
  (∀ v s, s.me.ret.length = 16 → s.me.sdepth < 64 → retCell (s.me.sdepth + 16) ∉ s.me.bad → ∃ t r old, exec (.cuCall v) s = .next t ∧
    s.me.ret.getLast? = some old ∧ t.me.ret = r :: s.me.ret.dropLast ∧ t.me.sdepth = s.me.sdepth + 1 ∧
    t.me.delay = some { cnt := 2, annul := false, taken := true, target := v.truncate 24 } ∧
    let a := 0x2000 + 512 * s.cur.2 + 8 * s.me.sdepth
    t.here.pool.readBytes a 8 = leBytes old.toNat 8 ∧
      (∀ c, c < a ∨ a + 8 ≤ c → t.here.pool.read c = s.here.pool.read c) ∧
      (∀ u, u ≠ s.cur.1 → (t.tile u).pool = (s.tile u).pool) ∧ t.me.regs = s.me.regs) ∧
  (∀ v s, 16 ≤ s.me.ret.length → 64 ≤ s.me.sdepth → ∃ t, exec (.cuCall v) s = .next t ∧
    latchedAs s t 0x005 v 0x09 0x005) ∧
  (∀ v s r rest, s.me.ret = r :: rest → retCell (s.me.sdepth + rest.length) ∉ s.me.bad →
    (retCell (s.me.sdepth + rest.length) ∉ s.me.weak →
      exec (.cuRet v) s = .next (s.setMe (opened { s.me with ret := rest } false true r))) ∧
    ∃ t, exec (.cuRet v) s = .next t ∧ t.me.ret = rest ∧ t.me.sdepth = s.me.sdepth ∧ t.me.regs = s.me.regs ∧
      t.me.delay = some { cnt := 2, annul := false, taken := true, target := r } ∧
      (∀ u, (t.tile u).pool = (s.tile u).pool) ∧ t.hbm = s.hbm) ∧
  (∀ v s r rest, s.me.ret = r :: rest → retCell (s.me.sdepth + rest.length) ∈ s.me.bad →
    ∃ t info, exec (.cuRet v) s = .next t ∧ latchedAs s t 0x006 v 0x31 info) ∧
  (∀ v s d b, s.me.ret = [] → s.me.sdepth = d + 1 → hasBad s.here.poolBad (0x2000 + 512 * s.cur.2 + 8 * d) 8 = some b →
    ∃ t, exec (.cuRet v) s = .next t ∧ latchedPool s t 0x006 v b) ∧
  (∀ v s d, s.me.ret = [] → s.me.sdepth = d + 1 → hasBad s.here.poolBad (0x2000 + 512 * s.cur.2 + 8 * d) 8 = none →
    wordsIn s.here.poolWeak (0x2000 + 512 * s.cur.2 + 8 * d) 8 = [] →
    exec (.cuRet v) s = .next (s.setMe (opened { s.me with sdepth := d } false true
      (BitVec.ofNat 24 (leNat (s.here.pool.readBytes (0x2000 + 512 * s.cur.2 + 8 * d) 8)))))) ∧
  (∀ v s, s.me.ret = [] → s.me.sdepth = 0 → ∃ t, exec (.cuRet v) s = .next t ∧ latchedAs s t 0x006 v 0x08 0x006)

/-- R296 to R301: starting a helper, ending, yielding, meeting, loading an overlay, and the two software traps; R397: a helper
of a service tile starts in supervisor mode. The strand's own arrival of a held cu.meet, and its open arrivals that a
cu.trymeet polls, are those of R299: a cu.trymeet of a handler polls the arrival of the cu.meet that its trap interrupted. -/
def Obligations.StrandControl : Prop :=
  (∀ v s, s.freeSlots s.cur.1 = [] → exec (.cuStart v) s = .next (s.result .cu (-1) none 2)) ∧
  (∀ v s k rest, s.freeSlots s.cur.1 = k :: rest → s.me.status = .live →
    ∃ t n, exec (.cuStart v) s = .next t ∧ t.strand s.cur.1 k = n ∧ n.status = .live ∧
      n.pc = (s.opnd 0x000).truncate 24 ∧ Map.find 0 n.regs 0 = BitVec.ofNat 64 s.here.ltile ∧
      Map.find 0 n.regs 1 = v ∧ Map.find 0 n.regs 2 = s.opnd 0x001 ∧ Map.find 0 n.regs 3 = Map.find 0 s.me.regs 3 ∧
      Map.find 0 n.regs 4 = Map.find 0 s.me.regs 4 ∧ (∀ j, 5 ≤ j → Map.find 0 n.regs j = 0) ∧ n.pw = 1 ∧
      n.mode = s.me.mode ∧ n.fmt = s.me.fmt ∧ n.sup = isService s.cur.1 ∧ n.tbank = 0 ∧ n.mxs = 0 ∧ n.ret = [] ∧ n.sdepth = 0 ∧ n.delay = none ∧
      (∃ r ∈ t.me.bank.res, r.unit = .cu ∧ r.y = some (BitVec.ofNat 64 k)) ∧ t.me.regs = s.me.regs) ∧
  (∀ v s, exec (.cuHalt v) s = .next (s.setMe { s.me with ending := true })) ∧
  (∀ v s, exec (.cuYield v) s = .next (s.setMe { s.me with yielded := true })) ∧
  (∀ v s g, let m := v.toNat % 8
    s.me.ownMeet m = some g → (s.here.meet m).gen ≠ g →
      ∃ t, exec (.cuMeet v) s = .next t ∧ (∀ e ∈ t.me.meets, e.1 ≠ m ∧ e.1 ≠ m + 8 ∧ e.1 ≠ m + 16) ∧
        t.here.meets = s.here.meets ∧ t.here.pool = s.here.pool) ∧
  (∀ v s, let m := v.toNat % 8
    let q := s.here.meet m
    s.me.ownMeet m = none → q.count + 1 = (if q.count = 0 then v.toNat / 256 % 16 + 1 else q.parties) →
      ∃ t, exec (.cuMeet v) s = .next t ∧ (∀ e ∈ t.me.meets, e.1 ≠ m ∧ e.1 ≠ m + 8) ∧ (t.here.meet m).count = 0 ∧
        (t.here.meet m).gen = (q.gen + 1) % 256 ∧ t.here.pool = s.here.pool) ∧
  (∀ v s g, let m := v.toNat % 8
    s.me.polled m = some g → (s.here.meet m).gen ≠ g →
      ∃ t, exec (.cuTrymeet v) s = .next t ∧ (∀ e ∈ t.me.meets, e.1 ≠ m ∧ (e.1 = m + 8 → e.2 ≠ g)) ∧
        t.here.meets = s.here.meets ∧ (∃ r ∈ t.me.bank.res, r.unit = .cu ∧ r.y = some 0) ∧ t.here.pool = s.here.pool) ∧
  (∀ v s, let m := v.toNat % 8
    s.me.polled m = some (s.here.meet m).gen → exec (.cuTrymeet v) s = .next (s.result .cu 1 none 2)) ∧
  (∀ v s, let m := v.toNat % 8
    let q := s.here.meet m
    s.me.polled m = none → q.count + 1 ≠ (if q.count = 0 then v.toNat / 256 % 16 + 1 else q.parties) →
      ∃ t, exec (.cuTrymeet v) s = .next t ∧ (m, q.gen) ∈ t.me.meets ∧ (t.here.meet m).count = q.count + 1 ∧
        (t.here.meet m).gen = q.gen ∧ ∃ r ∈ t.me.bank.res, r.unit = .cu ∧ r.y = some 1) ∧
  (∀ v s o, s.objOf s.cur.1 = some o →
    ((∀ e ∈ o.overlays, e.1 ≠ v.toNat % 256) → exec (.cuTload v) s = .next (s.result .cu 1 none 2)) ∧
    ((∃ e ∈ o.overlays, e.1 = v.toNat % 256) → ∃ t, exec (.cuTload v) s = .next t ∧
      t.me.block = some (.tload (v.toNat % 256)) ∧ t.here.loading.isSome ∧ t.here.pool = s.here.pool)) ∧
  (∀ t s o n ws, (s.tile t).loading = some n → s.objOf t = some o → (o.overlays.find? fun e => e.1 == n) = some (n, ws) →
    ∃ s', exec (.overlayLoaded t) s = .next s' ∧ (s'.tile t).overlay = some n ∧
      (∀ j, j < 256 → Map.find emptyWord (s'.tile t).table (256 + j) = ws.getD j emptyWord) ∧
      (∀ j, j < 256 → Map.find emptyWord (s'.tile t).table j = Map.find emptyWord (s.tile t).table j) ∧
      (∀ k, (s.strand t k).block = some (.tload n) → (s'.strand t k).block = none)) ∧
  (∀ v s, ∃ t, exec (.cuScall v) s = .next t ∧ latchedAs s t 0x00F v 0x2C (BitVec.ofNat 64 (v.toNat % 2 ^ 16))) ∧
  (∀ v s, ∃ t, exec (.cuBkpt v) s = .next t ∧ latchedAs s t 0x010 v 0x2A (BitVec.ofNat 64 (v.toNat % 2 ^ 16)))

/-- R123: sys.rdsr delivers the system register its number names, 0 for an unlisted one; sys.wrsr writes the listed strand
registers (SSTAT, MODE, FMT, SRKEY and TBANK from the next issue; HND, TL and the zero bits of SSTAT as they were) and ignores
every other number. R379, R380: a register that cannot be read is trap 0x31 (SINFO: log entry 61, the model's choice), and one
written whole has no error. -/
def Sys2Proof.Claims.SystemRegisters : Prop :=
  (∀ v s, v.toNat % 128 < 10 → sysCell (v.toNat % 128) ∈ s.me.bad →
    ∃ t info, exec (.sysRdsr v) s = .next t ∧ latchedAs s t 0x2C3 v 0x31 info) ∧
  (∀ v s, cleanReg s 0x2C3 v → ∃ y, exec (.sysRdsr v) s = .next (s.resultLocked .sys y 2) ∧
    let n := v.toNat % 128
    (n = 0x00 → y.toNat = s.me.sstat.toNat) ∧ (n = 0x01 → y = s.me.spc) ∧ (n = 0x02 → y = s.me.scause) ∧
    (n = 0x03 → y = s.me.sinfo) ∧ (n = 0x04 → y = s.me.sds) ∧ (n = 0x05 → y = s.me.xstep) ∧
    (n = 0x06 → y.toNat = s.me.mode.toNat) ∧ (n = 0x07 → y.toNat = s.me.fmt.toNat) ∧ (n = 0x08 → y = s.me.srkey) ∧
    (n = 0x09 → y.toNat = s.me.tbank.toNat) ∧ (n = 0x0A → y.toNat = s.me.issue % 2 ^ 64) ∧
    (n = 0x40 → y = s.here.partword) ∧ (n = 0x41 → y.toNat = s.cur.1 % 2 ^ 64) ∧
    (n = 0x42 → y.toNat = s.here.ltile % 2 ^ 64) ∧ (n = 0x43 → y.toNat = s.here.ctx.toNat) ∧
    (n = 0x44 → y.toNat = s.here.hwin.toNat) ∧ (n = 0x45 → y.toNat = s.time % 2 ^ 64) ∧
    (n = 0x46 → y.toNat = s.here.cycle % 2 ^ 64) ∧ (n = 0x47 → y = s.budget s.cur.1 s.cur.2) ∧
    (n = 0x48 → wraps s.here.mbudget y) ∧ (n = 0x49 → y = s.stipeimb s.cur.1) ∧
    (0x0A < n → n < 0x40 → y = 0) ∧ (0x49 < n → y = 0)) ∧
  (∀ v s, let n := v.toNat % 128
    let a := s.opnd 0x2C0
    (n = 0x00 → ∃ x : BitVec 16, exec (.sysWrsr v) s = .next (s.setMe { s.me with next := { s.me.next with sstat := some x } }) ∧
      ∀ i, i < 16 → x.getLsbD i =
        if i = 2 ∨ i = 5 ∨ i = 6 ∨ i = 7 ∨ i = 13 then s.me.sstat.getLsbD i else a.getLsbD i) ∧
    (1 ≤ n → n < 10 → ∃ t, exec (.sysWrsr v) s = .next t ∧
      let r := renewed s.me [sysCell n]
      (n = 0x01 → onlyMe s t { r with spc := a }) ∧ (n = 0x02 → onlyMe s t { r with scause := a }) ∧
      (n = 0x03 → onlyMe s t { r with sinfo := a }) ∧ (n = 0x04 → onlyMe s t { r with sds := a }) ∧
      (n = 0x05 → onlyMe s t { r with xstep := a }) ∧
      (n = 0x06 → onlyMe s t { r with next := { r.next with mode := some (a.truncate 24 &&& 0xFF0FFF) } }) ∧
      (n = 0x07 → onlyMe s t { r with next := { r.next with fmt := some (a.truncate 16) } }) ∧
      (n = 0x08 → onlyMe s t { r with next := { r.next with key := some a } }) ∧
      (n = 0x09 → onlyMe s t { r with next := { r.next with tbank := some (a.truncate 8) } })) ∧
    (0x09 < n → exec (.sysWrsr v) s = .next s))

/-- R119, R120, R123: common registers and system registers. -/
def Obligations.Registers : Prop := Sys2Proof.Claims.CommonRegisters ∧ Sys2Proof.Claims.SystemRegisters

namespace Sys2Proof.Claims

/-- The cause and SINFO of what is taken at a boundary (R348). -/
def causeOf (b : Boundary) : Nat × Word :=
  match b with
  | .latched l => (l.cause, l.info)
  | .fault _ c w => (c, w)
  | .step => (0x2B, 0)
  | .exp _ w => (0x37, w)
  | .resume i => (0x34, i)
  | .host p => (0x35, p.zeroExtend 64)
  | .tile i _ => (0x36, i)

/-- The strand after entering a handler at pc: the saved registers, the status, the bank and the address (R348, R349). -/
def entered (st new : Strand) (cause : Nat) (info : Word) (spc pc : BitVec 24) (xstep : Word) : Prop :=
  new.scause = BitVec.ofNat 64 cause ∧ new.sinfo = info ∧ new.spc.toNat = spc.toNat ∧ new.xstep = xstep ∧
    new.sds = encodeSds st.delay ∧ new.delay = none ∧ new.sup = true ∧ new.ie = false ∧ new.tl = true ∧
    new.psup = st.sup ∧ new.pie = st.ie ∧ new.pc = pc ∧ new.trap = Bank.reset ∧ new.regs = st.regs ∧ new.pw = st.pw ∧
    new.ret = st.ret ∧ new.mode = st.mode ∧ new.fmt = st.fmt ∧ new.status = st.status ∧ new.sstat.extractLsb' 3 11 = st.sstat.extractLsb' 3 11

end Sys2Proof.Claims

/-- R344, R345, R348, R349: a cause taken at a boundary outside a handler and outside an expansion, once the strand's context
can be saved (R148, R180, R231), and bound by the kernel, enters the handler: SPC is the next issue, past the table-bank selects
before it (R34), XSTEP its index, SDS the delay state in the layout of R293. No byte of any pool or of HBM changes. The
watchdog's entry (R353) names the held word and its port. R163, R345: the fault of an expansion's step is trap 0x37 at the
triggering word, with the inner cause, the repetition and the step in XSTEP. -/
def Obligations.TrapEntry : Prop :=
  (∀ s t k b pc, (s.strand t k).boundary = some b → (s.strand t k).tl = false → (s.strand t k).exp = none →
    entryReady s t k = true → s.vector t (causeOf b).1 = some pc →
    ∃ s', exec (.trapEntry t k) s = .next s' ∧
      entered (s.strand t k) (s'.strand t k) (causeOf b).1 (causeOf b).2 (s.atIssue t (s.strand t k)).ia pc
        (BitVec.ofNat 64 ((s.strand t k).rep % 256 * 2 ^ 16)) ∧
      (∀ u, (s'.tile u).pool = (s.tile u).pool) ∧ s'.hbm = s.hbm) ∧
  (∀ s t k c w e pc, (s.strand t k).boundary = some (.exp c w) → (s.strand t k).exp = some e → (s.strand t k).tl = false →
    entryReady s t k = true → s.vector t 0x37 = some pc →
    ∃ s', exec (.trapEntry t k) s = .next s' ∧
      entered { s.strand t k with delay := match e.last with
                  | some d => some { d with cnt := 0 }
                  | none => (s.strand t k).delay } (s'.strand t k) 0x37 w e.ia pc
        (BitVec.ofNat 64 (c % 64 * 2 ^ 24 + e.rep % 256 * 2 ^ 16 + e.step % 65536)) ∧
      (s'.strand t k).savedExp = some e ∧ (s'.strand t k).exp = none ∧
      (∀ u, (s'.tile u).pool = (s.tile u).pool) ∧ s'.hbm = s.hbm) ∧
  (∀ s t k h pc, (s.strand t k).hold = some h → (s.strand t k).status = .live → h.clear = false →
    (s.strand t k).boundary = none → (s.strand t k).refire = false → (s.tile t).stopped = false → entryReady s t k = true →
    (s.strand t k).wdl ≠ 0 → h.since + 2 ^ (s.strand t k).wdl ≤ s.time → (s.strand t k).tl = false →
    s.vector t 0x2F = some pc →
    ∃ s', exec (.watchdog t k) s = .next s' ∧
      entered (s.strand t k) (s'.strand t k) 0x2F (BitVec.ofNat 64 (h.port % 1024)) (s.atIssue t (s.strand t k)).ia pc
        (BitVec.ofNat 64 ((s.strand t k).rep % 256 * 2 ^ 16)) ∧ (s'.strand t k).hold = none ∧
      (∀ u, (s'.tile u).pool = (s.tile u).pool) ∧ s'.hbm = s.hbm) ∧
  (∀ d : Delay, d.cnt ≤ 2 → (d.taken = false → d.target = 0) →
    (encodeSds (some d)).getLsbD 63 = true ∧ (encodeSds (some d)).extractLsb' 28 2 = BitVec.ofNat 2 d.cnt ∧
      (encodeSds (some d)).getLsbD 27 = d.annul ∧ (encodeSds (some d)).getLsbD 26 = d.taken ∧
      (encodeSds (some d)).extractLsb' 0 24 = d.target ∧ encodeSds none = 0)

/-- R344 and R351: an unbound cause whose default is Stop stops the strand and leaves a fault record waiting in its tile; a
trap in a handler stops the strand with the second cause in the record, the first beside it, and the registers the first
entry wrote unchanged. -/
def Sys2Proof.Claims.TrapStops : Prop :=
  (∀ s t k b, (s.strand t k).boundary = some b → (s.strand t k).tl = false → (s.strand t k).exp = none → t < 8192 →
    entryReady s t k = true → s.vector t (causeOf b).1 = none →
    (causeOf b).1 ∉ [0x2A, 0x2B, 0x2E, 0x31, 0x32, 0x34, 0x35, 0x36] →
    ∃ s' r, exec (.trapEntry t k) s = .next s' ∧ (s'.strand t k).status = .stopped ∧
      (s'.tile t).faultq = (s.tile t).faultq ++ [r] ∧ r.cause = (causeOf b).1 ∧ r.first = 0 ∧ r.slot = k ∧
      r.ltile = (s.tile t).ltile ∧ r.sup = (s.strand t k).sup ∧ r.spc.toNat = (s.atIssue t (s.strand t k)).ia.toNat ∧
      r.sinfo = (causeOf b).2 ∧ r.sds = encodeSds (s.strand t k).delay ∧ r.time = s.time ∧ r.lid = s.lidOf t) ∧
  (∀ s t k b, (s.strand t k).boundary = some b → (s.strand t k).tl = true → (s.strand t k).exp = none → t < 8192 →
    entryReady s t k = true →
    ∃ s' r, exec (.trapEntry t k) s = .next s' ∧ (s'.strand t k).status = .stopped ∧
      (s'.tile t).faultq = (s.tile t).faultq ++ [r] ∧ r.cause = (causeOf b).1 ∧
      r.first = (s.strand t k).scause.toNat ∧ r.sinfo = (causeOf b).2 ∧ r.spc.toNat = (s.atIssue t (s.strand t k)).ia.toNat ∧
      (s'.strand t k).scause = (s.strand t k).scause ∧ (s'.strand t k).sinfo = (s.strand t k).sinfo ∧
      (s'.strand t k).spc = (s.strand t k).spc ∧ (s'.strand t k).xstep = (s.strand t k).xstep ∧
      (s'.strand t k).sds = (s.strand t k).sds)

/-- R350 and R293: sys.eret leaves the trap bank and resumes at SPC with XSTEP and with the delay state of SDS (CNT 3 acts as
2; CNT 0 goes at once to TARGET or SPC); NORF discards the latched operations, and otherwise they are re-fired next; mode and
enables are restored and NORF is cleared when none is left to re-fire. That TL and the bank change before the re-fire, while
SUP, IE and NORF wait for it, is the model's choice (log entry 59, DEDUCED: the listing of R350 clears TL after the re-fire).
No register, predicate, return entry, other status bit
or byte of memory changes; the user bank changes only where NORF discards a vec.ld that a storage error had stopped (R181). -/
def Sys2Proof.Claims.TrapReturn : Prop :=
  ∀ v s, ∃ t, exec (.sysEret v) s = .next t ∧ t.me.tl = false ∧
    (s.me.norf = true ∨ s.me.latched = [] → t.me.sup = s.me.psup ∧ t.me.ie = s.me.pie ∧ t.me.norf = false ∧
      t.me.refire = false) ∧
    (s.me.norf = false → s.me.latched ≠ [] → t.me.sup = s.me.sup ∧ t.me.ie = s.me.ie ∧ t.me.refire = true) ∧
    (∀ i, i ≠ 0 → i ≠ 1 → i ≠ 2 → i ≠ 4 → t.me.sstat.getLsbD i = s.me.sstat.getLsbD i) ∧
    (s.me.sds.getLsbD 63 = false → t.me.delay = none ∧ t.me.pc = s.me.spc.truncate 24) ∧
    (s.me.sds.getLsbD 63 = true → s.me.sds.extractLsb' 28 2 ≠ 0 → t.me.pc = s.me.spc.truncate 24 ∧
      t.me.delay = some { cnt := min (s.me.sds.extractLsb' 28 2).toNat 2, annul := s.me.sds.getLsbD 27,
                          taken := s.me.sds.getLsbD 26, target := s.me.sds.truncate 24 }) ∧
    (s.me.sds.getLsbD 63 = true → s.me.sds.extractLsb' 28 2 = 0 → s.me.savedExp = none → t.me.delay = none ∧
      t.me.pc = if s.me.sds.getLsbD 26 then s.me.sds.truncate 24 else s.me.spc.truncate 24) ∧
    (s.me.sds.getLsbD 63 = false ∨ s.me.sds.extractLsb' 28 2 ≠ 0 → t.me.rep = s.me.xstep.toNat / 2 ^ 16 % 256) ∧
    (s.me.norf = true → t.me.latched = []) ∧ (s.me.norf = false → t.me.latched = s.me.latched) ∧
    t.me.regs = s.me.regs ∧ t.me.pw = s.me.pw ∧ t.me.ret = s.me.ret ∧
    (s.me.norf = false ∨ (∀ p ∈ s.flight, p.src = s.cur.1 → p.slot = s.cur.2 → p.stop = false) → t.me.user = s.me.user) ∧
    t.me.mode = s.me.mode ∧ (∀ u, (t.tile u).pool = (s.tile u).pool) ∧ t.hbm = s.hbm

/-- R293, R344, R350, R351: where a trap stops its strand, and the return from one. The order in which a return changes the
bank and the status is the model's choice (log entry 59). -/
def Obligations.TrapStopsAndReturns : Prop := Sys2Proof.Claims.TrapStops ∧ Sys2Proof.Claims.TrapReturn

/-- R354, R355: a word that fails its check is discarded and attempted again, three times, with a log entry each and nothing
else of the strand changed; the fourth failure takes 0x32 before the word has any effect. The result of a running copy or
matrix command that fails its check is made again; at the fourth failure the copy or command is suspended and 0x32 reported to
its strand. checkedOf lists what of the strand a check can fail on: here the one thing. R432: a delivery event delivers the
unit's ready results in both banks and does nothing else to the strand. -/
def Obligations.ReplayAndDelivery : Prop :=
  (∀ s t k, checkedOf s t k = [.word] →
    ((s.strand t k).attempts < 3 → ∃ s', exec (.checkFail t k) s = .next s' ∧
      s'.strand t k = { s.strand t k with attempts := (s.strand t k).attempts + 1 } ∧ s'.hbm = s.hbm ∧
      (∀ u, (s'.tile u).pool = (s.tile u).pool) ∧
      ∃ e rest, (Map.find Log.reset s'.logs t).ents = e :: rest ∧ e.kind = 2) ∧
    (3 ≤ (s.strand t k).attempts → (s.strand t k).tl = false → ∀ pc, s.vector t 0x32 = some pc →
      ∃ s' i, exec (.checkFail t k) s = .next s' ∧
        entered (s.strand t k) (s'.strand t k) 0x32 i (s.atIssue t (s.strand t k)).ia pc
          (BitVec.ofNat 64 ((s.strand t k).rep % 256 * 2 ^ 16)))) ∧
  (∀ s t k e c, checkedOf s t k = [.copy e c] →
    (c.fails < 3 → ∃ s', exec (.checkFail t k) s = .next s' ∧ s'.strand t k = s.strand t k ∧
      Map.get? (s'.tile t).copies e = some { c with fails := c.fails + 1 } ∧ (∀ u, (s'.tile u).pool = (s.tile u).pool)) ∧
    (3 ≤ c.fails → ∃ s' i, exec (.checkFail t k) s = .next s' ∧ Map.get? (s'.strand t k).pend c.id = some (0x32, i) ∧
      Map.get? (s'.tile t).copies e = some { c with state := 3, fails := 0 } ∧
      (∀ u, (s'.tile u).pool = (s.tile u).pool))) ∧
  (∀ s t k c, checkedOf s t k = [.mx c] →
    (c.fails < 3 → ∃ s', exec (.checkFail t k) s = .next s' ∧ s'.strand t k = s.strand t k ∧
      { c with fails := c.fails + 1 } ∈ (s'.tile t).mxq ∧ (∀ u, (s'.tile u).pool = (s.tile u).pool)) ∧
    (3 ≤ c.fails → ∃ s' i, exec (.checkFail t k) s = .next s' ∧ Map.get? (s'.strand t k).pend c.id = some (0x32, i) ∧
      { c with suspended := true, fails := 0 } ∈ (s'.tile t).mxq ∧ (∀ u, (s'.tile u).pool = (s.tile u).pool))) ∧
  (∀ s t k u, exec (.resultDelivery t k u) s = .next (s.setStrand t k { s.strand t k with
    user := (s.strand t k).user.deliver u ((s.strand t k).locked u) (s.tile t).cycle
    trap := (s.strand t k).trap.deliver u ((s.strand t k).locked u) (s.tile t).cycle }))

/-! ## Parcels and words -/

namespace Sys2Proof.Claims

/-- A word none of whose moves is to a trigger port. -/
def movesOnly (w : TWord) : Prop := ∀ e ∈ movesOf w, isTrigger e.dst = false

/-- The issuing strand is between issues, live, and asked for nothing else. -/
def plainTurn (s : State) : Prop :=
  s.me.status = .live ∧ s.me.ereting = false ∧ s.me.refire = false ∧ s.me.ending = false ∧ s.me.going = none

/-- What the word's enabled move to a port, if there is one, read before the word had any effect. -/
def moved (s : State) (w : TWord) (j port : Nat) : Option Word :=
  ((movesOf w).find? fun e => e.on s.me j && e.dst == port).map fun e => readSource s w.limm e

/-- The port of predicate k (R21, R40). -/
def predPort (k : Nat) : Nat := if k < 6 then 0x02A + k else 0x034 + k

/-- R21, R24: each s-register, predicate, operand latch and common register receives the value that the source of the one
enabled move to it had before the word (PW by its low byte, a predicate by bit 0); the others keep theirs. The common registers
are told of where the word opens no host-write window (R91). R107: a socket that is read loses its head entry, once. One more
issue has been made, and the turn is over. -/
def wordDone (s t : State) (w : TWord) (j : Nat) : Prop :=
  (∀ r, r < 10 → Map.find 0 (t.strand s.cur.1 s.cur.2).regs r = (moved s w j (0x020 + r)).getD (Map.find 0 s.me.regs r)) ∧
  (∀ k, 1 ≤ k → k < 8 → (t.strand s.cur.1 s.cur.2).pw.getLsbD k =
    match moved s w j 0x02A, moved s w j (predPort k) with
    | some v, _ => v.getLsbD k
    | none, some v => v.getLsbD 0
    | none, none => s.me.pw.getLsbD k) ∧
  (∀ p, portKind p = some .operand → Map.find 0 ((t.strand s.cur.1 s.cur.2).bankAt s.me.tl).ops p =
    (moved s w j p).getD (Map.find 0 (s.me.bankAt s.me.tl).ops p)) ∧
  (w.hwin = false → ∀ c, c < 256 → leNat ((t.tile s.cur.1).pool.readBytes (8 * c) 8) =
    match moved s w j (0x300 + c) with
    | some v => v.toNat
    | none => leNat (s.here.pool.readBytes (8 * c) 8)) ∧
  (∀ k, k < 4 → ((t.tile s.cur.1).sock k).fifo =
    if (movesOf w).any fun e => e.on s.me j && e.src == some (0x220 + 2 * k) then (s.here.sock k).fifo.drop 1
    else (s.here.sock k).fifo) ∧
  (t.strand s.cur.1 s.cur.2).issue = s.me.issue + 1 ∧ t.turn = none

/-- The step of R37 in bytes for a trigger port of the lsu, and of the atm. -/
def lsuBytes (port : Nat) : Nat :=
  if port ∈ [0x164, 0x165, 0x16C] then 1 else if port ∈ [0x166, 0x167, 0x16D] then 2
  else if port ∈ [0x168, 0x169, 0x16E] then 4 else if port ∈ [0x16A, 0x16F, 0x171, 0x172] then 8
  else if port ∈ [0x16B, 0x170, 0x174] then 64 else 0

def atmBytes (port : Nat) : Nat :=
  if port = 0x1A7 then 4 else if port = 0x1BE then 8
  else if 0x1A5 ≤ port ∧ port ≤ 0x1A6 then 4 * (port - 0x1A4)
  else if 0x1A8 ≤ port ∧ port ≤ 0x1BD then 4 * (port % 2 + 1) else 0

/-- The state in which the word of a T parcel that names entry i is judged: its copy is kept for later repetitions (R30). -/
def withWord (s : State) (i : Nat) (w : BitVec 256) (on : Bool) : State :=
  s.setMe { s.me with
    rword := some { word := w, guard := on, pc := s.me.ia, overlaid := decide (256 ≤ i) && s.hasOverlays s.cur.1, reread := false } }

/-- The table word at an index, where fetching it neither waits nor fails, and no storage error stands in the entry (R33,
R35, R379). -/
def tableAt (s : State) (i : Nat) (w : BitVec 256) : Prop :=
  w = Map.find emptyWord s.here.table i ∧ ScrubLoc.table s.cur.1 i ∉ s.here.cellBad ∧
    ScrubLoc.table s.cur.1 i ∉ s.here.cellWeak ∧
    (i < 256 ∨ s.hasOverlays s.cur.1 = false ∨ s.here.loading = none ∧ s.here.overlay = some s.me.tbank.toNat)

/-- An issue without effect has been made: registers, predicates and return store as before. -/
def emptyDone (s t : State) : Prop :=
  (t.strand s.cur.1 s.cur.2).regs = s.me.regs ∧ (t.strand s.cur.1 s.cur.2).pw = s.me.pw ∧
    (t.strand s.cur.1 s.cur.2).ret = s.me.ret ∧ (t.strand s.cur.1 s.cur.2).issue = s.me.issue + 1 ∧
    (t.strand s.cur.1 s.cur.2).spc = s.me.spc ∧ t.turn = none ∧ t.hbm = s.hbm

/-- A tile's strands as an issue choice finds them: those whose last word is done have left, and each has attempted its next
word (R297, R317). -/
def attempts (s : State) (t : Nat) : State := slots.foldl (fun s k => attempt (leave s t k) t k) s

/-- The strand has trapped with cause 0x01 and a reason, before anything else (R27): SPC is the parcel itself, and for a T
parcel or inline word the first of the I parcels before it (R34, R291; log entry 74, DEDUCED). -/
def illegalParcel (s t : State) (reason : Nat) : Prop :=
  ∀ pc, s.vector s.cur.1 0x01 = some pc → s.me.tl = false → ∃ info : Word,
    let parcel := (s.parcels s.cur.1 s.me.pc.toNat 1).head?
    info.toNat / 2 ^ 16 = reason ∧ (∀ p, parcel = some p → info.toNat % 2 ^ 16 = p.toNat) ∧
      entered s.me (t.strand s.cur.1 s.cur.2) 0x01 info
        (if parcel.any fun p => p.getLsbD 15 == false || p.extractLsb' 8 8 == 0xC1 then s.me.ia else s.me.pc) pc
        (BitVec.ofNat 64 (s.me.rep % 256 * 2 ^ 16)) ∧
      t.turn = none

/-- The word has trapped before it had any effect: the registers the trap saves, with SPC at the word, the copy of a T parcel's
word kept for its return (R39), and no byte of memory changed. -/
def wordTrapped (s t : State) (c : Nat) (i : Word) (pc : BitVec 24) : Prop :=
  t.turn = none ∧ (∀ u, (t.tile u).pool = (s.tile u).pool) ∧ t.hbm = s.hbm ∧
    entered s.me (t.strand s.cur.1 s.cur.2) c i s.me.ia pc (BitVec.ofNat 64 (s.me.rep % 256 * 2 ^ 16))

end Sys2Proof.Claims

/-- R31 to R33: I parcels shift into PIM (the first sign-extended) and a fifth of a run is illegal; BANK selects a table
bank, and is illegal after an I parcel or in a kernel without overlays; neither is an issue. IDLE makes one of its empty
issues, staying at its parcel until the last. That reason 2 comes before reason 3 where a BANK parcel after an I parcel stands
in a kernel without overlays is the model's choice (log entry 62, DESIGN CHOICE). -/
def Sys2Proof.Claims.ParcelEffects : Prop :=
  (∀ c s, plainTurn s → s.me.pimRun < 4 → ∃ p, exec (.iParcel c) s =
      .next (s.setMe { s.me with pim := p, pimRun := s.me.pimRun + 1, pc := s.me.pc + 1 }) ∧
    (s.me.pimRun = 0 → p.toInt = c.toInt) ∧
    (s.me.pimRun ≠ 0 → p.toNat = (s.me.pim.toNat * 2 ^ 14 + c.toNat) % 2 ^ 64)) ∧
  (∀ c s, plainTurn s → 4 ≤ s.me.pimRun → ∃ t, exec (.iParcel c) s = .next t ∧ illegalParcel s t 2) ∧
  (∀ n s, plainTurn s → s.me.pimRun = 0 → s.hasOverlays s.cur.1 = true → exec (.bank n) s =
    .next (s.setMe { s.me with tbank := n, pc := s.me.pc + 1, ia := s.me.pc + 1 })) ∧
  (∀ n s, plainTurn s → s.me.pimRun ≠ 0 → ∃ t, exec (.bank n) s = .next t ∧ illegalParcel s t 2) ∧
  (∀ n s, plainTurn s → s.me.pimRun = 0 → s.hasOverlays s.cur.1 = false →
    ∃ t, exec (.bank n) s = .next t ∧ illegalParcel s t 3) ∧
  (∀ a s, plainTurn s → s.me.pimRun = 0 → ∃ t, exec (.idle a) s = .next t ∧ emptyDone s t ∧
    (s.me.delay = none → s.me.rep < a.toNat →
      (t.strand s.cur.1 s.cur.2).pc = s.me.pc ∧ (t.strand s.cur.1 s.cur.2).rep = s.me.rep + 1) ∧
    (s.me.delay = none → a.toNat ≤ s.me.rep →
      (t.strand s.cur.1 s.cur.2).pc = s.me.pc + 1 ∧ (t.strand s.cur.1 s.cur.2).rep = 0)) ∧
  (∀ a s, plainTurn s → s.me.pimRun ≠ 0 → ∃ t, exec (.idle a) s = .next t ∧ illegalParcel s t 2)

/-- R290 and R291: an annulled delay issue counts as an issue and has no other effect; after the second, fetch goes to the
target of a taken transfer, or on past the parcel. Stated for an inline word, for a T parcel whose word can be fetched, whose
copy serves the repetitions that follow (R30), and for such a repetition, whatever the table then holds. -/
def Sys2Proof.Claims.AnnulledIssues : Prop :=
  ∀ s d, plainTurn s → s.me.delay = some d →
    (∀ w, decodeParcels (s.parcels s.cur.1 s.me.pc.toNat 17) = .ok (.inline w) →
      ∃ t, exec .annulledIssue s = .next t ∧ emptyDone s t ∧
        (d.cnt = 2 → (t.strand s.cur.1 s.cur.2).pc = s.me.pc + 17 ∧
          (t.strand s.cur.1 s.cur.2).delay = some { d with cnt := 1 }) ∧
        (d.cnt ≤ 1 → (t.strand s.cur.1 s.cur.2).delay = none ∧
          (t.strand s.cur.1 s.cur.2).pc = if d.taken then d.target else s.me.pc + 17)) ∧
    (∀ i n g w, decodeParcels (s.parcels s.cur.1 s.me.pc.toNat 17) = .ok (.tParcel i n g) → s.me.rword = none →
      tableAt s i.toNat w → ∃ t, exec .annulledIssue s = .next t ∧ emptyDone s t ∧
        (1 < d.cnt → s.me.rep < n.toNat → (t.strand s.cur.1 s.cur.2).rword.map RepSave.word = some w ∧
          (t.strand s.cur.1 s.cur.2).pc = s.me.pc ∧ (t.strand s.cur.1 s.cur.2).rep = s.me.rep + 1) ∧
        (d.cnt ≤ 1 → (t.strand s.cur.1 s.cur.2).delay = none ∧
          (t.strand s.cur.1 s.cur.2).pc = if d.taken then d.target else s.me.pc + 1)) ∧
    (∀ i n g r, decodeParcels (s.parcels s.cur.1 s.me.pc.toNat 17) = .ok (.tParcel i n g) → s.me.rword = some r →
      r.reread = false → 0 < s.me.rep → ∃ t, exec .annulledIssue s = .next t ∧ emptyDone s t)

/-- R31 to R33, R290, R291: what each parcel does, and what an annulled delay issue leaves out. -/
def Obligations.Parcels : Prop := Sys2Proof.Claims.ParcelEffects ∧ Sys2Proof.Claims.AnnulledIssues

/-- R21, R24, R30, R32, R36, R107: a word of plain moves that nothing stops writes each register, predicate and operand with
what its source held before the word: as an inline word, as a T parcel's first issue when the parcel's guard holds, and as a later repetition (kept moves
only). A T parcel whose guard is false makes an empty issue. -/
def Sys2Proof.Claims.WordEffects : Prop :=
  (∀ w s, plainTurn s → movesOnly (decodeWord w) → judge s (decodeWord w) 1 0 = .go none →
    ∃ t, exec (.inline w) s = .next t ∧ wordDone s t (decodeWord w) 0) ∧
  (∀ i n g w s, plainTurn s → s.me.rword = none → tableAt s i.toNat w → s.me.guard g.toNat = true →
    movesOnly (decodeWord w) → judge (withWord s i.toNat w true) (decodeWord w) (n.toNat + 1) 0 = .go none →
    ∃ t, exec (.tParcel i n g) s = .next t ∧ wordDone s t (decodeWord w) 0) ∧
  (∀ i n g w s, plainTurn s → s.me.rword = none → tableAt s i.toNat w → s.me.guard g.toNat = false →
    ∃ t, exec (.tParcel i n g) s = .next t ∧ emptyDone s t) ∧
  (∀ i n g r s, plainTurn s → decodeParcels (s.parcels s.cur.1 s.me.pc.toNat 1) = .ok (.tParcel i n g) →
    s.me.rword = some r → r.guard = true → r.reread = false → 0 < s.me.rep → movesOnly (decodeWord r.word) →
    judge (withWord s i.toNat r.word true) (decodeWord r.word) (n.toNat + 1) s.me.rep = .go none →
    ∃ t, exec .repetition s = .next t ∧ wordDone s t (decodeWord r.word) s.me.rep)

/-- R37: an address operand port that a move writes at repetition j receives the value read, and under keep j steps more, of
the bytes of the trigger of its unit among the word's moves whose guards are true; no such trigger makes no step. It is through
writeMoves that every word that issues writes its registers and operands. -/
def Sys2Proof.Claims.AddressStepping : Prop :=
  ∀ s w j e, let all := (movesOf w).filter fun f => f.on s.me 0
    let en := (movesOf w).filter fun f => f.on s.me j
    let step := (all.map fun f => if e.dst = 0x160 then lsuBytes f.dst else atmBytes f.dst).sum
    e ∈ en → (∀ f ∈ en, f.dst = e.dst → f = e) → e.dst = 0x160 ∨ e.dst = 0x1A0 →
      (writeMoves s all j (values s w.limm en)).opnd e.dst =
        readSource s w.limm e + BitVec.ofNat 64 (if e.m.keep then j * step else 0)

/-- R27: a word that fails a check takes its trap before it has any effect: the cause and SINFO of the first failing order,
with SPC at the word; as an inline word, as a T parcel's first issue, and as a later repetition, whose index XSTEP holds. -/
def Sys2Proof.Claims.WordTraps : Prop :=
  (∀ w s c i pc, plainTurn s → judge s (decodeWord w) 1 0 = .trap c i → s.vector s.cur.1 c = some pc → s.me.tl = false →
    ∃ t, exec (.inline w) s = .next t ∧ wordTrapped s t c i pc) ∧
  (∀ i n g w s c info pc, plainTurn s → s.me.rword = none → tableAt s i.toNat w → s.me.guard g.toNat = true →
    judge (withWord s i.toNat w true) (decodeWord w) (n.toNat + 1) 0 = .trap c info → s.vector s.cur.1 c = some pc →
    s.me.tl = false → ∃ t, exec (.tParcel i n g) s = .next t ∧ wordTrapped s t c info pc ∧
      (t.strand s.cur.1 s.cur.2).savedRep.map RepSave.word = some w) ∧
  (∀ i n g r s c info pc, plainTurn s → decodeParcels (s.parcels s.cur.1 s.me.pc.toNat 1) = .ok (.tParcel i n g) →
    s.me.rword = some r → r.guard = true → r.reread = false → 0 < s.me.rep →
    judge (withWord s i.toNat r.word true) (decodeWord r.word) (n.toNat + 1) s.me.rep = .trap c info →
    s.vector s.cur.1 c = some pc → s.me.tl = false → ∃ t, exec .repetition s = .next t ∧ wordTrapped s t c info pc ∧
      (t.strand s.cur.1 s.cur.2).savedRep.map RepSave.word = some r.word)

/-- R21, R24, R27, R30, R32, R36, R37, R107: what a transport word does, and where it traps. -/
def Obligations.Words : Prop :=
  Sys2Proof.Claims.WordEffects ∧ Sys2Proof.Claims.AddressStepping ∧ Sys2Proof.Claims.WordTraps

namespace Sys2Proof.Claims

/-- The rank of a strand's class, the highest first (R318): supervisor mode, PRIO, others, and below these the strands that
have yielded. -/
def rank (st : Strand) : Nat := if st.yielded then 3 else if st.sup then 0 else if st.prio then 1 else 2

/-- A tile is at its choice: no turn runs, it is neither paused nor stopped, and no word of it takes a trap of R27. -/
def choosing (s : State) (t : Nat) : Prop :=
  s.turn = none ∧ s.pausedAt t = false ∧ (s.tile t).stopped = false ∧ slots.find? (wordTraps (attempts s t) t) = none

/-- The choice has given strand k the turn: WAIT counts on for every strand that was eligible, and is 0 for the others. -/
def chosen (s s' : State) (t k : Nat) (ks : List Nat) : Prop :=
  s'.turn = some (t, k) ∧ (s'.tile t).cycle = ((attempts s t).tile t).cycle ∧
    (∀ j, j ∈ ks → (s'.strand t j).wait = ((attempts s t).strand t j).wait + 1) ∧
    ∀ j, j ∉ ks → (s'.strand t j).wait = 0

/-- Strand a comes before strand b by LAST, then by slot. -/
def before (x : Tile) (a b : Nat) : Prop :=
  (x.strand a).last < (x.strand b).last ∨ (x.strand a).last = (x.strand b).last ∧ a < b

/-- R318 and R319, the choice among several eligible strands: one that has been eligible for 16 cycles comes first, the longest
wait before the lowest slot; else the next member of a running train of the highest class that is eligible; else, no train
running, the strand of that class with the least LAST, and the others of its class with its next issue address and TBANK form a
train with it, in order of LAST and slot. A strand whose word takes a trap of R27 gets its turn first, without a cycle. -/
def ChoiceAmong : Prop :=
  ∀ s t, let r := attempts s t
    let x := r.tile t
    let ks := slots.filter (eligible r t)
    (∀ k, s.turn = none → s.pausedAt t = false → (s.tile t).stopped = false → slots.find? (wordTraps r t) = some k →
      ∃ s', exec (.issueChoice t) s = .next s' ∧ s'.turn = some (t, k) ∧ (s'.tile t).cycle = x.cycle) ∧
    (choosing s t → ∀ k, k ∈ ks → 16 ≤ (x.strand k).wait →
      (∀ j ∈ ks, (x.strand j).wait < (x.strand k).wait ∨ (x.strand j).wait = (x.strand k).wait ∧ k ≤ j) →
      ∃ s', exec (.issueChoice t) s = .next s' ∧ chosen s s' t k ks) ∧
    (choosing s t → (∀ j ∈ ks, (x.strand j).wait < 16) → ∀ m ms key, x.trains = [(m :: ms, key)] → m ∉ ms →
      (∀ j ∈ m :: ms, j ∈ ks ∧ r.trainKey t j = key) → (∀ j ∈ ks, rank (x.strand m) ≤ rank (x.strand j)) →
      ∃ s', exec (.issueChoice t) s = .next s' ∧ chosen s s' t m ks ∧ (s'.tile t).fusing = true ∧
        (s'.tile t).trains = if ms = [] then [] else [(ms, key)]) ∧
    (choosing s t → (∀ j ∈ ks, (x.strand j).wait < 16) → x.trains = [] → ∀ k, k ∈ ks →
      (∀ j ∈ ks, j ≠ k → rank (x.strand k) < rank (x.strand j) ∨ rank (x.strand k) = rank (x.strand j) ∧ before x k j) →
      ∃ s' ms, exec (.issueChoice t) s = .next s' ∧ chosen s s' t k ks ∧ (s'.tile t).fusing = false ∧
        (s'.tile t).trains = (if ms = [] then [] else [(ms, r.trainKey t k)]) ∧ ms.Pairwise (before x) ∧
        ∀ j, j ∈ ms ↔ j ∈ ks ∧ j ≠ k ∧ rank (x.strand j) = rank (x.strand k) ∧ r.trainKey t j = r.trainKey t k)

end Sys2Proof.Claims

/-- R317, R318, R319, R370, R373, R390: with no turn running, the issue choice of a tile gives the one eligible strand, or the
one R318 and R319 choose among several, the turn; a stopped tile spends an idle cycle, with ballast where BAL is set; a paused
tile's clock stands. -/
def Obligations.IssueChoice : Prop :=
  ChoiceAmong ∧
  (∀ s t, s.turn = none → s.pausedAt t = true → exec (.issueChoice t) s = .next s) ∧
  (∀ s t, s.turn = none → s.pausedAt t = false → (s.tile t).stopped = true →
    ∃ s', exec (.issueChoice t) s = .next s' ∧ s'.turn = none ∧ (s'.tile t).cycle = (s.tile t).cycle + 1 ∧
      (∀ k, s'.strand t k = { s.strand t k with wait := 0 }) ∧
      (Map.find 0 (s'.tile t).counters 2).toNat = ((Map.find 0 (s.tile t).counters 2).toNat + 1) % 2 ^ 64 ∧
      (Map.find 0 (s'.tile t).counters 3).toNat =
        ((Map.find 0 (s.tile t).counters 3).toNat + (if (s.tile t).bal then 1 else 0)) % 2 ^ 64) ∧
  (∀ s t k, choosing s t → (slots.filter (eligible (attempts s t) t)) = [k] →
    ∃ s', exec (.issueChoice t) s = .next s' ∧ s'.turn = some (t, k)) ∧
  (∀ s t, choosing s t → (slots.filter (eligible (attempts s t) t)) = [] →
    ∃ s', exec (.issueChoice t) s = .next s' ∧ s'.turn = none)

/-! ## Memory -/

namespace Sys2Proof.Claims

/-- The latest result put into the issuing strand's latches. -/
def latest (t : State) (r : Res) : Prop := t.me.bank.res.getLast? = some r

/-- An own-pool address (R75) at an offset, outside the register partition unless the strand is a supervisor (R113), with no
watchpoint set (R390). -/
def ownAt (s : State) (a : Word) (off : Nat) : Prop :=
  a.toNat = 0xF0 * 2 ^ 56 + off ∧ off < 2 ^ 20 ∧
    (s.me.sup = true ∨ 0x4000 * (s.here.partword.toNat % 256) ≤ off) ∧ Map.find 0 s.here.counters 5 = 0

/-- A global address outside every local window page (R75, R198), with no watchpoint set. -/
def globalAt (s : State) (a : Word) : Prop :=
  a.toNat / 2 ^ 56 ≤ 0xDF ∧ a.toNat / 2 ^ 16 % 2 ^ 40 ≠ 0 ∧ Map.find 0 s.here.counters 5 = 0

/-- No pool, no HBM and no strand's registers change. -/
def memorySame (s t : State) : Prop :=
  (∀ u, (t.tile u).pool = (s.tile u).pool) ∧ t.hbm = s.hbm ∧ t.hostMem = s.hostMem ∧
    (∀ u k, (t.strand u k).regs = (s.strand u k).regs ∧ (t.strand u k).pw = (s.strand u k).pw)

/-- Of all memory only n bytes of tile u's pool from an offset may have changed, and no strand's registers. -/
def poolFrame (s t : State) (u off n : Nat) : Prop :=
  (∀ a, a < off ∨ off + n ≤ a → (t.tile u).pool.read a = (s.tile u).pool.read a) ∧
    (∀ w, w ≠ u → (t.tile w).pool = (s.tile w).pool) ∧ t.hbm = s.hbm ∧ t.hostMem = s.hostMem ∧
    (∀ u k, (t.strand u k).regs = (s.strand u k).regs ∧ (t.strand u k).pw = (s.strand u k).pw)

/-- A load of n bytes: from the own pool its value is in lsu's result at once, or, where an access of a lower slot of its word
must be performed first, an access to the own tile leaves that waits for it (R328 to R330; log entry 74, DEDUCED); to a global
address a request leaves for its station, behind what a fence or acquire puts before it, and the result waits (R84, R85, R125). -/
def LoadIs (i : Word → Instr) (n : Nat) (sg : Bool) (value : Nat → Word → Prop) : Prop :=
  (∀ v s off, ownAt s (s.opnd 0x160 + v) off → off % n = 0 → ownDue s true false ≠ [] →
    ∃ t r p, exec (i v) s = .next t ∧ latest t r ∧ r.unit = .lsu ∧ r.due = none ∧ r.wait = true ∧
      t.flight = s.flight ++ [p] ∧ p.src = s.cur.1 ∧ p.slot = s.cur.2 ∧ p.dst = s.cur.1 ∧
      p.after = ownDue s true false ∧ p.body = .pool (.load n sg) off s.me.tl ∧ memorySame s t) ∧
  (∀ v s off, ownAt s (s.opnd 0x160 + v) off → off % n = 0 → hasBad s.here.poolBad off n = none → ownDue s true false = [] →
    ∃ t r y, exec (i v) s = .next t ∧ latest t r ∧ r.unit = .lsu ∧ r.y = some y ∧ r.due = none ∧ r.wait = false ∧
      value (leNat (s.here.pool.readBytes off n)) y ∧ memorySame s t) ∧
  (∀ v s, globalAt s (s.opnd 0x160 + v) → (s.opnd 0x160 + v).toNat % n = 0 →
    ∃ t r p, exec (i v) s = .next t ∧ latest t r ∧ r.unit = .lsu ∧ r.due = none ∧ r.wait = true ∧
      t.flight = s.flight ++ [p] ∧ p.src = s.cur.1 ∧ p.slot = s.cur.2 ∧ p.after = s.dueOrder true false 3 ∧
      p.body = .lsu (.load n sg) (s.opnd 0x160 + v) s.me.tl none ∧
      (∃ e, t.me.window = s.me.window ++ [e] ∧ e.id = p.id ∧ e.far = s.opnd 0x160 + v) ∧ memorySame s t)

/-- A store of the low n bytes of v: to the own pool at once, little-endian, or by an access to the own tile that waits for what
must be performed first (log entry 74, DEDUCED); to a global address by a request (R125). rel is what a release waits for
(R330). -/
def StoreIs (i : Word → Instr) (n : Nat) (rel : State → List Nat) : Prop :=
  (∀ v s off, ownAt s (s.opnd 0x160) off → off % n = 0 → ownDue s false true ++ rel s ≠ [] →
    ∃ t p, exec (i v) s = .next t ∧ t.flight = s.flight ++ [p] ∧ p.src = s.cur.1 ∧ p.slot = s.cur.2 ∧ p.dst = s.cur.1 ∧
      p.after = ownDue s false true ++ rel s ∧ p.body = .pool (.store n v) off s.me.tl ∧ memorySame s t) ∧
  (∀ v s off, ownAt s (s.opnd 0x160) off → off % n = 0 → ownDue s false true ++ rel s = [] →
    ∃ t, exec (i v) s = .next t ∧ (t.here.pool.readBytes off n = leBytes v.toNat n) ∧ poolFrame s t s.cur.1 off n) ∧
  (∀ v s, globalAt s (s.opnd 0x160) → (s.opnd 0x160).toNat % n = 0 →
    ∃ t p, exec (i v) s = .next t ∧ t.flight = s.flight ++ [p] ∧ p.src = s.cur.1 ∧ p.slot = s.cur.2 ∧
      p.after = s.dueOrder false true 3 ++ rel s ∧ p.body = .lsu (.store n v) (s.opnd 0x160) s.me.tl none ∧ memorySame s t)

/-- A misaligned own-pool access is latched with trap 0x0E, and an access to the register partition in user mode with
trap 0x0F, REASON 3 (R78, R113, R126); a far is the address. -/
def AccessTraps (i : Word → Instr) (port n access : Nat) (far : State → Word → Word) : Prop :=
  (∀ v s off, ownAt s (far s v) off → off % n ≠ 0 → ∃ t, exec (i v) s = .next t ∧
    latchedAs s t port v 0x0E (BitVec.ofNat 64 (access * 2 ^ 54 + (far s v).toNat % 2 ^ 52))) ∧
  (∀ v s off, (far s v).toNat = 0xF0 * 2 ^ 56 + off → off < 2 ^ 20 → off % n = 0 → s.me.sup = false →
    off < 0x4000 * (s.here.partword.toNat % 256) → ∃ t, exec (i v) s = .next t ∧
    latchedAs s t port v 0x0F (BitVec.ofNat 64 (3 * 2 ^ 60 + access * 2 ^ 54 + (far s v).toNat % 2 ^ 52)))

end Sys2Proof.Claims

/-- R125, R85: the scalar loads, sign- or zero-extended, at lsu.a + v. -/
def Sys2Proof.Claims.Loads : Prop :=
  LoadIs .lsuLdb 1 true (fun x y => y.toInt = signed 8 x) ∧ LoadIs .lsuLdbu 1 false (fun x y => y.toNat = x) ∧
  LoadIs .lsuLdh 2 true (fun x y => y.toInt = signed 16 x) ∧ LoadIs .lsuLdhu 2 false (fun x y => y.toNat = x) ∧
  LoadIs .lsuLdw 4 true (fun x y => y.toInt = signed 32 x) ∧ LoadIs .lsuLdwu 4 false (fun x y => y.toNat = x) ∧
  LoadIs .lsuLdd 8 false (fun x y => y.toNat = x) ∧ LoadIs .lsuLdacq 8 false (fun x y => y.toNat = x)

/-- R125, R128: the scalar stores at lsu.a, the release behind the strand's accesses within its scope, and where loads and stores
trap (R126). -/
def Sys2Proof.Claims.Stores : Prop :=
  StoreIs .lsuStb 1 (fun _ => []) ∧ StoreIs .lsuSth 2 (fun _ => []) ∧ StoreIs .lsuStw 4 (fun _ => []) ∧
  StoreIs .lsuStd 8 (fun _ => []) ∧
  StoreIs .lsuStrel 8 (fun s => s.earlier s.cur.1 s.cur.2 ((s.opnd 0x162).toNat % 8)) ∧
  AccessTraps .lsuSth 0x16D 2 1 (fun s _ => s.opnd 0x160) ∧ AccessTraps .lsuStw 0x16E 4 1 (fun s _ => s.opnd 0x160) ∧
  AccessTraps .lsuStd 0x16F 8 1 (fun s _ => s.opnd 0x160) ∧
  AccessTraps .lsuLdh 0x166 2 0 (fun s v => s.opnd 0x160 + v) ∧
  AccessTraps .lsuLdwu 0x169 4 0 (fun s v => s.opnd 0x160 + v) ∧
  AccessTraps .lsuLdd 0x16A 8 0 (fun s v => s.opnd 0x160 + v)

/-- R85, R125, R126, R128: loads and stores of each width, and where they trap. -/
def Obligations.LoadsAndStores : Prop := Sys2Proof.Claims.Loads ∧ Sys2Proof.Claims.Stores

/-- R125, R129, R109, R329: lines between the far address and the near line, prefetch, fence and the start and steps of a
block copy, on the own pool (a line operation's near line is v[19:0]; a block step reads all its bytes before it writes). A line
operation on a global address sends a request, a store's with the bytes of the near line at the issue (R85). A block's step comes
after the strand's earlier requests and fences (R328, R329). -/
def Obligations.LinesFenceBlock : Prop :=
  (∀ v s off, ownAt s (s.opnd 0x160) off → off % 64 = 0 → v.toNat % 64 = 0 →
    (s.me.sup = true ∨ 0x4000 * (s.here.partword.toNat % 256) ≤ v.toNat % 2 ^ 20) →
    hasBad s.here.poolBad off 64 = none → ownDue s true false = [] →
    ∃ t r, exec (.lsuLdl v) s = .next t ∧ t.here.pool.readBytes (v.toNat % 2 ^ 20) 64 = s.here.pool.readBytes off 64 ∧
      poolFrame s t s.cur.1 (v.toNat % 2 ^ 20) 64 ∧ latest t r ∧ r.unit = .lsu ∧
      r.y = some (BitVec.ofNat 64 (leNat (s.here.pool.readBytes off 8)))) ∧
  (∀ v s off, ownAt s (s.opnd 0x160) off → off % 64 = 0 → v.toNat % 64 = 0 →
    (s.me.sup = true ∨ 0x4000 * (s.here.partword.toNat % 256) ≤ v.toNat % 2 ^ 20) →
    hasBad s.here.poolBad (v.toNat % 2 ^ 20) 64 = none → ownDue s false true = [] →
    ∃ t, exec (.lsuStl v) s = .next t ∧ t.here.pool.readBytes off 64 = s.here.pool.readBytes (v.toNat % 2 ^ 20) 64 ∧
      poolFrame s t s.cur.1 off 64) ∧
  (∀ v s, globalAt s (s.opnd 0x160) → (s.opnd 0x160).toNat % 64 = 0 → v.toNat % 64 = 0 →
    (s.me.sup = true ∨ 0x4000 * (s.here.partword.toNat % 256) ≤ v.toNat % 2 ^ 20) →
    ∃ t r p e, exec (.lsuLdl v) s = .next t ∧ latest t r ∧ r.unit = .lsu ∧ r.due = none ∧ r.wait = true ∧
      t.flight = s.flight ++ [p] ∧ p.src = s.cur.1 ∧ p.slot = s.cur.2 ∧ p.after = s.dueOrder true false 3 ∧
      p.body = .lsu (.ldl (v.toNat % 2 ^ 20)) (s.opnd 0x160) s.me.tl none ∧
      t.me.window = s.me.window ++ [e] ∧ e.id = p.id ∧ e.far = s.opnd 0x160 ∧ memorySame s t) ∧
  (∀ v s, globalAt s (s.opnd 0x160) → (s.opnd 0x160).toNat % 64 = 0 → v.toNat % 64 = 0 →
    (s.me.sup = true ∨ 0x4000 * (s.here.partword.toNat % 256) ≤ v.toNat % 2 ^ 20) →
    hasBad s.here.poolBad (v.toNat % 2 ^ 20) 64 = none →
    ∃ t p e, exec (.lsuStl v) s = .next t ∧ t.flight = s.flight ++ [p] ∧ p.src = s.cur.1 ∧ p.slot = s.cur.2 ∧
      p.after = s.dueOrder false true 3 ∧
      p.body = .lsu (.stl (s.here.pool.readBytes (v.toNat % 2 ^ 20) 64)) (s.opnd 0x160) s.me.tl none ∧
      t.me.window = s.me.window ++ [e] ∧ e.id = p.id ∧ e.far = s.opnd 0x160 ∧ memorySame s t) ∧
  (∀ v s, globalAt s (s.opnd 0x160 + v) → ∃ t p, exec (.lsuPf v) s = .next t ∧ t.flight = s.flight ++ [p] ∧
    p.body = .lsu .pf (s.opnd 0x160 + v) s.me.tl none ∧ t.me.bank = s.me.bank ∧ memorySame s t) ∧
  (∀ v s off, ownAt s (s.opnd 0x160 + v) off → exec (.lsuPf v) s = .next s) ∧
  (∀ v s, ∃ os, exec (.lsuFence v) s = .next (s.setMe { s.me with order := os }) ∧
    ∀ p ∈ s.flight, p.src = s.cur.1 → p.slot = s.cur.2 → v.toNat / 16 % 8 ≠ 0 →
      s.packetScope p ≤ v.toNat / 16 % 8 → ∀ ld st : Bool,
        countsAs p ld = true → v.getLsbD ((if ld then 0 else 2) + if st then 1 else 0) = true →
        ∃ o ∈ os, (if st then o.qst else o.qld) = true ∧ p.id ∈ o.ids) ∧
  (∀ v s a b, ownAt s (s.opnd 0x160) a → ownAt s (s.opnd 0x161) b → a % 8 = 0 → b % 8 = 0 →
    (s.opnd 0x162).toNat % 8 = 0 → (s.opnd 0x162).toNat ≤ 0x400000 →
    ∃ t e, exec (.lsuBlk v) s = .next t ∧ t.me.exp = some e ∧ e.op = .blk ∧ e.step = 0 ∧ e.a = s.opnd 0x160 ∧
      e.b = s.opnd 0x161 ∧ e.c = s.opnd 0x162 ∧ memorySame s t) ∧
  (∀ s t k e a b, (s.strand t k).exp = some e → e.op = .blk → (s.strand t k).status = .live →
    (s.tile t).stopped = false → (s.strand t k).sup = true → (s.tile t).resv = [] → (s.tile t).poolBad = [] →
    vecLoadDue s t k = false → e.fault = none → lsuOut s t k = false →
    (∀ o ∈ (s.strand t k).order, s.performed o.ids = true) → e.a.toNat = 0xF0 * 2 ^ 56 + a → e.b.toNat = 0xF0 * 2 ^ 56 + b → 64 * e.step < e.c.toNat →
    a + e.c.toNat ≤ 2 ^ 20 → b + e.c.toNat ≤ 2 ^ 20 →
    ∃ s', exec (.blkStep t k) s = .next s' ∧
      let n := min 64 (e.c.toNat - 64 * e.step)
      (s'.tile t).pool.readBytes (a + 64 * e.step) n = (s.tile t).pool.readBytes (b + 64 * e.step) n ∧
        poolFrame s s' t (a + 64 * e.step) n ∧
        (if e.c.toNat ≤ 64 * (e.step + 1) then (s'.strand t k).exp = none
          else (s'.strand t k).exp = some { e with step := e.step + 1 }))

namespace Sys2Proof.Claims

/-- Request p waits at its station, free to go on: nothing it must wait for is outstanding (R84, R330). -/
def atStation (s : State) (p : Nat) (q : Packet) (kind : LsuKind) (va : Word) (tr : Bool) : Prop :=
  s.packet p = some q ∧ q.body = .lsu kind va tr none ∧ s.performed q.after = true ∧ s.walking p = false ∧
    aheadOnPage s q va = false

/-- Request p, translated to an HBM address pa in service, is at its home L2 and nothing of its strand comes before it. -/
def atHome (s : State) (p : Nat) (q : Packet) (kind : LsuKind) (va : Word) (tr : Bool) (pa : Nat) : Prop :=
  s.packet p = some q ∧ q.body = .lsu kind va tr (some pa) ∧ s.performed q.after = true ∧
    aheadAt s q tr pa kind.bytes = false ∧ isHost pa = false ∧ s.chanCtl pa = 1 ∧ s.hbmBad = [] ∧
    s.l2Bad = []

end Sys2Proof.Claims

/-- R82, R84, R85, R87: a request that misses starts a walk, or joins the one for its page; the walk's end gives each request
its physical address, discards a stale walk, and waits for a channel in training (R422); and at the home L2 a load's bytes reach the strand's latches and a store's
bytes reach HBM, and nothing else does. -/
def Sys2Proof.Claims.GlobalAccesses : Prop :=
  (∀ s p q kind va tr, atStation s p q kind va tr →
    (∀ w, s.walkOn (stationOf q.src va) (s.tile q.src).ctx.toNat va = some w →
      ∃ t, exec (.translationRequest p) s = .next t ∧ (∃ w' ∈ t.walks, w'.id = w.id ∧ (p, va) ∈ w'.joined) ∧
        t.flight = s.flight ∧ memorySame s t) ∧
    (s.walkOn (stationOf q.src va) (s.tile q.src).ctx.toNat va = none →
      s.cached (stationOf q.src va) (s.tile q.src).ctx.toNat va = none →
      (s.walks.filter fun w => w.station == stationOf q.src va).length < 4096 →
      ∃ t w, exec (.translationRequest p) s = .next t ∧ t.walks = s.walks ++ [w] ∧ w.joined = [(p, va)] ∧ w.va = va ∧
        w.ctx = (s.tile q.src).ctx.toNat ∧ w.station = stationOf q.src va ∧ w.stale = false ∧ memorySame s t)) ∧
  (∀ s n w, (s.walks.find? fun v => v.id == n) = some w → s.walkTrains w.ctx w.va = true →
    exec (.pageWalkDone n) s = .next s) ∧
  (∀ s n w, (s.walks.find? fun v => v.id == n) = some w → s.walkTrains w.ctx w.va = false →
    (w.stale = true → exec (.pageWalkDone n) s = .next { s with walks := s.walks.filter fun u => u.id != n }) ∧
    (∀ p q kind va tr pa size r wr, w.stale = false → w.joined = [(p, va)] → s.packet p = some q →
      q.body = .lsu kind va tr none → kind ≠ .pf → walkTables s w.ctx w.va = .page pa size r wr →
      va.toNat % 2 ^ 56 / 2 ^ size = w.va.toNat % 2 ^ 56 / 2 ^ size →
      (kind.writes = false → r = true) → (kind.writes = true → wr = true) →
      isHost (pa + va.toNat % 2 ^ 56 % 2 ^ size) = false → q.src < 8192 →
      homeDie (pa + va.toNat % 2 ^ 56 % 2 ^ size) = dieOf q.src →
      ∃ t, exec (.pageWalkDone n) s = .next t ∧
        t.packet p = some { q with body := .lsu kind va tr (some (pa + va.toNat % 2 ^ 56 % 2 ^ size)) } ∧
        memorySame s t)) ∧
  (∀ s p q va tr pa n sg, atHome s p q (.load n sg) va tr pa →
    ∃ t y, exec (.l2Access p) s = .next t ∧ t.packet p = none ∧
      (t.strand q.src q.slot).bankAt tr = ((s.strand q.src q.slot).bankAt tr).arrive .lsu (some y) ∧
      (sg = false → y.toNat = leNat (s.hbm.readBytes pa n) % 2 ^ 64) ∧
      (sg = true → n ∈ [1, 2, 4] → y.toInt = signed (8 * n) (leNat (s.hbm.readBytes pa n))) ∧ memorySame s t) ∧
  (∀ s p q va tr pa n v, atHome s p q (.store n v) va tr pa →
    ∃ t, exec (.l2Access p) s = .next t ∧ t.packet p = none ∧ t.hbm.readBytes pa n = leBytes v.toNat n ∧
      (∀ a, a < pa ∨ pa + n ≤ a → t.hbm.read a = s.hbm.read a) ∧ t.hostMem = s.hostMem ∧
      (∀ u, t.tile u = s.tile u))

/-- R131, R192: an access to another tile of the sorus is performed in the target's pool as one event, and so is each row of a
vec.ld or vec.st that goes to another tile; one whose rows are all the own tile's is one event. The last row of a load writes the
elements of all its rows, zero-extended to their containers, and what ZM zeroes, and delivers; that it writes nothing before is
the model's choice (log entry 34, DEDUCED). -/
def Sys2Proof.Claims.SorusAccesses : Prop :=
  ∀ s p q, s.packet p = some q → s.performed q.after = true → q.stop = false → (s.tile q.dst).resv = [] →
    (s.tile q.src).resv = [] → (s.tile q.dst).poolBad = [] →
    (∀ n sg off tr, q.body = .pool (.load n sg) off tr → aheadInPool s q q.dst off n = false →
      ∃ t y, exec (.sorusPoolAccess p) s = .next t ∧ t.packet p = none ∧
        (t.strand q.src q.slot).bankAt tr = ((s.strand q.src q.slot).bankAt tr).arrive .lsu (some y) ∧
        (sg = false → y.toNat = leNat ((s.tile q.dst).pool.readBytes off n) % 2 ^ 64) ∧
        (sg = true → n ∈ [1, 2, 4] → y.toInt = signed (8 * n) (leNat ((s.tile q.dst).pool.readBytes off n))) ∧
        memorySame s t) ∧
    (∀ n v off tr, q.body = .pool (.store n v) off tr → aheadInPool s q q.dst off n = false →
      ∃ t, exec (.sorusPoolAccess p) s = .next t ∧ t.packet p = none ∧
        (t.tile q.dst).pool.readBytes off n = leBytes v.toNat n ∧ poolFrame s t q.dst off n) ∧
    (∀ o r, q.body = .vmem o → o.rows[o.pos]? = some r → aheadInPool s q r.tile r.off (r.bytes o.w) = false →
      (s.tile r.tile).poolBad = [] → (s.tile r.tile).resv = [] →
      (o.rows.any fun r => r.tile != q.src) = true ∨ o.pos + 1 = o.rows.length →
      (o.load = true → o.pos + 1 < o.rows.length → ∃ t, exec (.sorusPoolAccess p) s = .next t ∧
        t.packet p = some { q with body := .vmem { o with pos := o.pos + 1, got := o.got ++
          [r.lanes.flatMap fun e => (s.tile r.tile).pool.readBytes (r.off + o.w * e.1) o.w] } } ∧ memorySame s t) ∧
      (o.load = true → o.pos + 1 = o.rows.length → ∃ t, exec (.sorusPoolAccess p) s = .next t ∧ t.packet p = none ∧
        (t.strand q.src q.slot).bankAt o.trap = ((s.strand q.src q.slot).bankAt o.trap).arrive .vec none ∧
        (∀ u, u ≠ q.src → (t.tile u).pool = (s.tile u).pool) ∧
        let got := o.got ++ [r.lanes.flatMap fun e => (s.tile r.tile).pool.readBytes (r.off + o.w * e.1) o.w]
        let reg := 0x4000 + 0x2000 * q.slot + 0x400 * o.vd
        let held := (o.rows.flatMap VecRow.lanes).map Prod.snd
        o.w ∈ [1, 2, 4] → (held ++ o.zero).Pairwise (fun a b => a + 4 ≤ b ∨ b + 4 ≤ a) →
          (∀ (i : Nat) (row : VecRow) (d : List Byte) (j : Nat) (e : Nat × Nat), o.rows[i]? = some row → got[i]? = some d → d.length = o.w * row.lanes.length →
            row.lanes[j]? = some e →
            (t.tile q.src).pool.readBytes (reg + e.2) 4 = (d.drop (o.w * j)).take o.w ++ List.replicate (4 - o.w) 0) ∧
          (∀ z ∈ o.zero, (t.tile q.src).pool.readBytes (reg + z) 4 = [0, 0, 0, 0]) ∧
          ∀ a, (∀ c ∈ held ++ o.zero, a < reg + c ∨ reg + c + 4 ≤ a) → (t.tile q.src).pool.read a = (s.tile q.src).pool.read a) ∧
      (o.load = false → ∃ t, exec (.sorusPoolAccess p) s = .next t ∧ poolFrame s t r.tile r.off (r.bytes o.w) ∧
        (o.pos + 1 = o.rows.length → t.packet p = none) ∧
        ∀ e d, r.lanes = [e] → d = r.data.take o.w → d.length = o.w →
          (t.tile r.tile).pool.readBytes (r.off + o.w * e.1) o.w = d))

/-- R82, R84, R85, R87, R131: requests to global addresses and to the pools of a sorus. That a vec.ld of a sorus pool writes
nothing before its last row is the model's choice (log entry 34). -/
def Obligations.RemoteAccesses : Prop := Sys2Proof.Claims.GlobalAccesses ∧ Sys2Proof.Claims.SorusAccesses

/-! ## Atomics and semaphores -/

namespace Sys2Proof.Claims

/-- The target of an atomic on k bytes is an aligned own-pool location of the accumulator partition (R111, R224 to R228), the
order word asks for no SC, no watch is set, the pool holds no latent error, and nothing that a fence or an acquire waits for is
outstanding, nor what a release waits for, nor an access to the own tile that a lower slot of the word has sent. -/
def atmAt (s : State) (off k : Nat) : Prop :=
  (s.opnd 0x1A0 + s.opnd 0x1A2).toNat = 0xF0 * 2 ^ 56 + off ∧ off < 2 ^ 20 ∧ off % k = 0 ∧
    0x4000 * (s.here.partword.toNat % 256) ≤ off ∧
    off < 0x4000 * (s.here.partword.toNat % 256 + s.here.partword.toNat / 256 % 256) ∧
    (s.opnd 0x1A3).getLsbD 3 = false ∧ Map.find 0 s.here.counters 5 = 0 ∧ s.here.poolBad = [] ∧
    (∀ o ∈ s.me.order, s.performed o.ids = true) ∧ ownOut s s.cur.1 s.cur.2 = [] ∧
    ((s.opnd 0x1A3).getLsbD 1 = true → s.earlier s.cur.1 s.cur.2 (min ((s.opnd 0x1A3).toNat / 16 % 8) 4) = [])

/-- The operation of each trigger of the unit, and its bytes (R43, R232). -/
noncomputable def atmForms : List ((Word → Instr) × RmwOp × Nat) :=
  [(.atmAddw, .add, 4), (.atmAddd, .add, 8), (.atmAddf, .addf, 4), (.atmMinw, .min, 4), (.atmMind, .min, 8),
   (.atmMinuw, .minu, 4), (.atmMinud, .minu, 8), (.atmMaxw, .max, 4), (.atmMaxd, .max, 8), (.atmMaxuw, .maxu, 4),
   (.atmMaxud, .maxu, 8), (.atmAndw, .and, 4), (.atmAndd, .and, 8), (.atmOrw, .or, 4), (.atmOrd, .or, 8),
   (.atmXorw, .xor, 4), (.atmXord, .xor, 8), (.atmSwpw, .swp, 4), (.atmSwpd, .swp, 8), (.atmCasw, .cas, 4),
   (.atmCasd, .cas, 8), (.atmLrw, .lr, 4), (.atmLrd, .lr, 8), (.atmScw, .sc, 4), (.atmScd, .sc, 8)]

/-- The read-modify-write i on k bytes of the own pool: the location's new value is new of the old one, v and the compare
operand, nothing else of memory changes, and unless NR is set the old value, extended as old says, is the result
(R227, R232). -/
def AtmIs (i : Word → Instr) (k : Nat) (always : Bool) (new : Nat → Nat → Nat → Nat) (old : Nat → Word → Prop) : Prop :=
  ∀ v s off, atmAt s off k → s.here.resv = [] →
    ∃ t, exec (i v) s = .next t ∧
      t.here.pool.readBytes off k =
        leBytes (new (leNat (s.here.pool.readBytes off k)) (v.toNat % 256 ^ k) ((s.opnd 0x1A1).toNat % 256 ^ k)) k ∧
      poolFrame s t s.cur.1 off k ∧
      (always = true ∨ (s.opnd 0x1A3).getLsbD 8 = false → ∃ r y, latest t r ∧ r.unit = .atm ∧ r.y = some y ∧
        r.wait = false ∧ old (leNat (s.here.pool.readBytes off k)) y) ∧
      (always = false → (s.opnd 0x1A3).getLsbD 8 = true → t.me.bank = s.me.bank)

/-- The old value, zero-extended or sign-extended from 32 bits. -/
def zeroExt (x : Nat) (y : Word) : Prop := y.toNat = x
def signExt (x : Nat) (y : Word) : Prop := y.toInt = signed 32 x

end Sys2Proof.Claims

/-- R232: what each read-modify-write leaves in an own-pool location and what it returns. -/
def Sys2Proof.Claims.Atomics : Prop :=
  AtmIs .atmAddw 4 false (fun o v _ => (o + v) % 2 ^ 32) signExt ∧
  AtmIs .atmAddd 8 false (fun o v _ => (o + v) % 2 ^ 64) zeroExt ∧
  AtmIs .atmAddf 4 false (fun o v _ => (fp32.finish .rne (FVal.add .rne (fp32.decode o) (fp32.decode v))).code) zeroExt ∧
  AtmIs .atmMinw 4 false (fun o v _ => if signed 32 v < signed 32 o then v else o) signExt ∧
  AtmIs .atmMind 8 false (fun o v _ => if signed 64 v < signed 64 o then v else o) zeroExt ∧
  AtmIs .atmMinuw 4 false (fun o v _ => min o v) zeroExt ∧ AtmIs .atmMinud 8 false (fun o v _ => min o v) zeroExt ∧
  AtmIs .atmMaxw 4 false (fun o v _ => if signed 32 o < signed 32 v then v else o) signExt ∧
  AtmIs .atmMaxd 8 false (fun o v _ => if signed 64 o < signed 64 v then v else o) zeroExt ∧
  AtmIs .atmMaxuw 4 false (fun o v _ => max o v) zeroExt ∧ AtmIs .atmMaxud 8 false (fun o v _ => max o v) zeroExt ∧
  AtmIs .atmAndw 4 false (fun o v _ => o &&& v) signExt ∧ AtmIs .atmAndd 8 false (fun o v _ => o &&& v) zeroExt ∧
  AtmIs .atmOrw 4 false (fun o v _ => o ||| v) signExt ∧ AtmIs .atmOrd 8 false (fun o v _ => o ||| v) zeroExt ∧
  AtmIs .atmXorw 4 false (fun o v _ => o ^^^ v) signExt ∧ AtmIs .atmXord 8 false (fun o v _ => o ^^^ v) zeroExt ∧
  AtmIs .atmSwpw 4 false (fun _ v _ => v) signExt ∧ AtmIs .atmSwpd 8 false (fun _ v _ => v) zeroExt ∧
  AtmIs .atmCasw 4 true (fun o v c => if o = c then v else o) signExt ∧
  AtmIs .atmCasd 8 true (fun o v c => if o = c then v else o) zeroExt

/-- R233 to R235: lr returns the value and leaves the strand with a reservation on its 64-byte granule, recorded at the
target; sc with the reservation writes and returns 0, without it writes nothing and returns 1, and either way none is
held after; wrs without a reservation returns 1, in a handler 2, and else holds the strand until a time limit returns 4. A
locked reservation is unlocked after 256 cycles. -/
def Obligations.Reservations : Prop :=
  (∀ i k, (i = Instr.atmLrw ∧ k = 4 ∨ i = Instr.atmLrd ∧ k = 8) → ∀ v s off, atmAt s off k → s.here.resv.length < 64 →
    s.here.stopped = false → ∃ t r e, exec (i v) s = .next t ∧ t.me.resv = some { tile := s.cur.1, granule := off / 64 } ∧
      t.here.resv.getLast? = some e ∧ e.tile = s.cur.1 ∧ e.slot = s.cur.2 ∧ e.granule = off / 64 ∧
      latest t r ∧ r.unit = .atm ∧ r.y.isSome ∧ memorySame s t) ∧
  (∀ i k, (i = Instr.atmScw ∧ k = 4 ∨ i = Instr.atmScd ∧ k = 8) → ∀ v s off, atmAt s off k →
    (s.me.resv = some { tile := s.cur.1, granule := off / 64 } →
      ∃ t r, exec (i v) s = .next t ∧ t.here.pool.readBytes off k = leBytes v.toNat k ∧ poolFrame s t s.cur.1 off k ∧
        t.me.resv = none ∧ latest t r ∧ r.unit = .atm ∧ ∃ y, r.y = some y ∧ y = 0) ∧
    (s.me.resv ≠ some { tile := s.cur.1, granule := off / 64 } →
      ∃ t r, exec (i v) s = .next t ∧ t.me.resv = none ∧ latest t r ∧ r.unit = .atm ∧ (∃ y, r.y = some y ∧ y = 1) ∧
        memorySame s t)) ∧
  (∀ v s off, atmAt s off 8 →
    (s.me.resv ≠ some { tile := s.cur.1, granule := off / 64 } → exec (.atmWrs v) s = .next (s.resultLocked .atm 1 3)) ∧
    (s.me.resv = some { tile := s.cur.1, granule := off / 64 } → s.me.hnd = true →
      exec (.atmWrs v) s = .next (s.resultLocked .atm 2 3)) ∧
    (s.me.resv = some { tile := s.cur.1, granule := off / 64 } → s.me.hnd = false →
      exec (.atmWrs v) s = .next (s.setMe { s.me with block := some (.wrs s.cur.1 (off / 64) s.time v.toNat) }))) ∧
  (∀ s t k u g since limit, (s.strand t k).block = some (.wrs u g since limit) → limit ≠ 0 → since + limit ≤ s.time →
    ∃ s' r, exec (.wrsTimeout t k) s = .next s' ∧ (s'.strand t k).block = none ∧
      (s'.strand t k).bank.res.getLast? = some r ∧ r.unit = .atm ∧ r.y = some 4 ∧ memorySame s s') ∧
  (∀ s t g, ∃ s', exec (.lockedReservationExpire t g) s = .next s' ∧
    (s'.tile t).resv.length = (s.tile t).resv.length ∧
    (∀ (n : Nat) (e : ResvEnt), (s.tile t).resv[n]? = some e → ∃ e' : ResvEnt, (s'.tile t).resv[n]? = some e' ∧
      e'.tile = e.tile ∧ e'.slot = e.slot ∧ e'.granule = e.granule ∧
      (∀ c, e.granule = g → e.locked = some c → c + 256 ≤ (s.tile t).cycle → e'.locked = none) ∧
      (∀ c, e.locked = some c → e.granule ≠ g ∨ (s.tile t).cycle < c + 256 → e'.locked = some c)) ∧ memorySame s s')

/-- R229, R232, R236: an atomic packet that nothing holds is performed at its target as one event: its location receives
the new value, its strand the old one, and it is gone; an SC atomic is performed only when the time of its window has come,
and then the first in the order of R236. -/
def Sys2Proof.Claims.AtomicPackets : Prop :=
  ∀ s p q r new, s.packet p = some q → q.body = .atomic r → s.performed q.after = true → q.stop = false →
    s.routeAhead q = false → aheadInPool s q q.dst r.addr r.k = false → (s.tile q.dst).resv = [] →
    (s.tile q.dst).poolBad = [] → r.op ≠ .lr → r.op ≠ .sc →
    rmwNew r.op r.k (leNat ((s.tile q.dst).pool.readBytes r.addr r.k)) r.v.toNat r.cmp.toNat = some new →
    (r.sc = none → ∃ t, exec (.atomicPerform p) s = .next t ∧ t.packet p = none ∧
      (t.tile q.dst).pool.readBytes r.addr r.k = leBytes new r.k ∧ poolFrame s t q.dst r.addr r.k ∧
      (r.nr = false → ∃ y, (t.strand q.src q.slot).bankAt r.trap = ((s.strand q.src q.slot).bankAt r.trap).arrive .atm (some y))) ∧
    (∀ w, scNext s q.dst = some (q, r, w) → 32 * (w + 1) + 96 ≤ s.time →
      ∃ t, exec (.scWindowPerform q.dst) s = .next t ∧ t.packet p = none ∧
        (t.tile q.dst).pool.readBytes r.addr r.k = leBytes new r.k ∧ poolFrame s t q.dst r.addr r.k) ∧
    (∀ w, scNext s q.dst = some (q, r, w) → s.time < 32 * (w + 1) + 96 → exec (.scWindowPerform q.dst) s = .next s)

/-- R228, R229, R236: an atomic to another tile, or under SC, leaves as one packet to its target, stamped with the TIME window
under SC; so does one to the own tile behind an access that a lower slot of its word has left there (log entry 74, DEDUCED); as
a release it waits for the strand's earlier accesses in its scope, and it changes no memory itself. -/
def Sys2Proof.Claims.AtomicsSent : Prop :=
  ∀ i op k, (i, op, k) ∈ atmForms → ∀ v s u off, atmCheck s (s.opnd 0x1A0 + s.opnd 0x1A2) k = .ok (u, off) →
    (u ≠ s.cur.1 ∨ (s.opnd 0x1A3).getLsbD 3 = true ∨ ownOut s s.cur.1 s.cur.2 ≠ []) →
    ∃ t p r, exec (i v) s = .next t ∧ t.flight = s.flight ++ [p] ∧ p.src = s.cur.1 ∧ p.slot = s.cur.2 ∧ p.dst = u ∧
      p.stop = false ∧ p.body = .atomic r ∧ r.op = op ∧ r.k = k ∧ r.addr = off ∧ r.v = v ∧ r.cmp = s.opnd 0x1A1 ∧
      ((s.opnd 0x1A3).getLsbD 3 = true → r.sc = some (s.time / 32, s.here.ltile, s.cur.2, s.me.scSeq) ∧
        ∀ x ∈ s.earlier s.cur.1 s.cur.2 4, x ∈ p.after) ∧
      ((s.opnd 0x1A3).getLsbD 3 = false → r.sc = none ∧ ((s.opnd 0x1A3).getLsbD 1 = true →
        ∀ x ∈ s.earlier s.cur.1 s.cur.2 (min ((s.opnd 0x1A3).toNat / 16 % 8) 4), x ∈ p.after)) ∧
      (u = s.cur.1 → ∀ x ∈ ownOut s s.cur.1 s.cur.2, x ∈ p.after) ∧
      (r.nr = true → t.me.bank = s.me.bank) ∧ memorySame s t

/-- R228, R229, R232, R236: atomics on the own pool, and those that travel. -/
def Obligations.AtomicOperations : Prop :=
  Sys2Proof.Claims.Atomics ∧ Sys2Proof.Claims.AtomicsSent ∧ Sys2Proof.Claims.AtomicPackets

namespace Sys2Proof.Claims

/-- serial_ge of R11 on 32 bits. -/
def geq32 (a b : Nat) : Bool := decide ((a + 2 ^ 32 - b % 2 ^ 32) % 2 ^ 32 < 2 ^ 31)

/-- The status word of R334 for a semaphore: [31:0] S, [32] ERR, [33] met. -/
def status (x : Sem) (met : Bool) : Word := BitVec.ofNat 64 (x.s % 2 ^ 32 + x.err.toNat * 2 ^ 32 + met.toNat * 2 ^ 33)

/-- Semaphore i of the strand's tile shows no error (R379). -/
def semClean (s : State) (i : Nat) : Prop :=
  s.here.isBad (.sem s.cur.1 i) = false ∧ s.here.cellWeak.contains (.sem s.cur.1 i) = false

/-- sem.a names an own semaphore (R333, R336), which shows no error. -/
def semAt (s : State) (i : Nat) : Prop := (s.opnd 0x1C0).toNat = i ∧ i < 255 ∧ semClean s i

/-- The operation that a move of v to a port fires stays latched with a cause, whose SINFO's ADDR is left open (R78, R380). -/
def latchedError (s t : State) (port : Nat) (v : Word) (hi : Nat) : Prop :=
  ∃ l : Latched, (if s.me.tl then t.me.latchedT else t.me.latched).getLast? = some l ∧ l.op.port = port ∧ l.op.v = v ∧
    l.cause = 0x31 ∧ l.info.toNat / 2 ^ 52 = hi ∧ t.me.latchedDue = true

end Sys2Proof.Claims

/-- R332 to R337, R379: signal, wait (met when its word proceeds or at a change before, or out of time), trywait, read and
set on an own semaphore; a signal to the own tile adds at once when nothing of the strand is outstanding; one that cannot be
read traps, its ADDR open (log entry 61). No memory changes. -/
def Obligations.Semaphores : Prop :=
  (∀ v s i, semAt s i → s.earlier s.cur.1 s.cur.2 4 = [] → ∃ t, exec (.semSig v) s = .next t ∧
    (t.here.sem i) = { s := ((s.here.sem i).s + v.toNat % 2 ^ 32) % 2 ^ 32, err := (s.here.sem i).err } ∧
    (∀ j, j ≠ i → t.here.sem j = s.here.sem j) ∧ memorySame s t) ∧
  (∀ v s i w, semAt s i → s.earlier s.cur.1 s.cur.2 4 = w → w ≠ [] → ∃ t p, exec (.semSig v) s = .next t ∧
    t.flight = s.flight ++ [p] ∧ p.body = .sem i (v.toNat % 2 ^ 32) false ∧ p.dst = s.cur.1 ∧ p.after = w ∧
    t.here = s.here ∧ memorySame s t) ∧
  (∀ v s i, semAt s i → s.me.hnd = false → s.me.hold = none → geq32 (s.here.sem i).s v.toNat = true →
    ∃ t r, exec (.semWait v) s = .next t ∧ latest t r ∧ r.unit = .sem ∧ r.y = some (status (s.here.sem i) true) ∧
      r.due = none ∧ r.wait = false ∧ r.lock = true ∧ t.here.sems = s.here.sems ∧ memorySame s t) ∧
  (∀ v s i h w, semAt s i → s.me.hnd = false → s.me.hold = some h → h.sem = some w →
    (∀ x e, w.met = some (x, e) → ∃ t r, exec (.semWait v) s = .next t ∧ latest t r ∧ r.unit = .sem ∧
      r.y = some (status { s := x, err := e } true) ∧ r.lock = true ∧ t.here.sems = s.here.sems ∧ memorySame s t) ∧
    (w.met = none → w.tout = true → ∃ t r, exec (.semWait v) s = .next t ∧ latest t r ∧ r.unit = .sem ∧
      r.y = some (status (s.here.sem i) false + 2 ^ 34) ∧ r.lock = true ∧ t.here.sems = s.here.sems ∧ memorySame s t)) ∧
  (∀ v s i, (s.opnd 0x1C0).toNat = i → i < 255 → s.here.isBad (.sem s.cur.1 i) = true →
    (∃ t, exec (.semTrywait v) s = .next t ∧ latchedError s t 0x1C6 v 0x14 ∧ memorySame s t) ∧
    (∃ t, exec (.semRd v) s = .next t ∧ latchedError s t 0x1C7 v 0x14 ∧ memorySame s t) ∧
    (∃ t, exec (.semSet v) s = .next t ∧ latchedError s t 0x1C8 v 0x14 ∧ memorySame s t)) ∧
  (∀ v s i, semAt s i → exec (.semTrywait v) s =
    .next (s.result .sem (status (s.here.sem i) (geq32 (s.here.sem i).s v.toNat)) none 2)) ∧
  (∀ v s i, semAt s i → exec (.semRd v) s = .next (s.result .sem (status (s.here.sem i) false) none 2)) ∧
  (∀ v s i, semAt s i → ∃ t, exec (.semSet v) s = .next t ∧ t.here.sem i = { s := v.toNat % 2 ^ 32, err := false } ∧
    (∀ j, j ≠ i → t.here.sem j = s.here.sem j) ∧ memorySame s t ∧
    ∃ r ∈ t.me.bank.res, r.unit = .sem ∧ r.y = some (status (s.here.sem i) false))

/-- R311, R313 to R316, R335: arming takes the lowest free entry and returns it, disarming frees one; a signal that arrives
adds to its semaphore; the limit of a held wait ends it; and a satisfied entry receives the lowest free helper slot, whose
handler starts at the entry's address. -/
def Obligations.WaitingTasks : Prop :=
  (∀ v s i e, let a := s.opnd 0x1C0
    a.toNat / 2 ^ 42 = 0 → a.getLsbD 40 = false → a.toNat / 2 ^ 32 % 256 = i → i ≠ 255 → semClean s i → e < 32 →
    Map.get? s.here.wtt e = none → (∀ j, j < e → (Map.get? s.here.wtt j).isSome) →
    ∃ t w, exec (.semArm v) s = .next t ∧ Map.get? t.here.wtt e = some w ∧ w.sem = i ∧ w.thr = a.toNat % 2 ^ 32 ∧
      w.pc = v.truncate 24 ∧ w.arg = s.opnd 0x1C1 ∧ w.mode = s.me.mode ∧ w.fmt = s.me.fmt ∧
      w.state = (if geq32 (s.here.sem i).s (a.toNat % 2 ^ 32) then 2 else 1) ∧
      (∀ j, j ≠ e → Map.get? t.here.wtt j = Map.get? s.here.wtt j) ∧ memorySame s t ∧
      ∃ r ∈ t.me.bank.res, r.unit = .sem ∧ r.y = some (BitVec.ofNat 64 e)) ∧
  (∀ v s w, Map.get? s.here.wtt (v.toNat % 32) = some w → ∃ t, exec (.semDisarm v) s = .next t ∧
    Map.get? t.here.wtt (v.toNat % 32) = none ∧ memorySame s t ∧ ∃ r ∈ t.me.bank.res, r.unit = .sem ∧ r.y = some 0) ∧
  (∀ v s, Map.get? s.here.wtt (v.toNat % 32) = none → exec (.semDisarm v) s = .next (s.result .sem 1 none 2)) ∧
  (∀ s p q i inc err, s.packet p = some q → q.body = .sem i inc err → s.performed q.after = true →
    s.routeAhead q = false → i ≠ 255 → (s.tile q.dst).wtt = [] → (s.tile q.dst).arrq = [] →
    ∃ t, exec (.semSignalArrive p) s = .next t ∧ t.packet p = none ∧
      (t.tile q.dst).sem i = { s := (((s.tile q.dst).sem i).s + inc) % 2 ^ 32, err := ((s.tile q.dst).sem i).err || err } ∧
      memorySame s t) ∧
  (∀ s t k h w, (s.strand t k).hold = some h → h.sem = some w → w.met = none → w.tout = false → w.limit ≠ 0 →
    (s.tile t).stopped = false → h.first + w.limit ≤ s.time → ∃ s' h' w', exec (.semWaitTimeout t k) s = .next s' ∧
      (s'.strand t k).hold = some h' ∧ h'.sem = some w' ∧ w'.tout = true ∧ memorySame s s') ∧
  (∀ s t i e k rest, (s.tile t).wtt = [(i, e)] → e.state = 2 → (s.tile t).arrq = [] → s.freeSlots t = k :: rest →
    ∃ s', exec (.handlerStart t) s = .next s' ∧ (s'.tile t).wtt = [] ∧ (s'.strand t k).status = .live ∧
      (s'.strand t k).hnd = true ∧ (s'.strand t k).pc = e.pc ∧ Map.find 0 (s'.strand t k).regs 1 = e.arg ∧
      (∀ a, a < 0x4000 → (s'.tile t).pool.read a = (s.tile t).pool.read a) ∧ s'.hbm = s.hbm)

/-! ## Device registers -/

namespace Sys2Proof.Claims

/-- A device register at an extended address (R386): sys.xrd answers its value, and a write, by sys.xwr of sys.a or by the
host, leaves the state as put says, for the values that ok admits (R389); in recovery the host writes none (R395, log entry
25). -/
def RegIs (x : Nat) (get : State → Word) (ok : State → Word → Prop) (put : State → Word → State) : Prop :=
  (∀ v s, v.toNat = x → ∃ t r, exec (.sysXrd v) s = .next t ∧ latest t r ∧ r.unit = .sys ∧ r.y = some (get s) ∧
    r.due = none ∧ r.wait = false ∧ memorySame s t) ∧
  (∀ v s, v.toNat = x → ok s (s.opnd 0x2C0) → exec (.sysXwr v) s = .next (put s (s.opnd 0x2C0))) ∧
  (∀ v w s, v.toNat = x → ok s w → exec (.deviceRegisterWrite false v w) s = .next (put s w) ∧
    (s.bootst.toNat % 256 ≠ 0x80 → exec (.deviceRegisterWrite true v w) s = .next (put s w)) ∧
    (s.bootst.toNat % 256 = 0x80 → exec (.deviceRegisterWrite true v w) s = .next s))

/-- Any value; and a register that cannot be written. -/
def anyValue (_ : State) (_ : Word) : Prop := True
def readOnly (s : State) (_ : Word) : State := s

end Sys2Proof.Claims

/-- R386, R387, R389, R390: the device control block, the window words, PHREL and the tile counters under their addresses;
and where sys.xrd and sys.xwr trap. -/
def Obligations.DeviceRegisters : Prop :=
  RegIs 0x00 State.xlbase (fun _ w => w &&& 0xFFF00000000FFFFF = 0) (fun s w => { s with xlbase := w }) ∧
  RegIs 0x10 State.xlinva (fun s w => s.xlinv.getLsbD 63 = false ∧ w.toNat < 2 ^ 56) (fun s w => { s with xlinva := w }) ∧
  RegIs 0x10 State.xlinva (fun s w => s.xlinv.getLsbD 63 = true ∨ 2 ^ 56 ≤ w.toNat) readOnly ∧
  RegIs 0x18 State.psbase (fun _ w => w &&& 0xFFF0000000000FFF = 0) (fun s w => { s with psbase := w }) ∧
  RegIs 0x20 State.qtbase (fun _ w => w &&& 0xFFF0000000000FFF = 0) (fun s w => { s with qtbase := w }) ∧
  RegIs 0x28 State.ltol anyValue (fun s w => { s with ltol := w }) ∧
  RegIs 0x30 (fun s => BitVec.ofNat 64 s.pwrst) anyValue readOnly ∧ RegIs 0x38 State.bootst anyValue readOnly ∧
  RegIs 0x40 State.irqv (fun _ w => w.toNat < 2 ^ 32) (fun s w => { s with irqv := w }) ∧
  (∀ i, i < 3 → RegIs (0x80 + 8 * i) (fun s => Map.find 0 s.scrub i) (fun _ w => w.toNat < 2 ^ 32)
    (fun s w => { s with scrub := Map.set s.scrub i w })) ∧
  (∀ i, i < 16 → RegIs (0x100 + 8 * i) (fun s => BitVec.ofNat 64 (Map.find 0 s.htemp i)) anyValue readOnly) ∧
  (∀ i, i < 16 → RegIs (0x180 + 8 * i) (fun s => Map.find 0 s.suap i) anyValue
    (fun s w => { s with suap := Map.set s.suap i w })) ∧
  (∀ p, p < 288 → RegIs (2 ^ 24 + 32 * p + 8) (fun s => (s.part p).phrel) (fun _ w => w &&& 0xFFFFFFFF000000FE = 0)
    (fun s w => s.setPart p { (s.part p) with phrel := w })) ∧
  (∀ i, i < 1024 → RegIs (2 ^ 25 + 8 * i) (fun s => Map.find 0 s.windows i) anyValue
    (fun s w => { s with windows := Map.set s.windows i w })) ∧
  (∀ d row col i, d < 8 → row < 24 → col < 25 → i < 6 →
    RegIs ((8 + d) * 2 ^ 24 + 8 * (2048 * (25 * row + col) + 0x408 + i))
      (fun s => Map.find 0 (s.tile (1024 * d + 32 * col + row)).counters i) anyValue
      (fun s w => s.setTile (1024 * d + 32 * col + row)
        { (s.tile (1024 * d + 32 * col + row)) with
          counters := Map.set (s.tile (1024 * d + 32 * col + row)).counters i w })) ∧
  (∀ x, 3 * 2 ^ 24 ≤ x → x < 8 * 2 ^ 24 → x % 8 = 0 → RegIs x (fun _ => 0) anyValue readOnly) ∧
  (∀ v s, 2 ^ 32 ≤ v.toNat →
    (∃ t, exec (.sysXrd v) s = .next t ∧ latchedAs s t 0x2C5 v 0x0F (BitVec.ofNat 64 (2 ^ 60 + v.toNat % 2 ^ 52))) ∧
    ∃ t, exec (.sysXwr v) s = .next t ∧ latchedAs s t 0x2C6 v 0x0F (BitVec.ofNat 64 (2 ^ 60 + 2 ^ 54 + v.toNat % 2 ^ 52))) ∧
  (∀ v s, v.toNat < 2 ^ 32 → v.toNat % 8 ≠ 0 →
    (∃ t, exec (.sysXrd v) s = .next t ∧ latchedAs s t 0x2C5 v 0x0E (BitVec.ofNat 64 v.toNat)) ∧
    ∃ t, exec (.sysXwr v) s = .next t ∧ latchedAs s t 0x2C6 v 0x0E (BitVec.ofNat 64 (2 ^ 54 + v.toNat)))

/-- R86: while BUSY is 1 nothing starts; else an invalidation sets BUSY and marks the walks it could match; it completes when
no marked walk is left, removing the translations in its scope and clearing BUSY. R352, R387: HIPI sets 0x35 pending in the
strand it names, its payload merged. -/
def Obligations.InvalidationAndHostInterrupt : Prop :=
  (∀ s c, s.xlinv.getLsbD 63 = true →
    exec .xlinvAll s = .next s ∧ exec (.xlinvCtx c) s = .next s ∧ exec (.xlinvRange c) s = .next s) ∧
  (∀ s, s.xlinv.getLsbD 63 = false → ∃ t, exec .xlinvAll s = .next t ∧ t.xlinv = 0x8000000000000000 ∧
    t.walks.map Walk.id = s.walks.map Walk.id ∧ (∀ w ∈ t.walks, w.stale = true) ∧ t.xcache = s.xcache ∧
    t.flight = s.flight ∧ memorySame s t) ∧
  (∀ s c, s.xlinv.getLsbD 63 = false → ∃ t, exec (.xlinvCtx c) s = .next t ∧
    t.xlinv = 0xA000000000000000 ||| c.zeroExtend 64 ∧ t.walks.map Walk.id = s.walks.map Walk.id ∧
    (∀ w ∈ t.walks, w.ctx = c.toNat → w.stale = true) ∧ t.xcache = s.xcache ∧ t.flight = s.flight ∧ memorySame s t) ∧
  (∀ s c, s.xlinv.getLsbD 63 = false → ∃ t, exec (.xlinvRange c) s = .next t ∧
    t.xlinv = 0xC000000000000000 ||| c.zeroExtend 64 ∧ t.walks.map Walk.id = s.walks.map Walk.id ∧
    (∀ w ∈ t.walks, w.ctx = c.toNat → s.xlinva.toNat / 2 ^ 16 % 2 ^ 40 ≤ w.va.toNat / 2 ^ 16 % 2 ^ 40 →
      w.va.toNat / 2 ^ 16 % 2 ^ 40 ≤ s.xlinva.toNat / 2 ^ 16 % 2 ^ 40 + s.xlinva.toNat % 2 ^ 16 → w.stale = true) ∧
    t.xcache = s.xcache ∧ t.flight = s.flight ∧ memorySame s t) ∧
  (∀ s, s.xlinv.getLsbD 63 = true → (∃ w ∈ s.walks, w.stale = true) → exec .xlinvComplete s = .next s) ∧
  (∀ s, s.xlinv.getLsbD 63 = true → (∀ w ∈ s.walks, w.stale = false) → ∃ t, exec .xlinvComplete s = .next t ∧
    t.xlinv = s.xlinv &&& 0x7FFFFFFFFFFFFFFF ∧ (∀ e ∈ t.xcache, e ∈ s.xcache) ∧
    (s.xlinv.toNat / 2 ^ 61 % 4 = 0 → t.xcache = []) ∧
    (s.xlinv.toNat / 2 ^ 61 % 4 = 1 → ∀ e ∈ s.xcache, e ∈ t.xcache ↔ e.ctx ≠ s.xlinv.toNat % 2 ^ 16) ∧
    (s.xlinv.toNat / 2 ^ 61 % 4 = 2 → ∀ e ∈ s.xcache, e ∈ t.xcache ↔ ¬ (e.ctx = s.xlinv.toNat % 2 ^ 16 ∧
      e.page * 2 ^ (e.size - 16) ≤ s.xlinva.toNat / 2 ^ 16 % 2 ^ 40 + s.xlinva.toNat % 2 ^ 16 ∧
      s.xlinva.toNat / 2 ^ 16 % 2 ^ 40 ≤ e.page * 2 ^ (e.size - 16) + 2 ^ (e.size - 16) - 1)) ∧ memorySame s t) ∧
  (∀ s p slot lt (pay : BitVec 32) v u, v.toNat = pay.toNat * 2 ^ 32 + lt * 2 ^ 16 + slot * 2 ^ 12 + p → p < 512 →
    slot < 16 → lt < 2 ^ 16 → ((s.partTiles p).find? fun t => (s.tile t).ltile == lt) = some u →
    (s.tile u).halted = false → s.takesIrq u slot 0x35 = true → ∃ t, exec (.hipi v) s = .next t ∧
      (t.strand u slot).irq35 = some (pay ||| (s.strand u slot).irq35.getD 0) ∧ memorySame s t)

/-! ## The network interface -/

namespace Sys2Proof.Claims

/-- An own-pool address (R75) at an offset, n bytes of it inside the pool and outside the register partition (R113, R241). -/
def nearAt (s : State) (a : Word) (off n : Nat) : Prop :=
  a.toNat = 0xF0 * 2 ^ 56 + off ∧ off + n ≤ 2 ^ 20 ∧ 0x4000 * (s.here.partword.toNat % 256) ≤ off

/-- The pieces of n bytes: they follow each other, no piece crosses a 64-byte boundary at the destination, and together they
are the n bytes (R97, R243). -/
def cutAt (dst : Word) (n : Nat) (ps : List (Nat × Nat)) : Prop :=
  (ps.map Prod.snd).sum = n ∧ (∀ p ∈ ps, 0 < p.2 ∧ (dst.toNat + p.1) % 64 + p.2 ≤ 64) ∧
    ∀ i p q, ps[i]? = some p → ps[i + 1]? = some q → q.1 = p.1 + p.2

end Sys2Proof.Claims

namespace Sys2Proof.Claims

/-- The put or get g of tile t is neither suspended nor waits for an access before it, and e is the event of its pieces that
comes next (R243, R245). -/
def pieceDue (s : State) (t : Nat) (g : NetOp) (e : PieceStep) : Prop :=
  ((s.tile t).gets.find? fun h => h.id == g.id) = some g ∧ g.suspended = false ∧ s.performed g.after = true ∧
    (readyPieces s t g)[s.choice (readyPieces s t g).length]? = some e

end Sys2Proof.Claims

/-- R242 to R245: a put or get between the own pool and a global address starts with its pieces still to be performed; a piece
is read whole as one event, with which the last of a put signals LSEM, and written whole as another, with which the last of
all signals SEM. R198: one whose global bytes run into a local window page is trap 0x0F at its trigger. -/
def Obligations.PutsAndGets : Prop :=
  (∀ v s off, nearAt s (s.opnd 0x1E1) off v.toNat → 0 < v.toNat → v.toNat ≤ 2 ^ 20 → globalAt s (s.opnd 0x1E0) →
    (s.opnd 0x1E3).toNat < 2 ^ 32 → (s.opnd 0x1E0).toNat / 2 ^ 56 < 0xDF →
    2 ^ 56 < (s.opnd 0x1E0).toNat % 2 ^ 56 + v.toNat →
    ∃ t, exec (.netPut v) s = .next t ∧ latchedAs s t 0x1E5 v 0x0F (BitVec.ofNat 64 (5 * 2 ^ 54))) ∧
  (∀ v s off, nearAt s (s.opnd 0x1E1) off v.toNat → 0 < v.toNat → v.toNat ≤ 2 ^ 20 → globalAt s (s.opnd 0x1E0) →
    (s.opnd 0x1E3).toNat < 2 ^ 32 → (s.opnd 0x1E0).toNat % 2 ^ 56 + v.toNat ≤ 2 ^ 56 →
    (∃ t g, exec (.netPut v) s = .next t ∧ t.here.gets = s.here.gets ++ [g] ∧ g.get = false ∧ g.slot = s.cur.2 ∧
      g.far = s.opnd 0x1E0 ∧ g.near = off ∧ g.n = v.toNat ∧ cutAt (s.opnd 0x1E0) v.toNat g.left ∧
      g.sem = (s.opnd 0x1E3).toNat % 256 ∧ g.lsem = (s.opnd 0x1E3).toNat / 256 % 256 ∧
      g.inc = (s.opnd 0x1E3).toNat / 2 ^ 16 ∧ g.suspended = false ∧ memorySame s t) ∧
    ((s.opnd 0x1E3).toNat / 256 % 256 = 255 →
      ∃ t g, exec (.netGet v) s = .next t ∧ t.here.gets = s.here.gets ++ [g] ∧ g.get = true ∧ g.slot = s.cur.2 ∧
        g.far = s.opnd 0x1E0 ∧ g.near = off ∧ g.n = v.toNat ∧ cutAt (s.opnd 0x1E1) v.toNat g.left ∧
        g.sem = (s.opnd 0x1E3).toNat % 256 ∧ g.inc = (s.opnd 0x1E3).toNat / 2 ^ 16 ∧ memorySame s t)) ∧
  (∀ s t g off n a, pieceDue s t g (.read off n) → (g.ends off).1.toNat = 0xF0 * 2 ^ 56 + a → a + n ≤ 2 ^ 20 → n ≤ 64 →
    hasBad (s.tile t).poolBad a n = none → (s.tile t).wtt = [] → (s.tile t).arrq = [] →
    ∃ s' g', exec (.netPiece t g.id) s = .next s' ∧ g' ∈ (s'.tile t).gets ∧ g'.id = g.id ∧
      g'.left = (g.left.filter fun q => q.1 != off) ∧ g'.got = g.got ++ [(off, (s.tile t).pool.readBytes a n)] ∧
      (g.get = false → g'.left = [] → g.lsem < 255 → (s'.tile t).sem g.lsem =
        { s := (((s.tile t).sem g.lsem).s + 1) % 2 ^ 32, err := ((s.tile t).sem g.lsem).err }) ∧ memorySame s s') ∧
  (∀ s t g off bs a, pieceDue s t g (.write off bs) → (g.ends off).2.toNat = 0xF0 * 2 ^ 56 + a → a + bs.length ≤ 2 ^ 20 →
    bs.length ≤ 64 → (s.tile t).resv = [] → (s.tile (g.semTile s t)).wtt = [] → (s.tile (g.semTile s t)).arrq = [] →
    ∃ s', exec (.netPiece t g.id) s = .next s' ∧ (s'.tile t).pool.readBytes a bs.length = bs ∧
      poolFrame s s' t a bs.length ∧
      (if g.left = [] ∧ (g.got.filter fun q => q.1 != off) = [] then
        (s'.tile t).gets = ((s.tile t).gets.filter fun h => h.id != g.id) ∧
        (g.sem < 255 → (s'.tile (g.semTile s t)).sem g.sem =
          { s := (((s.tile (g.semTile s t)).sem g.sem).s + g.inc) % 2 ^ 32,
            err := ((s.tile (g.semTile s t)).sem g.sem).err })
       else ∃ g' ∈ (s'.tile t).gets, g'.id = g.id ∧ g'.left = g.left ∧ g'.got = g.got.filter fun q => q.1 != off))

/-- R246 to R249: a send reads its line and leaves with it; an arriving message enters the inbox, or waits while 64 are there;
a receive writes the head entry into its line and answers the sideband word; tryrecv of an empty inbox answers 0, and of an
entry that cannot be read traps, its ADDR open (R379, log entry 61). -/
def Obligations.Messages : Prop :=
  (∀ v s u, (s.opnd 0x1E0).toNat < 2 ^ 16 → s.physical s.cur.1 (s.opnd 0x1E0).toNat = some u → v.toNat % 64 = 0 →
    0x4000 * (s.here.partword.toNat % 256) ≤ v.toNat % 2 ^ 20 → s.here.poolBad = [] →
    ∃ t p, exec (.netSend v) s = .next t ∧ t.flight = s.flight ++ [p] ∧ p.src = s.cur.1 ∧ p.slot = s.cur.2 ∧ p.dst = u ∧
      p.body = .msg ⟨s.here.pool.readBytes (v.toNat % 2 ^ 20) 64, 0, s.cur.2, s.here.ltile⟩ ∧
      p.after = s.earlier s.cur.1 s.cur.2 4 ∧ t.here.sent = s.here.sent + 1 ∧ memorySame s t) ∧
  (∀ s p q m, s.packet p = some q → q.body = .msg m → s.performed q.after = true → s.routeAhead q = false →
    ((s.tile q.dst).inbox.length < 64 → ∃ t, exec (.messageArrive p) s = .next t ∧ t.packet p = none ∧
      (t.tile q.dst).inbox = (s.tile q.dst).inbox ++ [m] ∧ (t.tile q.dst).rcvd = (s.tile q.dst).rcvd + 1 ∧
      memorySame s t) ∧
    (64 ≤ (s.tile q.dst).inbox.length → exec (.messageArrive p) s = .next s)) ∧
  (∀ v s m rest, s.here.inbox = m :: rest → m.data.length = 64 → v.toNat % 64 = 0 →
    0x4000 * (s.here.partword.toNat % 256) ≤ v.toNat % 2 ^ 20 → s.here.resv = [] →
    s.here.isBad (.inbox s.cur.1 0) = false →
    let gets (t : State) : Prop := t.here.inbox = rest ∧ t.here.pool.readBytes (v.toNat % 2 ^ 20) 64 = m.data ∧
      poolFrame s t s.cur.1 (v.toNat % 2 ^ 20) 64 ∧ ∃ r y, latest t r ∧ r.unit = .net ∧ r.y = some y ∧ r.due = none ∧
        y.toNat = 2 ^ 63 + m.kind % 16 * 2 ^ 48 + m.slot % 16 * 2 ^ 32 + rest.length % 256 * 2 ^ 16 + m.src % 2 ^ 16
    (s.me.hnd = false → ∃ t, exec (.netRecv v) s = .next t ∧ gets t) ∧
    ((∀ e ∈ s.here.strands, e.1 ≠ s.cur.2 → e.2.hold = none) → ∃ t, exec (.netTryrecv v) s = .next t ∧ gets t)) ∧
  (∀ v s, s.here.inbox = [] → v.toNat % 64 = 0 → 0x4000 * (s.here.partword.toNat % 256) ≤ v.toNat % 2 ^ 20 →
    exec (.netTryrecv v) s = .next (s.resultLocked .net 0 2)) ∧
  (∀ v s, s.here.inbox ≠ [] → v.toNat % 64 = 0 → 0x4000 * (s.here.partword.toNat % 256) ≤ v.toNat % 2 ^ 20 →
    (∀ e ∈ s.here.strands, e.1 ≠ s.cur.2 → e.2.hold = none) → s.here.isBad (.inbox s.cur.1 0) = true →
    ∃ t, exec (.netTryrecv v) s = .next t ∧ latchedError s t 0x1E9 v 0x14 ∧ t.here.inbox = s.here.inbox ∧ memorySame s t)

/-- R251 to R255: net.go notes that the strand leaves after its word; the strand that leaves is offered to its target with its
registers; the target takes it into a free slot, whose strand goes on at the same address with the same registers, or keeps it
in its arrival queue; a target that runs another launch sends it back, and it takes trap 0x0B at the source. A strand that leaves
for its own tile stays in its slot, with its results, latches and latched operations discarded (R253, R255). -/
def Obligations.Migration : Prop :=
  (∀ v s lt off, classify v = .ok (.remote lt off) → (s.poolTarget s.cur.1 (.remote lt off)).isSome = true → s.cur.2 ≠ 0 →
    s.me.wgo = false → s.me.ret.length ≤ 4 → s.me.sdepth = 0 →
    exec (.netGo v) s = .next (s.setMe { s.me with going := some v })) ∧
  (∀ v s t k lt off u o, classify v = .ok (.remote lt off) → s.poolTarget t (.remote lt off) = some (u, o) → u ≠ t →
    ∃ p m, (depart s t k v).flight = s.flight ++ [p] ∧ p.src = t ∧ p.slot = k ∧ p.dst = u ∧ p.body = .migrate m ∧
      m.pc = (s.strand t k).pc ∧ m.mode = (s.strand t k).mode ∧ m.fmt = (s.strand t k).fmt ∧
      m.ret = (s.strand t k).ret ∧ (∀ i, i < 10 → m.regs[i]? = some (Map.find 0 (s.strand t k).regs i)) ∧
      ((depart s t k v).strand t k).block = some (.going v)) ∧
  (∀ v s t k lt off o, classify v = .ok (.remote lt off) → s.poolTarget t (.remote lt off) = some (t, o) →
    let st := (depart s t k v).strand t k
    (∀ i, Map.find 0 st.regs i = Map.find 0 (s.strand t k).regs i) ∧ st.pw = (s.strand t k).pw ∧
      st.pc = (s.strand t k).pc ∧ st.mode = (s.strand t k).mode ∧ st.ret = (s.strand t k).ret ∧
      st.user.res = [] ∧ st.trap.res = [] ∧ st.user.ops = [] ∧ st.trap.ops = [] ∧ st.latched = [] ∧ st.latchedT = [] ∧
      st.resv = none ∧ st.vreq = (0, 0) ∧ (depart s t k v).flight = s.flight) ∧
  (∀ s p q m, s.packet p = some q → q.body = .migrate m → s.performed q.after = true → s.routeAhead q = false →
    q.dst ≠ q.src →
    (sameLaunch s q.src q.dst = false → ∃ t, exec (.migrationArrive p) s = .next t ∧
      t.packet p = some { q with src := q.dst, dst := q.src, body := .refused } ∧ t.tiles = s.tiles) ∧
    (sameLaunch s q.src q.dst = true → (s.tile q.src).wtt = [] → (s.tile q.src).arrq = [] →
      (s.freeSlots q.dst = [] → (s.tile q.dst).arrq.length < 8 → ∃ t, exec (.migrationArrive p) s = .next t ∧
        t.packet p = none ∧ (t.tile q.dst).arrq = (s.tile q.dst).arrq ++ [m] ∧
        (t.strand q.src q.slot).status = .free) ∧
      (∀ k rest, s.freeSlots q.dst = k :: rest → (s.tile q.dst).arrq = [] → (s.tile q.dst).wtt = [] → m.regs.length = 10 →
        ∃ t, exec (.migrationArrive p) s = .next t ∧ t.packet p = none ∧ (t.strand q.src q.slot).status = .free ∧
          (t.strand q.dst k).status = .live ∧ (t.strand q.dst k).pc = m.pc ∧ (t.strand q.dst k).mode = m.mode ∧
          (t.strand q.dst k).ret = m.ret ∧
          ∀ i, i < 10 → some (Map.find 0 (t.strand q.dst k).regs i) = m.regs[i]?))) ∧
  (∀ s p q v, s.packet p = some q → q.body = .refused → (s.strand q.dst q.slot).block = some (.going v) →
    ∃ t l, exec (.migrationRefused p) s = .next t ∧ t.packet p = none ∧ (t.strand q.dst q.slot).block = none ∧
      (if (s.strand q.dst q.slot).tl then (t.strand q.dst q.slot).latchedT
        else (t.strand q.dst q.slot).latched).getLast? = some l ∧
      l.cause = 0x0B ∧ l.op.port = 0x1ED ∧ l.op.v = v ∧ (t.strand q.dst q.slot).latchedDue = true)

/-- R256, R352, R361: an interrupt leaves for its tile with the sender in its SINFO, and enters its slot's queue of four, or waits
while that is full; it has been received once it enters or is discarded. -/
def Obligations.TileInterrupts : Prop :=
  (∀ v s u, s.physical s.cur.1 (v.toNat % 2 ^ 16) = some u → s.here.ltile < 2 ^ 16 → s.cur.2 < 16 →
    ∃ t p info, exec (.netIpi v) s = .next t ∧ t.flight = s.flight ++ [p] ∧ p.dst = u ∧ p.src = s.cur.1 ∧
      p.body = .ipi (v.toNat / 2 ^ 16 % 16) info ∧
      info.toNat = s.cur.2 * 2 ^ 48 + s.here.ltile * 2 ^ 32 + (s.opnd 0x1E0).toNat % 2 ^ 32 ∧ memorySame s t) ∧
  (∀ s p q slot info, s.packet p = some q → q.body = .ipi slot info → s.routeAhead q = false →
    (s.tile q.dst).wait36 = [] → s.takesIrq q.dst slot 0x36 = true →
    ((s.strand q.dst slot).irq36.length < 4 → ∃ t, exec (.ipiArrive p) s = .next t ∧ t.packet p = none ∧
      (t.strand q.dst slot).irq36 = (s.strand q.dst slot).irq36 ++ [info] ∧ (t.tile q.dst).wait36 = [] ∧
      (t.tile q.dst).rcvd = (s.tile q.dst).rcvd + 1 ∧ memorySame s t) ∧
    (4 ≤ (s.strand q.dst slot).irq36.length → ∃ t, exec (.ipiArrive p) s = .next t ∧ t.packet p = none ∧
      (t.strand q.dst slot).irq36 = (s.strand q.dst slot).irq36 ∧ 
      (t.tile q.dst).wait36 = [{ slot := slot, info := info, id := p, src := q.src, from_ := q.slot }] ∧
      (t.tile q.dst).rcvd = (s.tile q.dst).rcvd ∧ memorySame s t)) ∧
  (∀ s p q slot info, s.packet p = some q → q.body = .ipi slot info → s.routeAhead q = false →
    (s.tile q.dst).wait36 = [] → s.takesIrq q.dst slot 0x36 = false → ∃ t, exec (.ipiArrive p) s = .next t ∧
      t.packet p = none ∧ (t.tile q.dst).wait36 = [] ∧ (t.tile q.dst).rcvd = (s.tile q.dst).rcvd + 1 ∧ (∀ k, t.strand q.dst k = s.strand q.dst k) ∧ memorySame s t)

/-- R338 to R342, R375: a first arrival answers the phase as its token, and is the tile's contribution when it is the only
party; barwait and trybarwait answer how far the phase is from the token; a report is counted, a router that has all of its
own reports to the one above it or at the root releases, and a release goes on to the children, advances the phase, closes the
arrivals, and may be held back. -/
def Obligations.Barriers : Prop :=
  (∀ v s n b, (s.opnd 0x1E2).toNat = 256 * n + b → n < 16 → b < 16 → (∀ e ∈ s.me.bars, e.1 ≠ b) →
    (s.here.bar b).cont = false → (s.here.bar b).acnt = 0 →
    ∃ t r, exec (.netArrive v) s = .next t ∧ latest t r ∧ r.unit = .net ∧ r.y = some ((s.here.bar b).ph.zeroExtend 64) ∧
      t.me.bars = (b, (s.here.bar b).ph.toNat) :: s.me.bars ∧ (t.here.bar b).acnt = 1 ∧ (t.here.bar b).tpart = n + 1 ∧
      (t.here.bar b).ph = (s.here.bar b).ph ∧ ((t.here.bar b).cont = true ↔ n = 0) ∧
      (n = 0 → ∃ p, t.flight = s.flight ++ [p] ∧ p.dst = s.cur.1 ∧ p.body = .barReport b s.here.ltile ∧
        p.after = s.earlier s.cur.1 s.cur.2 4) ∧
      (n ≠ 0 → t.flight = s.flight) ∧ memorySame s t) ∧
  (∀ v s b, (s.opnd 0x1E2).toNat = b → b < 16 →
    let d := ((s.here.bar b).ph.toNat + 2 ^ 16 - v.toNat % 2 ^ 16) % 2 ^ 16
    (s.me.hnd = false → (∀ h, s.me.hold = some h → h.bar = false) → d ≠ 0 →
      exec (.netBarwait v) s = .next (s.resultLocked .net (if d = 1 then 1 else 2) 2)) ∧
    (∀ h, s.me.hnd = false → s.me.hold = some h → h.bar = true →
      exec (.netBarwait v) s = .next (s.resultLocked .net 0 2)) ∧
    exec (.netTrybarwait v) s = .next (s.resultLocked .net (if d = 0 then 3 else if d = 1 then 1 else 2) 2)) ∧
  (∀ s p q b child, s.packet p = some q → q.body = .barReport b child → s.performed q.after = true →
    ((s.shape q.dst).1 = 0 → ∃ t, exec (.barrierReport p) s = .next t ∧ t.packet p = none ∧
      ((t.tile q.dst).bar b).reports = child :: ((s.tile q.dst).bar b).reports ∧ memorySame s t) ∧
    (∀ w h, s.shape q.dst = (w, h) → 0 < w →
      let lt := (s.tile q.dst).ltile
      let got := child :: ((s.tile q.dst).bar b).reports
      let full := lt ∈ got ∧ (lt % w + 1 < w → lt + 1 ∈ got) ∧ (lt % w = 0 → lt / w + 1 < h → lt + w ∈ got)
      let left := s.flight.filter fun k => k.id != p
      (¬ full → ∃ t, exec (.barrierReport p) s = .next t ∧ t.flight = left ∧ ((t.tile q.dst).bar b).reports = got ∧
        memorySame s t) ∧
      (full → ∀ up u, (lt % w ≠ 0 ∧ up + 1 = lt ∨ lt % w = 0 ∧ lt ≠ 0 ∧ up + w = lt) → s.physical q.dst up = some u →
        ∃ t r, exec (.barrierReport p) s = .next t ∧ t.flight = left ++ [r] ∧ r.dst = u ∧ r.body = .barReport b lt ∧
          ((t.tile q.dst).bar b).reports = [] ∧ memorySame s t) ∧
      (full → lt = 0 → ∃ t r, exec (.barrierReport p) s = .next t ∧ t.flight = left ++ [r] ∧ r.dst = q.dst ∧
        r.body = .barRelease b s.time (s.phrelOf q.dst) ∧ ((t.tile q.dst).bar b).reports = [] ∧ memorySame s t))) ∧
  (∀ s p q b stamp phrel, s.packet p = some q → q.body = .barRelease b stamp phrel → p < s.nextId →
    (s.tile q.dst).done = false →
    (∃ t, exec (.barrierRelease p) s = .next t ∧ ∀ w h c u, s.shape q.dst = (w, h) →
      (c = (s.tile q.dst).ltile + 1 ∧ (s.tile q.dst).ltile % w + 1 < w ∨
        c = (s.tile q.dst).ltile + w ∧ (s.tile q.dst).ltile % w = 0 ∧ (s.tile q.dst).ltile / w + 1 < h) →
      s.physical q.dst c = some u → ∃ r ∈ t.flight, r.dst = u ∧ r.body = .barRelease b stamp phrel) ∧
    (phrel.getLsbD 0 = false ∨ stamp + phrel.toNat / 2 ^ 16 % 2 ^ 16 + phrel.toNat / 2 ^ 8 % 2 ^ 8 * colOf q.dst ≤ s.time →
      ∃ t, exec (.barrierRelease p) s = .next t ∧ t.packet p = none ∧
        ((t.tile q.dst).bar b).ph = ((s.tile q.dst).bar b).ph + 1 ∧ ((t.tile q.dst).bar b).acnt = 0 ∧
        ((t.tile q.dst).bar b).cont = false ∧ (∀ k e, e ∈ (t.strand q.dst k).bars → e.1 ≠ b) ∧ memorySame s t) ∧
    (phrel.getLsbD 0 = true → s.time < stamp + phrel.toNat / 2 ^ 16 % 2 ^ 16 + phrel.toNat / 2 ^ 8 % 2 ^ 8 * colOf q.dst →
      ∃ t, exec (.barrierRelease p) s = .next t ∧ t.packet p = none ∧
        ((t.tile q.dst).bar b).ph = ((s.tile q.dst).bar b).ph ∧
        ((t.tile q.dst).bar b).delayed =
          some (stamp + phrel.toNat / 2 ^ 16 % 2 ^ 16 + phrel.toNat / 2 ^ 8 % 2 ^ 8 * colOf q.dst) ∧ memorySame s t)) ∧
  (∀ s t b d, ((s.tile t).bar b).delayed = some d → (s.time < d → exec (.barrierReleaseDelayed t b) s = .next s) ∧
    (d ≤ s.time → (s.tile t).done = false → ∃ s', exec (.barrierReleaseDelayed t b) s = .next s' ∧
      ((s'.tile t).bar b).ph = ((s.tile t).bar b).ph + 1 ∧ ((s'.tile t).bar b).acnt = 0 ∧
      ((s'.tile t).bar b).delayed = none ∧ memorySame s s'))

/-! ## Channels and stream entries -/

namespace Sys2Proof.Claims

/-- A field of n bytes of the own pool. -/
def field (s : State) (off n : Nat) : Nat := leNat (s.here.pool.readBytes off n)

/-- The line that net.chsend reads can be read: aligned, outside the register partition, without an error (R265, R380). -/
def lineAt (s : State) (off : Nat) : Prop :=
  off % 64 = 0 ∧ off < 2 ^ 20 ∧ 0x4000 * (s.here.partword.toNat % 256) ≤ off ∧ s.here.poolBad = []

/-- Packet p, with nothing before it, has reached tile q.dst, where nothing waits for a slot or holds a reservation. -/
def arrives (s : State) (p : Nat) (q : Packet) : Prop :=
  s.packet p = some q ∧ s.performed q.after = true ∧ s.routeAhead q = false ∧ (s.tile q.dst).wtt = [] ∧
    (s.tile q.dst).arrq = [] ∧ (s.tile q.dst).resv = []

end Sys2Proof.Claims

/-- R264 to R268, R270: SEND of a line of each kind on a channel or to the own entry, FREE, CHCONF and QUERY; and a pending
channel error is taken by them. That the credit of a chunk of the local entry leaves as a packet of the tile to itself is the
model's choice (log entry 33). -/
def Obligations.ChannelOperations : Prop :=
  (∀ v s c u kind cnt, let ch := s.here.chan c
    let data := s.here.pool.readBytes (v.toNat % 2 ^ 20) 56
    (s.opnd 0x1E2).toNat = cnt * 2 ^ 20 + kind * 2 ^ 16 + 256 * c → kind < 16 → cnt < 16 → c < 64 →
    sendBad kind cnt data = false → ch.peer ≠ 0xFFFF → s.physical s.cur.1 ch.peer = some u → lineAt s (v.toNat % 2 ^ 20) →
    ∃ t p, exec (.chSend v) s = .next t ∧ t.flight = s.flight ++ [p] ∧ p.src = s.cur.1 ∧ p.slot = s.cur.2 ∧ p.dst = u ∧
      p.body = .chLine ch.pch ch.seqS ch.lineS ⟨data, kind, cnt, 0, true⟩ c ch.pdepth ∧
      (if kind = 3 ∨ kind = 4 ∨ ch.plines ≤ ch.lineS + 1 then (t.here.chan c).lineS = 0 ∧ (t.here.chan c).seqS = (ch.seqS + 1) % 2 ^ 32
       else (t.here.chan c).lineS = ch.lineS + 1 ∧ (t.here.chan c).seqS = ch.seqS) ∧
      (t.here.chan c).cred = (if ch.lineS = 0 then ch.cred - 1 else ch.cred) ∧
      (∀ d, d ≠ c → t.here.chan d = s.here.chan d) ∧ memorySame s t) ∧
  (∀ v s e kind cnt, let data := s.here.pool.readBytes (v.toNat % 2 ^ 20) 56
    (s.opnd 0x1E2).toNat = cnt * 2 ^ 20 + kind * 2 ^ 16 + 256 * e + 8 → kind < 16 → cnt < 16 → e < 64 →
    sendBad kind cnt data = false → lineAt s (v.toNat % 2 ^ 20) →
    ∃ t p, exec (.chSend v) s = .next t ∧ t.flight = s.flight ++ [p] ∧ p.src = s.cur.1 ∧ p.dst = s.cur.1 ∧
      p.body = .stLine e 0 ⟨data, kind, cnt, 0, true⟩ ∧ t.here.chans = s.here.chans ∧ memorySame s t) ∧
  (∀ v s c u, let ch := s.here.chan c
    (s.opnd 0x1E2).toNat = 256 * c + 1 → c < 64 → 0 < v.toNat → v.toNat ≤ 256 → v.toNat ≤ ch.done → ch.errs = [] →
    (ch.src = 0xFFFF ∧ u = s.cur.1 ∨ ch.src ≠ 0xFFFF ∧ s.physical s.cur.1 ch.src = some u) →
    ∃ t p, exec (.chFree v) s = .next t ∧ t.flight = s.flight ++ [p] ∧ p.dst = u ∧ p.body = .credit c v.toNat (ch.src == 0xFFFF) ∧
      (t.here.chan c).done = ch.done - v.toNat ∧ (∀ d, d ≠ c → t.here.chan d = s.here.chan d) ∧ memorySame s t) ∧
  (∀ v s c, let off := v.toNat % 2 ^ 20
    (s.opnd 0x1E2).toNat = 256 * c + 2 → c < 64 → lineAt s off → (s.here.chan c).errs = [] →
    chconfBad s (s.here.pool.readBytes off 64) = false → ringBad s (s.here.pool.readBytes off 64) = false →
    ∃ t, exec (.chConf v) s = .next t ∧ (t.here.chan c).base = field s off 4 ∧
      (t.here.chan c).depth = field s (off + 4) 2 ∧ (t.here.chan c).lines = field s (off + 6) 1 ∧
      (t.here.chan c).rsem = field s (off + 7) 1 ∧ (t.here.chan c).src = field s (off + 8) 2 ∧
      (t.here.chan c).peer = field s (off + 10) 2 ∧ (t.here.chan c).pch = field s (off + 12) 1 ∧
      (t.here.chan c).ssem = field s (off + 13) 1 ∧ (t.here.chan c).cred = field s (off + 14) 2 ∧
      (t.here.chan c).pdepth = field s (off + 14) 2 ∧
      (t.here.chan c).plines = field s (off + 16) 1 ∧ (t.here.chan c).seqS = 0 ∧ (t.here.chan c).lineS = 0 ∧
      (t.here.chan c).rseq = 0 ∧ (t.here.chan c).rline = 0 ∧ (t.here.chan c).done = 0 ∧
      (∀ d, d ≠ c → t.here.chan d = s.here.chan d) ∧ memorySame s t) ∧
  (∀ v s c, (s.opnd 0x1E2).toNat = 256 * c + 4 → c < 64 → (s.here.chan c).errs = [] →
    ∃ y, exec (.chQuery v) s = .next (s.resultLocked .net y 2) ∧ y.toNat = ((s.here.chan c).rseq * 2 ^ 32 +
      (s.here.chan c).cred % 512 * 2 ^ 23 + (s.here.chan c).done % 512 * 2 ^ 14 + (s.here.chan c).rline % 16) % 2 ^ 64) ∧
  (∀ v s c cause info rest, (s.opnd 0x1E2).toNat = 256 * c + 4 → c < 64 → (s.here.chan c).errs = (cause, info) :: rest →
    0x21 ≤ cause → cause ≤ 0x23 → ∃ t l, exec (.chQuery v) s = .next t ∧
      (t.here.chan c).errs = Map.erase (s.here.chan c).errs cause ∧
      (if s.me.tl then t.me.latchedT else t.me.latched).getLast? = some l ∧ l.cause = cause ∧ l.info = info + 0x1EE ∧
      l.op.port = 0x1EE ∧ l.op.v = v ∧ memorySame s t)

/-- R267, R271, R273: the line that comes next on a channel is written into the ring with its flag word and check byte, and may
complete its chunk; any other line is discarded, the chunk abandoned with error status and error 0x23 pending, and so are those
after it until a chunk starts; a credit goes to the channel that names its receiver, or is the tile's own. That a PDEPTH other
than DEPTH is such an error is the model's reading (log entry 32), and that the tile's own credit travels as a packet its choice
(log entry 33). -/
def Obligations.ChannelArrivals : Prop :=
  (∀ s p q c seq line l num pd, arrives s p q → q.body = .chLine c seq line l num pd →
    let ch := (s.tile q.dst).chan c
    let a := ch.base + 64 * (seq % ch.depth * ch.lines + line)
    ch.depth ≠ 0 → ch.resync = false →
    (ch.src = (s.tile q.src).ltile → seq = ch.rseq → line = ch.rline → line < ch.lines → pd = ch.depth → l.data.length = 56 →
      seq < 2 ^ 32 → c < 64 → line < 16 → l.cnt < 16 → l.kind < 16 →
      ∃ t, exec (.channelLineArrive p) s = .next t ∧ t.packet p = none ∧
        (t.tile q.dst).pool.readBytes a 56 = l.data ∧
        ((t.tile q.dst).pool.readBytes a 64).foldl (fun x y => x ^^^ y) 0 = 0 ∧
        leNat ((t.tile q.dst).pool.readBytes (a + 57) 7) =
          seq * 2 ^ 24 + c * 2 ^ 16 + line * 2 ^ 8 + l.cnt * 2 ^ 4 + l.kind ∧
        poolFrame s t q.dst a 64 ∧
        (if line + 1 = ch.lines ∨ l.kind = 3 ∨ l.kind = 4 then
          ((t.tile q.dst).chan c).rseq = (ch.rseq + 1) % 2 ^ 32 ∧ ((t.tile q.dst).chan c).done = ch.done + 1 ∧
            ((t.tile q.dst).chan c).rline = 0 ∧
            (ch.rsem < 255 → ((t.tile q.dst).sem ch.rsem).s = (((s.tile q.dst).sem ch.rsem).s + 1) % 2 ^ 32)
         else ((t.tile q.dst).chan c).rseq = ch.rseq ∧ ((t.tile q.dst).chan c).done = ch.done ∧
          ((t.tile q.dst).chan c).rline = line + 1)) ∧
    (¬ (ch.src = (s.tile q.src).ltile ∧ seq = ch.rseq ∧ line = ch.rline ∧ line < ch.lines ∧ pd = ch.depth) →
      ∃ t, exec (.channelLineArrive p) s = .next t ∧ t.packet p = none ∧ ((t.tile q.dst).chan c).rline = 0 ∧
        ((t.tile q.dst).chan c).resync = true ∧ (Map.get? ((t.tile q.dst).chan c).errs 0x23).isSome = true ∧
        ((t.tile q.dst).chan c).rseq = ch.rseq ∧
        (ch.rsem < 255 → (t.tile q.dst).sem ch.rsem = { s := (((s.tile q.dst).sem ch.rsem).s + 1) % 2 ^ 32, err := true }) ∧
        memorySame s t)) ∧
  (∀ s p q c seq line l num pd, arrives s p q → q.body = .chLine c seq line l num pd →
    (((s.tile q.dst).chan c).depth = 0 → exec (.channelLineArrive p) s = .next s) ∧
    (((s.tile q.dst).chan c).depth ≠ 0 → ((s.tile q.dst).chan c).resync = true →
      ¬ (((s.tile q.dst).chan c).src = (s.tile q.src).ltile ∧ line = 0) →
      exec (.channelLineArrive p) s = .next (s.drop p))) ∧
  (∀ s p q c n, arrives s p q → q.body = .credit c n true → exec (.creditArrive p) s = .next (s.drop p)) ∧
  (∀ s p q c n i ch, arrives s p q → q.body = .credit c n false →
    ((s.tile q.dst).chans.find? fun e => e.2.peer == (s.tile q.src).ltile && e.2.pch == c) = some (i, ch) →
    ∃ t, exec (.creditArrive p) s = .next t ∧ t.packet p = none ∧ ((t.tile q.dst).chan i).cred = ch.cred + n ∧
      (ch.ssem < 255 → ((t.tile q.dst).sem ch.ssem).s = (((s.tile q.dst).sem ch.ssem).s + n) % 2 ^ 32) ∧ memorySame s t)

/-- R275 to R284, R393: STCONF configures an entry or answers 1 when its reservation does not fit; lines enter an input while it
has room; the merge copies a sole input's data line, sums the records of the least index in port order, closes a segment at the
terminators, and for a fault discards the rest of the segment on every input of the set before the error end and set 0; outputs leave where there is room; frames from other devices, a line of which
is taken when its check byte is right (R260); the port and the head of an answer are the model's (log entry 66). -/
def Obligations.StreamEntries : Prop :=
  (∀ v s e, let off := v.toNat % 2 ^ 20
    (s.opnd 0x1E2).toNat = 256 * e + 3 → e < 64 → lineAt s off → stconfBad (s.here.pool.readBytes off 64) = false →
    let used := ((s.here.ents.filter fun x => x.1 != e).map fun x => reserved x.2.nsets x.2.k x.2.f).sum
      + reserved (field s off 1) (field s (off + 2) 1) (field s (off + 3) 1)
    (8192 < used → ∃ t r, exec (.stConf v) s = .next t ∧ latest t r ∧ r.unit = .net ∧ r.y = some 1 ∧
      t.here.ents = s.here.ents ∧ memorySame s t) ∧
    (used ≤ 8192 → ∃ t r, exec (.stConf v) s = .next t ∧ latest t r ∧ r.unit = .net ∧ r.y = some 0 ∧
      (t.here.ent e).nsets = field s off 1 ∧ (t.here.ent e).vfmt = field s (off + 1) 1 ∧
      (t.here.ent e).k = field s (off + 2) 1 ∧ (t.here.ent e).f = field s (off + 3) 1 ∧
      (t.here.ent e).dch = field s (off + 4) 1 ∧ (t.here.ent e).esem = field s (off + 5) 1 ∧ (t.here.ent e).set = 0 ∧
      (t.here.ent e).bufs = (s.here.ent e).bufs ∧ (∀ d, d ≠ e → t.here.ent d = s.here.ent d) ∧ memorySame s t)) ∧
  (∀ s p q e port l, arrives s p q → q.body = .stLine e port l →
    let b := Map.find [] ((s.tile q.dst).ent e).bufs port
    (b.length < 16 → ∃ t, exec (.streamLineArrive p) s = .next t ∧ t.packet p = none ∧
      Map.find [] ((t.tile q.dst).ent e).bufs port = b ++ [l] ∧ memorySame s t) ∧
    (16 ≤ b.length → exec (.streamLineArrive p) s = .next s)) ∧
  (∀ s t e, let en := (s.tile t).ent e
    en.nsets ≠ 0 → en.out = [] → (s.tile t).stopped = false → en.discard = [] → en.flags / 4 % 4 = 0 → en.span = [] → en.part = [] →
    (∀ p l rest, en.inPorts = [p] → Map.find [] en.bufs p = l :: rest → lineFault en.vfmt l = false → l.kind = 0 →
      l.data.length = 56 → ∃ s', exec (.mergeRecord t e) s = .next s' ∧
        ((s'.tile t).ent e).out = [(en.outMask, ⟨l.data, 0, 0, en.vfmt, false⟩)] ∧
        Map.find [] ((s'.tile t).ent e).bufs p = rest ∧ memorySame s s') ∧
    (∀ p q i j a b, en.inPorts = [p, q] → p ≠ q → headOf en p = some (.record i a) → headOf en q = some (.record j b) →
      en.vfmt = 1 → ∃ s', exec (.mergeRecord t e) s = .next s' ∧ memorySame s s' ∧
        (i = j → ((s'.tile t).ent e).span = [(i, (max (-2 ^ 31) (min (signed 32 a + signed 32 b) (2 ^ 31 - 1)) % 2 ^ 32).toNat)] ∧
          Map.find 0 ((s'.tile t).ent e).prev p = i ∧ Map.find 0 ((s'.tile t).ent e).prev q = i) ∧
        (i < j → ((s'.tile t).ent e).span = [(i, a)] ∧ headOf ((s'.tile t).ent e) q = some (.record j b))) ∧
    (∀ p l rest, en.inPorts = [p] → Map.find [] en.bufs p = l :: rest → lineFault en.vfmt l = false → l.kind = 3 →
      ∃ s' o, exec (.mergeRecord t e) s = .next s' ∧ ((s'.tile t).ent e).out = [(en.outMask, o)] ∧ o.kind = 3 ∧
        ((s'.tile t).ent e).set = (en.set + 1) % en.nsets ∧ memorySame s s') ∧
    (∀ p l rest, en.inPorts = [p] → Map.find [] en.bufs p = l :: rest → lineFault en.vfmt l = true →
      ∃ s', exec (.mergeRecord t e) s = .next s' ∧ ((s'.tile t).ent e).out = [] ∧ ((s'.tile t).ent e).discard = [p] ∧
        ((s'.tile t).ent e).flags / 8 % 2 = 1 ∧ ((s'.tile t).ent e).set = en.set ∧ (s'.tile t).sems = (s.tile t).sems ∧
        ((s'.tile t).ent e).bufs = en.bufs ∧ memorySame s s')) ∧
  (∀ s t e p l rest, let en := (s.tile t).ent e
    en.nsets ≠ 0 → en.out = [] → (s.tile t).stopped = false → en.discard = [p] → Map.find [] en.bufs p = l :: rest →
    ∃ s', exec (.mergeRecord t e) s = .next s' ∧ Map.find [] ((s'.tile t).ent e).bufs p = rest ∧
      ((s'.tile t).ent e).discard = (if l.kind = 3 ∨ l.kind = 4 then [] else [p]) ∧ ((s'.tile t).ent e).out = [] ∧
      ((s'.tile t).ent e).flags = en.flags ∧ memorySame s s') ∧
  (∀ s t e, let en := (s.tile t).ent e
    en.nsets ≠ 0 → en.out = [] → (s.tile t).stopped = false → en.discard = [] → en.flags / 4 % 4 ≠ 0 → en.esem < 255 →
    (s.tile t).wtt = [] → (s.tile t).arrq = [] →
    ∃ s' o, exec (.mergeRecord t e) s = .next s' ∧ ((s'.tile t).ent e).out = [(en.outMask, o)] ∧ o.kind = 4 ∧
      leNat (o.data.take 4) = en.flags % 2 ^ 32 ∧ ((s'.tile t).ent e).flags = 0 ∧ ((s'.tile t).ent e).set = 0 ∧
      (s'.tile t).sem en.esem = { s := (((s.tile t).sem en.esem).s + 1) % 2 ^ 32, err := true } ∧ memorySame s s') ∧
  (∀ s t e port u l rest, let en := (s.tile t).ent e
    1 ≤ port → port ≤ 4 → en.out = (2 ^ port, l) :: rest → (s.tile t).stopped = false →
    s.physical t (neighbour (s.shape t).1 (s.shape t).2 (s.tile t).ltile port) = some u →
    (inputRoom s u e (facing port) = true → ∃ s' p, exec (.streamOutput t e) s = .next s' ∧
      s'.flight = s.flight ++ [p] ∧ p.dst = u ∧ p.body = .stLine e (facing port) l ∧
      ((s'.tile t).ent e).out = rest ∧ memorySame s s') ∧
    (inputRoom s u e (facing port) = false → ∃ s', exec (.streamOutput t e) s = .next s' ∧
      ((s'.tile t).ent e).out = en.out ∧ s'.flight = s.flight ∧ memorySame s s')) ∧
  (∀ s t e l rest, let en := (s.tile t).ent e
    en.out = (2 ^ 5, l) :: rest → (s.tile t).stopped = false → ∃ s', exec (.streamOutput t e) s = .next s' ∧
      s'.hostOut = s.hostOut ++ [.frame en.uport (upFrame e en l)] ∧ s'.flight = s.flight ∧
      ((s'.tile t).ent e).out = rest ∧ memorySame s s') ∧
  (∀ f s, f.destDev ≠ Config.deviceNumber % 1024 → exec (.scaleupFrame f) s = .next s) ∧
  (∀ f s, f.destDev = Config.deviceNumber % 1024 →
    (f.kind = 1 → f.data.length = 64 → f.data.foldl (fun x y => x ^^^ y) 0 ≠ 0 → exec (.scaleupFrame f) s = .next s) ∧
    (∀ u, f.kind = 1 → f.data.length = 64 → f.data.foldl (fun x y => x ^^^ y) 0 = 0 →
      frameHome s f.destTile = some (.live u) → ∃ t p l, exec (.scaleupFrame f) s = .next t ∧
        t.flight = s.flight ++ [p] ∧ p.dst = u ∧ p.body = .stLine f.destEnt 5 l ∧ l.data = f.data.take 56 ∧
        l.kind = (f.data.getD 57 0).toNat % 16 ∧ l.cnt = (f.data.getD 57 0).toNat / 16 ∧
        l.fmt = (f.data.getD 58 0).toNat % 16 ∧ memorySame s t) ∧
    (f.kind = 2 → isHole (f.pa % 2 ^ 40) = false → s.chanCtl (f.pa % 2 ^ 40) = 1 → ∃ t, exec (.scaleupFrame f) s = .next t ∧
      t.hbm.readBytes (f.pa % 2 ^ 40) f.data.length = f.data ∧
      (∀ a, a < f.pa % 2 ^ 40 ∨ f.pa % 2 ^ 40 + f.data.length ≤ a → t.hbm.read a = s.hbm.read a) ∧ t.tiles = s.tiles) ∧
    (f.kind = 3 → isHole (f.pa % 2 ^ 40) = false → s.chanCtl (f.pa % 2 ^ 40) = 1 → s.hbmBad = [] → s.l2Bad = [] →
      ∃ t head port, exec (.scaleupFrame f) s = .next t ∧ head.length = 24 ∧ port < 72 ∧
      t.hostOut = s.hostOut ++ [.frame port (head ++ s.hbm.readBytes (f.pa % 2 ^ 40) f.n)] ∧ memorySame s t) ∧
    (f.kind = 4 → ∃ t, exec (.scaleupFrame f) s = .next t ∧
      t.far.readBytes (f.srcDev * 2 ^ 40 + f.pa % 2 ^ 40) f.data.length = f.data ∧ memorySame s t))

/-! ## Copies -/

/-- R94, R99 to R101, R103, R104, R107: a descriptor that passes its checks takes the lowest free entry and answers its id, and
dma.bind binds the socket; query and abort answer the state word; unbind empties the socket and aborts its live copy; stk.w
appends. That query and abort ignore bits [63:16] of the id (log entry 63) and that an id's generation is the entry's count of
takes (log entry 31) are the model's choices. -/
def Obligations.CopyOperations : Prop :=
  (∀ v s d e, copyCheck s false v = .ok d → freeCopy s.here = some e →
    ∃ t, exec (.dmaCopy v) s = .next t ∧ (t.here.copy e).state = 1 ∧ (t.here.copy e).owner = s.cur.2 ∧
      (t.here.copy e).desc = d ∧ (t.here.copy e).done = 0 ∧ (t.here.copy e).gen = ((s.here.copy e).gen + 1) % 2048 ∧
      (t.here.copy e).after = s.earlier s.cur.1 s.cur.2 4 ∧ (∀ f, f ≠ e → t.here.copy f = s.here.copy f) ∧
      (∃ r, latest t r ∧ r.unit = .dma ∧
        r.y = some (BitVec.ofNat 64 (((s.here.copy e).gen + 1) % 2048 * 32 + e))) ∧ memorySame s t) ∧
  (∀ v s d e, copyCheck s true v = .ok d → freeCopy s.here = some e →
    ∃ t, exec (.dmaBind v) s = .next t ∧ (t.here.copy e).state = 1 ∧ (t.here.copy e).desc = d ∧
      (t.here.sock (sockOf d)).owner = some s.cur.2 ∧ (t.here.sock (sockOf d)).outbound = (d.skind == 2) ∧
      (t.here.sock (sockOf d)).fifo = [] ∧ (t.here.sock (sockOf d)).total = d.n0 * d.n1 * d.n2 ∧
      (t.here.sock (sockOf d)).copy = e ∧ memorySame s t) ∧
  (∀ v s a b, nearAt s (BitVec.ofNat 64 (field s v.toNat 8)) a (field s (v.toNat + 16) 4) →
    nearAt s (BitVec.ofNat 64 (field s (v.toNat + 8) 8)) b (field s (v.toNat + 16) 4) → v.toNat < 2 ^ 20 →
    v.toNat % 64 = 0 → s.here.poolBad = [] →
    (s.me.sup = true ∨ 0x4000 * (s.here.partword.toNat % 256) ≤ v.toNat) → 0 < field s (v.toNat + 16) 4 →
    field s (v.toNat + 20) 2 = 1 → field s (v.toNat + 22) 2 = 1 → field s (v.toNat + 41) 1 = 0 →
    field s (v.toNat + 44) 4 = 0 → field s (v.toNat + 58) 6 = 0 →
    ∃ d, copyCheck s false v = .ok d ∧ d.src = BitVec.ofNat 64 (field s v.toNat 8) ∧
      d.dst = BitVec.ofNat 64 (field s (v.toNat + 8) 8) ∧ d.n0 = field s (v.toNat + 16) 4 ∧
      d.sem = field s (v.toNat + 40) 1 ∧ d.inc = field s (v.toNat + 42) 2 ∧ d.skind = 0 ∧ d.dkind = 0 ∧ d.inbox = false) ∧
  (∀ v s, let c := s.here.copy (v.toNat % 32)
    (c.state ≠ 0 → c.gen = v.toNat / 32 % 2048 →
      exec (.dmaQuery v) s = .next (s.result .dma (BitVec.ofNat 64 (c.state * 2 ^ 56 + c.done)) none 2) ∧
      (3 < c.state → exec (.dmaAbort v) s = exec (.dmaQuery v) s) ∧
      (c.state ≤ 3 → c.owner = s.cur.2 → exec (.dmaAbort v) s =
        .next ((s.setHere (s.here.setCopy (v.toNat % 32) { c with abort := true })).result .dma
          (BitVec.ofNat 64 (c.state * 2 ^ 56 + c.done)) none 2)) ∧
      (c.state ≤ 3 → c.owner ≠ s.cur.2 → ∃ t l, exec (.dmaAbort v) s = .next t ∧
        (if s.me.tl then t.me.latchedT else t.me.latched).getLast? = some l ∧ l.cause = 0x25 ∧
        l.info.toNat / 2 ^ 56 = 11 ∧ l.op.port = 0x207 ∧ l.op.v = v ∧ memorySame s t)) ∧
    (c.state = 0 ∨ c.gen ≠ v.toNat / 32 % 2048 →
      exec (.dmaQuery v) s = .next (s.result .dma (BitVec.ofNat 64 (7 * 2 ^ 56)) none 2) ∧
      exec (.dmaAbort v) s = exec (.dmaQuery v) s)) ∧
  (∀ v s, ((s.here.sock v.toNat).owner ≠ some s.cur.2 → exec (.dmaUnbind v) s = .next (s.result .dma 0 none 2)) ∧
    ((s.here.sock v.toNat).owner = some s.cur.2 → ∃ t r, exec (.dmaUnbind v) s = .next t ∧ latest t r ∧ r.unit = .dma ∧
      r.y = some (BitVec.ofNat 64 (s.here.sock v.toNat).fifo.length) ∧ (t.here.sock v.toNat).owner = none ∧
      (t.here.sock v.toNat).fifo = [] ∧ (∀ k, k ≠ v.toNat → t.here.sock k = s.here.sock k) ∧
      (let e := (s.here.sock v.toNat).copy
       let c := s.here.copy e
       (0 < c.state → c.state ≤ 3 → c.owner = s.cur.2 → c.desc.skind = 2 ∨ c.desc.dkind = 2 → sockOf c.desc = v.toNat →
          t.here.copies = Map.set s.here.copies e { c with abort := true }) ∧
       (c.state = 0 ∨ 3 < c.state → t.here.copies = s.here.copies)) ∧ memorySame s t)) ∧
  (∀ k v s, (s.here.sock k).owner = some s.cur.2 → (s.here.sock k).outbound = true →
    8 * (s.here.sock k).appended < (s.here.sock k).total →
    ∃ t, exec (.stkW k v) s = .next t ∧ (t.here.sock k).fifo = (s.here.sock k).fifo ++ [v] ∧
      (t.here.sock k).appended = (s.here.sock k).appended + 1 ∧ t.me = s.me ∧ memorySame s t)

/-- R96, R97, R101, R102, R104, R107: the piece of a running copy between own-pool addresses is read whole and written whole; one
for a socket waits for room in its FIFO; with the last one the copy completes and signals, its entry free or waiting for its record; an abort ends it; and the record enters the
inbox once it has room. -/
def Obligations.CopyPieces : Prop :=
  (∀ s t e a b, let c := (s.tile t).copy e
    let n := pieceLen c.desc c.done
    (c.state = 2 ∨ c.state = 1 ∧ mayStart (s.tile t) c = true) → c.abort = false → (s.tile t).stopped = false →
    s.performed c.after = true → c.buf = none → c.desc.skind = 0 → (srcAt c.desc c.done).toNat = 0xF0 * 2 ^ 56 + a →
    a + n ≤ 2 ^ 20 →
    (c.desc.dkind = 2 → (((s.tile t).sock (sockOf c.desc)).fifo).length < 64) →
    (hasBad (s.tile t).poolBad a n = none → ∃ s', exec (.copyPiece t e) s = .next s' ∧
      ((s'.tile t).copy e).buf = some ((s.tile t).pool.readBytes a n) ∧ ((s'.tile t).copy e).state = 2 ∧
      ((s'.tile t).copy e).done = c.done ∧ memorySame s s') ∧
    (a % 64 + n ≤ 64 → hasBad (s.tile t).poolBad a n = some b → ∃ s', exec (.copyPiece t e) s = .next s' ∧
      ((s'.tile t).copy e).state = 3 ∧ ((s'.tile t).copy e).done = c.done ∧ ((s'.tile t).copy e).buf = none ∧
      Map.get? (s'.strand t c.owner).pend c.id = some (0x31, BitVec.ofNat 64 a) ∧ memorySame s s')) ∧
  (∀ s t e bs b, let c := (s.tile t).copy e
    c.state = 2 → c.buf = some bs → s.performed c.after = true → c.desc.dkind = 0 →
    (dstAt c.desc c.done).toNat = 0xF0 * 2 ^ 56 + b → b + bs.length ≤ 2 ^ 20 → bs.length ≤ 64 →
    (s.tile t).resv = [] → (s.tile t).wtt = [] → (s.tile t).arrq = [] →
    ∃ s', exec (.copyPiece t e) s = .next s' ∧ (s'.tile t).pool.readBytes b bs.length = bs ∧
      poolFrame s s' t b bs.length ∧ ((s'.tile t).copy e).done = c.done + bs.length ∧ ((s'.tile t).copy e).buf = none ∧
      (if c.desc.n0 * c.desc.n1 * c.desc.n2 ≤ c.done + bs.length then
        ((s'.tile t).copy e).state = (if c.desc.inbox then 4 else 0) ∧ (c.desc.sem < 255 →
          ((s'.tile t).sem c.desc.sem).s = (((s.tile t).sem c.desc.sem).s + c.desc.inc) % 2 ^ 32)
       else ((s'.tile t).copy e).state = 2 ∧ (s'.tile t).sems = (s.tile t).sems)) ∧
  (∀ s t e, let c := (s.tile t).copy e
    0 < c.state → c.state ≤ 3 → c.abort = true → (c.buf = none ∨ c.state = 3 ∨ c.desc.dkind = 2) → (s.tile t).stopped = false → (s.tile t).wtt = [] → (s.tile t).arrq = [] →
    ∃ s', exec (.copyPiece t e) s = .next s' ∧ ((s'.tile t).copy e).state = (if c.desc.inbox then 5 else 0) ∧
      ((s'.tile t).copy e).abort = false ∧ ((s'.tile t).copy e).done = c.done ∧
      (c.desc.sem < 255 → ((s'.tile t).sem c.desc.sem).s = (((s.tile t).sem c.desc.sem).s + c.desc.inc) % 2 ^ 32) ∧
      memorySame s s') ∧
  (∀ s t e, let c := (s.tile t).copy e
    c.state = 4 ∨ c.state = 5 → c.desc.itile = 0xFFFF → (s.tile t).halted = false →
    (64 ≤ (s.tile t).inbox.length → exec (.copyRecordPost t e) s = .next s) ∧
    ((s.tile t).inbox.length < 64 → ∃ s' m, exec (.copyRecordPost t e) s = .next s' ∧
      (s'.tile t).inbox = (s.tile t).inbox ++ [m] ∧ m.kind = 1 ∧ m.src = (s.tile t).ltile ∧
      m.data = leBytes c.desc.tag.toNat 8 ++ leBytes c.done 8 ++ leBytes (c.gen % 2048 * 32 + e) 2 ++
        [BitVec.ofNat 8 c.state, 1] ++ List.replicate 44 0 ∧
      ((s'.tile t).copy e).state = 0 ∧ memorySame s s'))

/-! ## The vector pool -/

namespace Sys2Proof.Claims

/-- Container q of vector register m of the issuing strand (R175). -/
def vreg (s : State) (m q : Nat) : Nat := leNat (s.here.pool.readBytes (vecPlace s.cur.2 m + 4 * q) 4)

/-- The fields of a control word, and the containers of its registers (R178). -/
def typeOf (v : Word) : Nat := v.toNat / 2 ^ 16 % 8
def widthOf (c : Nat) : Nat := if c = 0 ∨ c = 3 then 32 else if c = 1 ∨ c = 2 ∨ c = 4 then 16 else 8
def floatOf (c : Nat) : FFmt := if c = 0 then fp32 else if c = 1 then bf16 else fp16
def modeOf (v : Word) : Rnd := rndOf (v.toNat / 2 ^ 22 % 4)
def regA (s : State) (v : Word) (q : Nat) : Nat := vreg s (v.toNat / 8 % 8) q
def regC (s : State) (v : Word) (q : Nat) : Nat := vreg s (v.toNat / 512 % 8) q

/-- Operand b: register VB, or the low bits of vec.b (R178). -/
def opB (s : State) (v : Word) (q : Nat) : Nat :=
  if v.getLsbD 24 then (s.opnd 0x241).toNat % 2 ^ widthOf (typeOf v) else vreg s (v.toNat / 64 % 8) q

/-- Element q is active (R179). -/
def active (s : State) (v : Word) (q : Nat) : Bool := !v.getLsbD 15 || vreg s (v.toNat / 2 ^ 12 % 8) q % 2 == 1

/-- Elements of the strand's grant. -/
def granted (s : State) : Nat := s.me.vgrant.1 * s.me.vgrant.2

/-- The strand has a vector file and a grant, and the pool holds no latent error and no reservation. -/
def vecOk (s : State) : Prop :=
  s.here.hasVec s.cur.2 = true ∧ 0 < s.me.vgrant.1 ∧ s.here.poolBad = [] ∧ s.here.resv = []

/-- A vector operation on the types ok writes element q of VD as f says where q is active, 0 or the old value elsewhere, and
nothing else of memory; it delivers a status and keeps the grant (R179, R180). -/
def VecIs (i : Word → Instr) (ok : Nat → Prop) (f : State → Word → Nat → Nat → Prop) : Prop :=
  ∀ v s, vecOk s → ok (typeOf v) → ∃ t r, exec (i v) s = .next t ∧
    (∀ q, q < granted s →
      if active s v q then f s v q (vreg t (v.toNat % 8) q)
      else vreg t (v.toNat % 8) q = if v.getLsbD 25 then 0 else vreg s (v.toNat % 8) q) ∧
    poolFrame s t s.cur.1 (vecPlace s.cur.2 (v.toNat % 8)) (4 * granted s) ∧ t.me.vgrant = s.me.vgrant ∧
    latest t r ∧ r.unit = .vec ∧ r.y = none ∧ r.z.isSome = true

/-- The types of R182. -/
def anyT (_ : Nat) : Prop := True
def arithT (c : Nat) : Prop := c ≤ 5
def intT (c : Nat) : Prop := 3 ≤ c ∧ c ≤ 5
def floatT (c : Nat) : Prop := c ≤ 2

/-- Arithmetic on a float type, rounded once in RM, or on an integer type, wrapped (R183). -/
def arith (g : Rnd → FVal → FVal → FVal → FVal × Bool) (h : Int → Int → Int → Int) (s : State) (v : Word) (q y : Nat) :
    Prop :=
  let w := widthOf (typeOf v)
  let fm := floatOf (typeOf v)
  if 3 ≤ typeOf v then
    (y : Int) = h (signed w (regA s v q)) (signed w (opB s v q)) (signed w (regC s v q)) % 2 ^ w
  else
    y = (fm.finish (modeOf v) (g (modeOf v) (fm.decode (regA s v q % 2 ^ w)) (fm.decode (opB s v q % 2 ^ w))
      (fm.decode (regC s v q % 2 ^ w)))).code % 2 ^ 32

/-- Minimum or maximum of two elements (R157, R183). -/
def pick (c : Nat) (wantMax : Bool) (a b y : Nat) : Prop :=
  let w := widthOf c
  if 3 ≤ c then
    (y : Int) = (if wantMax then max (signed w a) (signed w b) else min (signed w a) (signed w b)) % 2 ^ w
  else y = (floatOf c).pick wantMax (a % 2 ^ w) (b % 2 ^ w) % 2 ^ 32

/-- A result on the element's bits alone. -/
def onBits (g : Nat → Nat → Nat → Nat) (s : State) (v : Word) (q y : Nat) : Prop :=
  y = g (widthOf (typeOf v)) (regA s v q) (opB s v q) % 2 ^ widthOf (typeOf v)

/-- A comparison gives 1 or 0 (R185). -/
def compares (onF : FVal → FVal → Bool) (onI : Int → Int → Bool) (s : State) (v : Word) (q y : Nat) : Prop :=
  let w := widthOf (typeOf v)
  let fm := floatOf (typeOf v)
  y = (if 3 ≤ typeOf v then onI (signed w (regA s v q)) (signed w (opB s v q))
    else onF (fm.decode (regA s v q % 2 ^ w)) (fm.decode (opB s v q % 2 ^ w))).toNat

/-- The sfu's value in the element's format (R183). -/
def sfuOf (fn : SfuFn) (s : State) (v : Word) (q y : Nat) : Prop :=
  let sf := if typeOf v = 1 then 2 else if typeOf v = 2 then 1 else 0
  y = (fn.apply (floatOf (typeOf v)) sf (regA s v q)).1 % 2 ^ 32

end Sys2Proof.Claims

/-- R179, R182, R183: the vector arithmetic. -/
def Obligations.VectorArithmetic : Prop :=
  VecIs .vecAdd arithT (arith (fun m x y _ => FVal.add m x y) fun x y _ => x + y) ∧
  VecIs .vecSub arithT (arith (fun m x y _ => FVal.add m x y.neg) fun x y _ => x - y) ∧
  VecIs .vecMul arithT (arith (fun _ x y _ => FVal.mul x y) fun x y _ => x * y) ∧
  VecIs .vecFma arithT (arith (fun m x y z => FVal.fma m x y z) fun x y z => x * y + z) ∧
  VecIs .vecFms arithT (arith (fun m x y z => FVal.fma m x y z.neg) fun x y z => x * y - z) ∧
  VecIs .vecFnma arithT (arith (fun m x y z => FVal.fma m x.neg y z) fun x y z => -(x * y) + z) ∧
  VecIs .vecMin arithT (fun s v q y => pick (typeOf v) false (regA s v q) (opB s v q) y) ∧
  VecIs .vecMax arithT (fun s v q y => pick (typeOf v) true (regA s v q) (opB s v q) y) ∧
  VecIs .vecAbs intT (fun s v q y =>
    (y : Int) = ((signed (widthOf (typeOf v)) (regA s v q)).natAbs : Int) % 2 ^ widthOf (typeOf v)) ∧
  VecIs .vecNeg intT (fun s v q y =>
    (y : Int) = -signed (widthOf (typeOf v)) (regA s v q) % 2 ^ widthOf (typeOf v)) ∧
  VecIs .vecAbs floatT (fun s v q y => let w := widthOf (typeOf v)
    y = (if ((floatOf (typeOf v)).decode (regA s v q % 2 ^ w)).isNan then (floatOf (typeOf v)).nanCode
      else regA s v q % 2 ^ (w - 1)) % 2 ^ 32) ∧
  VecIs .vecNeg floatT (fun s v q y => let w := widthOf (typeOf v)
    y = (if ((floatOf (typeOf v)).decode (regA s v q % 2 ^ w)).isNan then (floatOf (typeOf v)).nanCode
      else (regA s v q + 2 ^ (w - 1)) % 2 ^ w) % 2 ^ 32) ∧
  VecIs .vecAdds intT (fun s v q y => let w := widthOf (typeOf v)
    (y : Int) = max (-2 ^ (w - 1)) (min (signed w (regA s v q) + signed w (opB s v q)) (2 ^ (w - 1) - 1)) % 2 ^ w) ∧
  VecIs .vecSubs intT (fun s v q y => let w := widthOf (typeOf v)
    (y : Int) = max (-2 ^ (w - 1)) (min (signed w (regA s v q) - signed w (opB s v q)) (2 ^ (w - 1) - 1)) % 2 ^ w) ∧
  VecIs .vecClamp intT (fun s v q y => let w := widthOf (typeOf v)
    (y : Int) = min (max (signed w (regA s v q)) (signed w (s.opnd 0x240).toNat)) (signed w (s.opnd 0x241).toNat)
      % 2 ^ w) ∧
  VecIs .vecClamp floatT (fun s v q y => let w := widthOf (typeOf v)
    let fm := floatOf (typeOf v)
    y = fm.pick false (fm.pick true (regA s v q % 2 ^ w) ((s.opnd 0x240).toNat % 2 ^ w) % 2 ^ w)
      ((s.opnd 0x241).toNat % 2 ^ w) % 2 ^ 32)

/-- R182, R183, R185, R187, R188: the logic, shifts, comparisons, masks, moves, conversion and the sfu's values. -/
def Obligations.VectorLogic : Prop :=
  VecIs .vecAnd anyT (onBits fun _ a b => a &&& b) ∧ VecIs .vecOr anyT (onBits fun _ a b => a ||| b) ∧
  VecIs .vecXor anyT (onBits fun _ a b => a ^^^ b) ∧ VecIs .vecShl intT (onBits fun w a b => a * 2 ^ (b % 32 % w)) ∧
  VecIs .vecShr intT (onBits fun w a b => a % 2 ^ w / 2 ^ (b % 32 % w)) ∧
  VecIs .vecSar intT (fun s v q y => let w := widthOf (typeOf v)
    (y : Int) = signed w (regA s v q) / 2 ^ (opB s v q % 32 % w) % 2 ^ w) ∧
  VecIs .vecCeq arithT (compares FVal.eq fun x y => x == y) ∧
  VecIs .vecCne arithT (compares (fun x y => !x.eq y) fun x y => x != y) ∧
  VecIs .vecClt arithT (compares FVal.lt fun x y => decide (x < y)) ∧
  VecIs .vecCle arithT (compares FVal.le fun x y => decide (x ≤ y)) ∧
  VecIs .vecMskand anyT (fun s v q y => y = regA s v q % 2 * (opB s v q % 2)) ∧
  VecIs .vecMskor anyT (fun s v q y => y = max (regA s v q % 2) (opB s v q % 2)) ∧
  VecIs .vecMsknot anyT (fun s v q y => y = 1 - regA s v q % 2) ∧
  VecIs .vecSel anyT (fun s v q y => y = if regC s v q % 2 = 1 then regA s v q else opB s v q) ∧
  VecIs .vecMov anyT (fun s v q y => y = regA s v q) ∧
  VecIs .vecBcs anyT (fun s v _ y => y = (s.opnd 0x240).toNat % 2 ^ widthOf (typeOf v)) ∧
  VecIs .vecCvt anyT (fun s v q y => y = ((vecFmt (v.toNat / 2 ^ 19 % 8)).convert (modeOf v) s.me.satf
    (vecFmt (typeOf v)).isInt ((vecFmt (typeOf v)).decode (regA s v q))).code % 2 ^ 32) ∧
  VecIs .vecRcp floatT (sfuOf .rcp) ∧ VecIs .vecRsqrt floatT (sfuOf .rsqrt) ∧ VecIs .vecExp2 floatT (sfuOf .exp2)

namespace Sys2Proof.Claims

/-- The pairwise tree of R189 over 2^n places, absent places empty. -/
def pairTree (op : Nat → Nat → Nat) (n : Nat) (xs : List (Option Nat)) : Option Nat :=
  match n with
  | 0 => xs.headD none
  | n + 1 =>
    match pairTree op n (xs.take (2 ^ n)), pairTree op n (xs.drop (2 ^ n)) with
    | none, y => y
    | x, none => x
    | some a, some b => some (op a b)

/-- A row reduction by op with an identity: the first element of each row is the tree's, the others are 0 (R189). -/
def ReduceIs (i : Word → Instr) (op : Word → Nat → Nat → Nat) (ident : Nat → Nat) : Prop :=
  ∀ v s, vecOk s → typeOf v ≤ 5 → 0 < s.me.vgrant.2 → s.me.vgrant.2 ≤ 64 →
    ∃ t r, exec (i v) s = .next t ∧
      (∀ a j, a < s.me.vgrant.1 → j < s.me.vgrant.2 → vreg t (v.toNat % 8) (a * s.me.vgrant.2 + j) =
        if j = 0 then
          ((pairTree (op v) 6 ((List.range s.me.vgrant.2).map fun b =>
            if active s v (a * s.me.vgrant.2 + b) then
              some (regA s v (a * s.me.vgrant.2 + b) % 2 ^ widthOf (typeOf v)) else none)).getD (ident (typeOf v))) % 2 ^ 32
        else 0) ∧
      poolFrame s t s.cur.1 (vecPlace s.cur.2 (v.toNat % 8)) (4 * granted s) ∧ latest t r ∧ r.unit = .vec ∧
      r.z.isSome = true

/-- The wrapped or rounded sum of two elements, and their greater or lesser. -/
def sumOf (v : Word) (a b : Nat) : Nat :=
  let w := widthOf (typeOf v)
  if 3 ≤ typeOf v then (a + b) % 2 ^ w
  else ((floatOf (typeOf v)).finish (modeOf v)
    (FVal.add (modeOf v) ((floatOf (typeOf v)).decode (a % 2 ^ w)) ((floatOf (typeOf v)).decode (b % 2 ^ w)))).code

def pickOf (wantMax : Bool) (v : Word) (a b : Nat) : Nat :=
  let w := widthOf (typeOf v)
  if 3 ≤ typeOf v then if decide (signed w a ≤ signed w b) == wantMax then b % 2 ^ w else a % 2 ^ w
  else (floatOf (typeOf v)).pick wantMax (a % 2 ^ w) (b % 2 ^ w)

/-- The least and the greatest value of a type. -/
def lowest (c : Nat) : Nat := if 3 ≤ c then 2 ^ (widthOf c - 1) else (floatOf c).infCode true
def highest (c : Nat) : Nat := if 3 ≤ c then 2 ^ (widthOf c - 1) - 1 else (floatOf c).infCode false

end Sys2Proof.Claims

/-- R186 to R189, R193: broadcasts, rotation, index and edge masks, stochastic conversion with one draw an element, row
reductions in the pairwise tree, and the exchange with common registers. -/
def Obligations.VectorPlaces : Prop :=
  VecIs .vecBcrow anyT (fun s v q y =>
    y = regA s v ((s.opnd 0x240).toNat % s.me.vgrant.1 * s.me.vgrant.2 + q % s.me.vgrant.2)) ∧
  VecIs .vecBccol anyT (fun s v q y =>
    y = regA s v (q / s.me.vgrant.2 * s.me.vgrant.2 + (s.opnd 0x240).toNat % s.me.vgrant.2)) ∧
  VecIs .vecRotr anyT (fun s v q y => y = regA s v (q / s.me.vgrant.2 * s.me.vgrant.2 +
    (q % s.me.vgrant.2 + s.me.vgrant.2 - (s.opnd 0x240).toNat % s.me.vgrant.2) % s.me.vgrant.2)) ∧
  VecIs .vecIota intT (fun s v q y => (y : Int) = ((s.opnd 0x240).toInt + (q / s.me.vgrant.2 : Nat) * (s.opnd 0x241).toInt
    + (q % s.me.vgrant.2 : Nat)) % 2 ^ widthOf (typeOf v)) ∧
  VecIs .vecFromcr anyT (fun s v q y =>
    y = leNat (s.here.pool.readBytes (8 * (((s.opnd 0x240).toNat + q) % 1024)) 8) % 2 ^ widthOf (typeOf v)) ∧
  (∀ v s, vecOk s → ∃ t, exec (.vecEdge v) s = .next t ∧
    (∀ q, q < granted s → vreg t (v.toNat % 8) q = if ((q / s.me.vgrant.2 : Nat) : Int) < (s.opnd 0x240).toInt ∧
      ((q % s.me.vgrant.2 : Nat) : Int) < (s.opnd 0x241).toInt then 1 else 0) ∧
    poolFrame s t s.cur.1 (vecPlace s.cur.2 (v.toNat % 8)) (4 * granted s)) ∧
  (∀ v s f, vecOk s → typeOf v = 0 → cvtsrTo (v.toNat / 2 ^ 19 % 8) = some f → ∃ t, exec (.vecCvtsr v) s = .next t ∧
    (∀ q, q < granted s → vreg t (v.toNat % 8) q =
      if active s v q then (f.convert (.sr ((Nat.repeat xs64 (q + 1) s.me.srkey).toNat / 2 ^ 48)) s.me.satf
        (fp32.decode (regA s v q))).code % 2 ^ 32
      else if v.getLsbD 25 then 0 else vreg s (v.toNat % 8) q) ∧
    t.me.srkey = Nat.repeat xs64 (granted s) s.me.srkey ∧
    poolFrame s t s.cur.1 (vecPlace s.cur.2 (v.toNat % 8)) (4 * granted s)) ∧
  ReduceIs .vecRsum sumOf (fun _ => 0) ∧ ReduceIs .vecRmax (pickOf true) lowest ∧
  ReduceIs .vecRmin (pickOf false) highest ∧
  (∀ v s, vecOk s → granted s ≤ 1024 → ∃ t r, exec (.vecTocr v) s = .next t ∧
    (∀ q, q < granted s → active s v q = true →
      (leNat (t.here.pool.readBytes (8 * (((s.opnd 0x240).toNat + q) % 1024)) 8) : Int) =
        if 3 ≤ typeOf v ∧ typeOf v ≤ 5 then signed (widthOf (typeOf v)) (regA s v q) % 2 ^ 64
        else ((regA s v q % 2 ^ widthOf (typeOf v) : Nat) : Int)) ∧
    (∀ a, 8192 ≤ a → t.here.pool.read a = s.here.pool.read a) ∧ latest t r ∧ r.unit = .vec ∧
    r.y = some (BitVec.ofNat 64 ((List.range (granted s)).filter fun q => active s v q).length))

namespace Sys2Proof.Claims

/-- The addresses of vec.ld and vec.st, and of vec.gath and vec.scat (R190). -/
def rowAt (s : State) (v : Word) (q : Nat) : Word :=
  s.opnd 0x240 + BitVec.ofNat 64 (q / s.me.vgrant.2) * ((s.opnd 0x241).truncate 32 : BitVec 32).signExtend 64
    + BitVec.ofNat 64 (q % s.me.vgrant.2 * (widthOf (typeOf v) / 8))

def indexAt (s : State) (v : Word) (q : Nat) : Word :=
  s.opnd 0x240 + (BitVec.ofNat 32 (vreg s (v.toNat / 64 % 8) q)).signExtend 64

/-- Every active element lies at an aligned address of a pool of the sorus, outside the register partition (R191, R192), and
at least one in another tile's; no watchpoint is set (R390). -/
def elemsSorus (s : State) (v : Word) : Prop :=
  Map.find 0 s.here.counters 5 = 0 ∧
  (∀ q, q < granted s → active s v q = true → ∃ i off u, classify (rowAt s v q) = .ok (.sorus i off) ∧
    s.poolTarget s.cur.1 (.sorus i off) = some (u, off) ∧ off % (widthOf (typeOf v) / 8) = 0 ∧
    0x4000 * (s.here.partword.toNat % 256) ≤ off) ∧
  ∃ q i off u, q < granted s ∧ active s v q = true ∧ classify (rowAt s v q) = .ok (.sorus i off) ∧
    s.poolTarget s.cur.1 (.sorus i off) = some (u, off) ∧ u ≠ s.cur.1

/-- Every active element lies at an aligned own-pool address outside the register partition (R191), and no watchpoint is set
(R390). -/
def elemsOwn (s : State) (v : Word) (at' : Nat → Word) (off : Nat → Nat) : Prop :=
  Map.find 0 s.here.counters 5 = 0 ∧ ∀ q, q < granted s → active s v q = true → (at' q).toNat = 0xF0 * 2 ^ 56 + off q ∧ off q < 2 ^ 20 ∧
    off q % (widthOf (typeOf v) / 8) = 0 ∧ 0x4000 * (s.here.partword.toNat % 256) ≤ off q

/-- The packet of an access to memory: its rows hold the active elements ascending, each at its place, with its bytes where the
access stores. -/
def RowsAre (s : State) (v : Word) (ld : Bool) (place : Nat → Nat × Nat) (o : VecOp) : Prop :=
  let w := widthOf (typeOf v) / 8
  o.load = ld ∧ o.w = w ∧ o.vd = v.toNat % 8 ∧ o.pos = 0 ∧ o.got = [] ∧ o.trap = s.me.tl ∧
    o.zero = (if ld && v.getLsbD 25 then ((List.range (granted s)).filter fun q => !active s v q).map (4 * ·) else []) ∧
    (o.rows.flatMap VecRow.lanes).map Prod.snd = ((List.range (granted s)).filter (active s v)).map (4 * ·) ∧
    ∀ row ∈ o.rows, ∀ (j : Nat) (e : Nat × Nat), row.lanes[j]? = some e →
      (row.tile, row.off + w * e.1) = place (e.2 / 4) ∧
        (ld = false → (row.data.drop (w * j)).take w = leBytes (regA s v (e.2 / 4)) w)

end Sys2Proof.Claims

/-- R171, R172, R174, R190 to R192: loads, stores, gathers and scatters of own-pool elements (of two that name one address the
later remains), loads and stores of the sorus's pools, which leave row by row, the grant that a request negotiates, and its
release. That an access to the sorus is one packet with all its rows, those in the own tile among them, is the model's choice
(log entry 34), and so is that own-pool elements wait, as such a packet, for the earlier accesses that still go before them
(log entry 74). -/
def Obligations.VectorMemoryAndClaims : Prop :=
  (∀ i at', (i = Instr.vecLd ∧ at' = rowAt ∨ i = Instr.vecGath ∧ at' = indexAt) → ∀ v s off, vecOk s →
    elemsOwn s v (at' s v) off → ownDue s true false = [] → ∃ t r, exec (i v) s = .next t ∧
      (∀ q, q < granted s → vreg t (v.toNat % 8) q =
        if active s v q then leNat (s.here.pool.readBytes (off q) (widthOf (typeOf v) / 8))
        else if v.getLsbD 25 then 0 else vreg s (v.toNat % 8) q) ∧
      poolFrame s t s.cur.1 (vecPlace s.cur.2 (v.toNat % 8)) (4 * granted s) ∧ latest t r ∧ r.unit = .vec) ∧
  (∀ i at', (i = Instr.vecSt ∧ at' = rowAt ∨ i = Instr.vecScat ∧ at' = indexAt) → ∀ v s off, vecOk s →
    elemsOwn s v (at' s v) off → ownDue s false true = [] → ∃ t r, exec (i v) s = .next t ∧
      (∀ q, q < granted s → active s v q = true →
        (∀ p, q < p → p < granted s → active s v p = true → off p ≠ off q) →
        t.here.pool.readBytes (off q) (widthOf (typeOf v) / 8) = leBytes (regA s v q) (widthOf (typeOf v) / 8)) ∧
      (∀ a, (∀ q, q < granted s → active s v q = true → a < off q ∨ off q + widthOf (typeOf v) / 8 ≤ a) →
        t.here.pool.read a = s.here.pool.read a) ∧
      (∀ u, u ≠ s.cur.1 → (t.tile u).pool = (s.tile u).pool) ∧ t.hbm = s.hbm ∧ latest t r ∧ r.unit = .vec) ∧
  (∀ i ld at', (i = Instr.vecLd ∧ at' = rowAt ∧ ld = true ∨ i = Instr.vecGath ∧ at' = indexAt ∧ ld = true ∨
    i = Instr.vecSt ∧ at' = rowAt ∧ ld = false ∨ i = Instr.vecScat ∧ at' = indexAt ∧ ld = false) → ∀ v s off, vecOk s →
    elemsOwn s v (at' s v) off → ownDue s ld (!ld) ≠ [] →
    ∃ t p o r, exec (i v) s = .next t ∧ t.flight = s.flight ++ [p] ∧ p.src = s.cur.1 ∧ p.slot = s.cur.2 ∧
      p.after = ownDue s ld (!ld) ∧ p.body = .vmem o ∧ RowsAre s v ld (fun q => (s.cur.1, off q)) o ∧
      latest t r ∧ r.unit = .vec ∧ r.wait = ld ∧ memorySame s t) ∧
  (∀ i ld, (i = Instr.vecLd ∧ ld = true ∨ i = Instr.vecSt ∧ ld = false) → ∀ v s, vecOk s → elemsSorus s v →
    ∃ t p o r, exec (i v) s = .next t ∧ t.flight = s.flight ++ [p] ∧ p.src = s.cur.1 ∧ p.slot = s.cur.2 ∧
      p.after = s.dueOrder ld (!ld) 2 ∧ p.body = .vmem o ∧ RowsAre s v ld (fun q => elemAt s (rowAt s v q)) o ∧
      (∀ row ∈ o.rows, ∀ e ∈ row.lanes, ∀ f ∈ row.lanes, e.2 / 4 / s.me.vgrant.2 = f.2 / 4 / s.me.vgrant.2) ∧
      o.rows.Pairwise (fun a b => ∀ e ∈ a.lanes, ∀ f ∈ b.lanes, e.2 / 4 / s.me.vgrant.2 < f.2 / 4 / s.me.vgrant.2) ∧
      latest t r ∧ r.unit = .vec ∧ r.wait = ld ∧ memorySame s t) ∧
  (∀ v s rows len, v.toNat % 32 = rows → v.toNat / 256 % 128 = len → s.here.hasVec s.cur.2 = true → 0 < rows → rows ≤ 16 →
    0 < len → len ≤ 64 → rows * len ≤ 256 →
    let n := (slots.filter fun j => j != s.cur.2 && (s.strand s.cur.1 j).vgrant.1 != 0).length + 1
    let got := min rows ((if n ≤ 4 then 256 else if n ≤ 8 then 128 else 64) / len)
    ∃ t r, exec (.vecShape v) s = .next t ∧ t.me.vreq = (rows, len) ∧ t.me.next.grant = some (got, len) ∧ latest t r ∧
      r.unit = .vec ∧ r.y = some (BitVec.ofNat 64 (got + 256 * len)) ∧ memorySame s t) ∧
  (∀ v s, v.toNat % 32 = 0 → s.here.hasVec s.cur.2 = true → s.me.vreq.1 = 0 → ∃ t r, exec (.vecShape v) s = .next t ∧
    t.me.vreq = s.me.vreq ∧ t.me.vgrant = s.me.vgrant ∧ latest t r ∧ r.unit = .vec ∧ r.y = some 0 ∧ memorySame s t) ∧
  (∀ v s, s.here.hasVec s.cur.2 = true → ∃ t, exec (.vecRel v) s = .next t ∧ t.me.vreq = (0, 0) ∧ t.me.vgrant = (0, 0) ∧
    memorySame s t)

/-! ## The matrix unit -/

namespace Sys2Proof.Claims

/-- A field of n bytes of a command's line (R200). -/
def cfield (c : MxCmd) (off n : Nat) : Nat := leNat ((c.line.drop off).take n)

/-- The only command of tile t's queue has this opcode and has not started, and nothing keeps it from starting (R206, R207,
R211). -/
def mxReady (s : State) (t : Nat) (c : MxCmd) (opc : Nat) : Prop :=
  (s.tile t).mxq = [c] ∧ c.phase = 0 ∧ c.suspended = false ∧ cfield c 0 1 = opc ∧ (s.tile t).stopped = false ∧
    0 < (s.tile t).mbudget ∧
    (cfield c 2 1 = 255 ∨ geq32 ((s.tile t).sem (cfield c 2 1)).s (cfield c 4 4) = true) ∧ s.performed c.after = true

/-- The only command of tile t's queue has this opcode and is running; the pool holds no latent error and no reservation. -/
def mxRunning (s : State) (t : Nat) (c : MxCmd) (opc : Nat) : Prop :=
  (s.tile t).mxq = [c] ∧ c.phase = 1 ∧ c.suspended = false ∧ cfield c 0 1 = opc ∧ (s.tile t).poolBad = [] ∧
    (s.tile t).resv = []

/-- The command stands in the queue, with row the next row of n, or completed. -/
def mxAfter (s : State) (t : Nat) (c : MxCmd) (row n : Nat) : Prop :=
  ∃ d, (s.tile t).mxq = [d] ∧ d.id = c.id ∧ d.line = c.line ∧ d.slot = c.slot ∧
    (if row < n then d.phase = 1 ∧ d.row = row else d.phase = 2)

/-- The address of row r of a command's memory operand, as an own-pool offset of n bytes (R213, R214, R219). -/
def mxOwn (c : MxCmd) (r a n : Nat) : Prop :=
  (BitVec.ofNat 64 (cfield c 24 8) + (BitVec.ofNat 32 (cfield c 32 4)).signExtend 64 * BitVec.ofNat 64 r).toNat =
    0xF0 * 2 ^ 56 + a ∧ a + n ≤ 2 ^ 20

/-- Lines of the accumulator block (R215). -/
def blockLines (c : MxCmd) : Nat := 16 * (if c.fmt.toNat / 2 ^ 12 % 4 = 2 then 8 else 4)

/-- Accumulator code i of a block of 32-bit codes. -/
def codeAt (bs : List Byte) (i : Nat) : Nat := leNat ((bs.drop (4 * i)).take 4)

/-- A signed byte of operand memory. -/
def opByte (s : State) (t a : Nat) : Int := signed 8 ((s.tile t).opmem.read a).toNat

/-- The issuing strand's stl pushes the line at v: its far address is the command window, and the checks of R126 pass. -/
def pushes (s : State) (v : Word) (line : List Byte) : Prop :=
  (s.opnd 0x160).toNat / 2 ^ 56 ≤ 0xDF ∧ (s.opnd 0x160).toNat % 2 ^ 56 = 0x40 ∧ isService s.cur.1 = false ∧
    Map.find 0 s.here.counters 5 = 0 ∧ v.toNat % 64 = 0 ∧
    (s.me.sup = true ∨ 0x4000 * (s.here.partword.toNat % 256) ≤ v.toNat % 2 ^ 20) ∧
    hasBad s.here.poolBad (v.toNat % 2 ^ 20) 64 = none ∧ line = s.here.pool.readBytes (v.toNat % 2 ^ 20) 64

/-- A field of n bytes of a line. -/
def lfield (line : List Byte) (off n : Nat) : Nat := leNat ((line.drop off).take n)

/-- The line holds this opcode and these flags, no wait, no signal, and zero in every other byte but those listed (R200). -/
def bare (line : List Byte) (opc flags : Nat) (used : List Nat) : Prop :=
  lfield line 0 1 = opc ∧ lfield line 1 1 = flags ∧ lfield line 2 2 = 0xFFFF ∧ lfield line 4 6 = 0 ∧
    ∀ i, 10 ≤ i → i < 64 → i ∉ used → lfield line i 1 = 0

/-- The command enters its tile's queue with the line, the strand's FMT and SATF; slots change hands as own says. -/
def cmdEntered (s t : State) (line : List Byte) (own : Nat → Option Nat → Prop) : Prop :=
  ∃ c, t.here.mxq.map MxCmd.id = s.here.mxq.map MxCmd.id ++ [c.id] ∧
    t.here.mxq.map MxCmd.line = s.here.mxq.map MxCmd.line ++ [line] ∧ t.here.mxq.getLast? = some c ∧ c.line = line ∧
    c.fmt = s.me.fmt ∧ c.satf = s.me.satf ∧ c.slot = s.cur.2 ∧ c.after = s.earlier s.cur.1 s.cur.2 4 ∧ c.phase = 0 ∧
    c.suspended = false ∧ (∀ i, own i (Map.get? t.here.slotOwner i)) ∧ memorySame s t

/-- No slot changes hands. -/
def ownersKept (s : State) (i : Nat) (o : Option Nat) : Prop := o = Map.get? s.here.slotOwner i

/-- The stl is latched with a trap, and no command enters. -/
def refused (s : State) (v : Word) (cause info : Nat) : Prop :=
  ∃ t l, exec (.lsuStl v) s = .next t ∧ (if s.me.tl then t.me.latchedT else t.me.latched).getLast? = some l ∧
    l.cause = cause ∧ l.info.toNat = info ∧ l.op.port = 0x170 ∧ l.op.v = v ∧ t.here.mxq = s.here.mxq ∧
    t.here.slotOwner = s.here.slotOwner ∧ memorySame s t

/-- SINFO of traps 0x16 to 0x1B (R202). -/
def cmdInfo (s : State) (reason opc byte : Nat) : Nat := reason * 2 ^ 56 + opc * 2 ^ 48 + byte * 2 ^ 40 + s.me.fmt.toNat

/-- The flags an opcode may carry, SR of a load with CONV only (R201). -/
def flagsOk (opc fl : Nat) : Prop :=
  (if opc = 3 then fl &&& 0xE1 = 0 ∧ (fl.testBit 1 = true → fl.testBit 2 = true)
    else if opc = 5 ∨ opc = 6 then fl ≤ 1 else if opc = 8 then fl &&& 0xDD = 0
    else if opc = 9 then fl = 0 ∨ fl = 0x40 else fl = 0)

/-- Bytes a run of n from a. -/
def span (a n : Nat) : List Nat := (List.range n).map (a + ·)

end Sys2Proof.Claims

/-- R198 to R202, R212: an stl to the command window pushes its near line, which enters the queue with FMT and SATF when it
passes the checks of R202, else is latched with their trap. A claim owns its slots from there; a release's are no strand's, and
not yet free. That REASON is 0 where R202 shows none is the model's choice (log entry 67). -/
def Sys2Proof.Claims.MatrixCommands : Prop :=
  (∀ v s line, pushes s v line → mxCheck s s.cur.1 s.cur.2 line s.me.fmt = none →
    ∃ t, exec (.lsuStl v) s = .next t ∧ cmdEntered s t line fun i o =>
      if lfield line 0 1 = 1 ∧ i < 32 ∧ (lfield line 24 4).testBit i = true then o = some s.cur.2
      else if lfield line 0 1 = 2 ∧ i < 32 ∧ (lfield line 24 4).testBit i = true then ∃ k, o = some k ∧ 16 ≤ k
      else ownersKept s i o) ∧
  (∀ v s line, pushes s v line → 9 < lfield line 0 1 → refused s v 0x18 (cmdInfo s 0 (lfield line 0 1) 0)) ∧
  (∀ v s line, pushes s v line → lfield line 0 1 ≤ 9 → ¬ flagsOk (lfield line 0 1) (lfield line 1 1) →
    refused s v 0x18 (cmdInfo s 1 (lfield line 0 1) 1)) ∧
  (∀ v s line opc, pushes s v line → opc < 2 →
    (∀ i, bare line opc 0 (i :: span 24 4) → 10 ≤ i → i < 64 → ¬ (24 ≤ i ∧ i < 28) → lfield line i 1 ≠ 0 →
      (opc = 0 → lfield line 24 4 = 0) → refused s v 0x18 (cmdInfo s 1 opc i)) ∧
    (opc = 0 → lfield line 0 2 = 0 → lfield line 2 2 = 0xFFFF → lfield line 4 4 ≠ 0 → (∀ i, 8 ≤ i → i < 64 → lfield line i 1 = 0) →
      refused s v 0x18 (cmdInfo s 3 0 4))) ∧
  (∀ v s line, pushes s v line → bare line 0 0 [] → ∃ t, exec (.lsuStl v) s = .next t ∧ cmdEntered s t line (ownersKept s)) ∧
  (∀ v s line, pushes s v line → bare line 1 0 (span 24 4) →
    let mine := (s.here.slotOwner.filter fun e => e.2 == s.cur.2).length
    let named := (List.range 32).filter fun i => (lfield line 24 4).testBit i
    (named = [] → refused s v 0x18 (cmdInfo s 3 1 24)) ∧
    (∀ i ∈ named, Map.get? s.here.slotOwner i = some s.cur.2 → refused s v 0x17 (cmdInfo s 1 1 24)) ∧
    ((∀ i ∈ named, Map.get? s.here.slotOwner i ≠ some s.cur.2) → named ≠ [] →
      (24 < named.length + mine → refused s v 0x17 (cmdInfo s 0 1 24)) ∧
      (named.length + mine ≤ 24 → ∃ t, exec (.lsuStl v) s = .next t ∧ cmdEntered s t line fun i o =>
        if i ∈ named then o = some s.cur.2 else ownersKept s i o))) ∧
  (∀ v s line, pushes s v line → bare line 2 0 (span 24 4) → lfield line 24 4 ≠ 0 →
    let named := (List.range 32).filter fun i => (lfield line 24 4).testBit i
    (∀ i ∈ named, Map.get? s.here.slotOwner i ≠ some s.cur.2 → refused s v 0x16 (cmdInfo s 0 2 24)) ∧
    ((∀ i ∈ named, Map.get? s.here.slotOwner i = some s.cur.2) → ∃ t, exec (.lsuStl v) s = .next t ∧
      cmdEntered s t line fun i o => if i ∈ named then ∃ k, o = some k ∧ 16 ≤ k else ownersKept s i o)) ∧
  (∀ v s line slot, pushes s v line → bare line 3 0 (10 :: span 24 12) → slot = lfield line 10 1 →
    (formatOf (s.me.fmt.toNat % 64) = none → refused s v 0x19 (cmdInfo s 0 3 0xFF)) ∧
    (formatOf (s.me.fmt.toNat % 64) ≠ none → 31 < slot → refused s v 0x18 (cmdInfo s 3 3 10)) ∧
    (formatOf (s.me.fmt.toNat % 64) ≠ none → slot ≤ 31 → Map.get? s.here.slotOwner slot ≠ some s.cur.2 →
      refused s v 0x16 (cmdInfo s 0 3 10)) ∧
    (formatOf (s.me.fmt.toNat % 64) ≠ none → slot ≤ 31 → Map.get? s.here.slotOwner slot = some s.cur.2 →
      lfield line 24 8 < 2 ^ 16 → refused s v 0x0F (sinfo78 0 0 5 (BitVec.ofNat 64 (lfield line 24 8))).toNat)) ∧
  (∀ v s line, pushes s v line → bare line 4 0 (span 24 8 ++ span 36 4) →
    let n := lfield line 36 2
    let d := lfield line 38 2
    (n = 0 ∨ 256 < n → refused s v 0x18 (cmdInfo s 3 4 36)) ∧
    (0 < n → n ≤ 256 → d ≤ 255 → 256 < d + n → refused s v 0x1A (cmdInfo s 0 4 38)) ∧
    (∀ a, 0 < n → d + n ≤ 256 → d ≤ 255 → lfield line 24 8 = 0xF0 * 2 ^ 56 + a → a + n ≤ 2 ^ 20 →
      (a < 0x4000 * (s.here.partword.toNat % 256) → refused s v 0x0F (sinfo78 3 0 5 (BitVec.ofNat 64 (lfield line 24 8))).toNat) ∧
      (0x4000 * (s.here.partword.toNat % 256) ≤ a → ∃ t, exec (.lsuStl v) s = .next t ∧ cmdEntered s t line (ownersKept s)))) ∧
  (∀ i opc, (i = 10 ∧ opc = 5 ∨ i = 11 ∧ opc = 6) → ∀ v s line, pushes s v line → s.me.fmt = 0x130C →
    bare line opc 0 ([10, 11, 24] ++ span 16 4) → lfield line 10 1 ≤ 31 → lfield line 11 1 ≤ 31 → lfield line 24 1 ≤ 16 →
    (∀ j, j = 10 ∨ j = 11 → j ≠ i → Map.get? s.here.slotOwner (lfield line j 1) = some s.cur.2) →
    Map.get? s.here.slotOwner (lfield line i 1) ≠ some s.cur.2 → refused s v 0x16 (cmdInfo s 0 opc i)) ∧
  (∀ v s line, pushes s v line → bare line 7 0 (span 16 4) →
    let off := lfield line 16 4
    let acct := s.me.fmt.toNat / 2 ^ 12 % 4
    let regs := s.here.partword.toNat % 256
    let acc := s.here.partword.toNat / 256 % 256
    (acct = 3 → refused s v 0x18 (cmdInfo s 2 7 0xFF)) ∧
    (acct ≠ 3 → off % 64 ≠ 0 ∨ off < 0x4000 * regs ∨ 0x4000 * (regs + acc) < off + (if acct = 2 then 8192 else 4096) →
      refused s v 0x1B (cmdInfo s 0 7 16)) ∧
    (acct ≠ 3 → off % 64 = 0 → 0x4000 * regs ≤ off → off + (if acct = 2 then 8192 else 4096) ≤ 0x4000 * (regs + acc) →
      ∃ t, exec (.lsuStl v) s = .next t ∧ cmdEntered s t line (ownersKept s))) ∧
  (∀ v s line, pushes s v line → bare line 9 0x40 (span 24 4) → lfield line 24 4 < 2 ^ 20 →
    (lfield line 24 4 % 8 ≠ 0 → refused s v 0x18 (cmdInfo s 3 9 24)) ∧
    (lfield line 24 4 % 8 = 0 → lfield line 24 4 < 0x4000 * (s.here.partword.toNat % 256) →
      refused s v 0x0F (sinfo78 3 0 5 (BitVec.ofNat 64 (lfield line 24 4))).toNat) ∧
    (lfield line 24 4 % 8 = 0 → 0x4000 * (s.here.partword.toNat % 256) ≤ lfield line 24 4 →
      ∃ t, exec (.lsuStl v) s = .next t ∧ cmdEntered s t line (ownersKept s))) ∧
  (∀ v s, (s.opnd 0x160).toNat / 2 ^ 56 ≤ 0xDF → (s.opnd 0x160).toNat % 2 ^ 56 < 2 ^ 16 →
    (s.opnd 0x160).toNat % 2 ^ 56 ≠ 0x40 → refused s v 0x0F (sinfo78 0 0 3 (s.opnd 0x160)).toNat)

/-- R206, R207, R212, R222: nop, claim and release complete without touching memory; a fence with STATW writes MXS and clears
it; a command whose wait is not satisfied does not start; and the completed head retires, signals, and frees what it released. -/
def Sys2Proof.Claims.CommandSequence : Prop :=
  (∀ s t c, mxReady s t c 0 → ∃ s', exec (.mxNop t) s = .next s' ∧ mxAfter s' t c 1 1 ∧ memorySame s s') ∧
  (∀ s t c, mxReady s t c 1 → ∃ s', exec (.mxClaim t) s = .next s' ∧ mxAfter s' t c 1 1 ∧ memorySame s s') ∧
  (∀ s t c, mxReady s t c 2 → ∃ s', exec (.mxRelease t) s = .next s' ∧ mxAfter s' t c 1 1 ∧ memorySame s s') ∧
  (∀ s t c, mxReady s t c 9 → c.flags = 0 → (s.tile t).resv = [] →
    (cfield c 1 1 = 0 → ∃ s', exec (.mxFence t) s = .next s' ∧ mxAfter s' t c 1 1 ∧
      (s'.strand t c.slot).mxs = (s.strand t c.slot).mxs ∧ memorySame s s') ∧
    (cfield c 1 1 = 0x40 → ∃ s', exec (.mxFence t) s = .next s' ∧ mxAfter s' t c 1 1 ∧ (s'.strand t c.slot).mxs = 0 ∧
      (s'.tile t).pool.readBytes (cfield c 24 4) 8 = leBytes (s.strand t c.slot).mxs.toNat 8 ∧
      poolFrame s s' t (cfield c 24 4) 8)) ∧
  (∀ s t c, (s.tile t).mxq = [c] → c.phase = 0 → c.met = false → cfield c 2 1 ≠ 255 →
    geq32 ((s.tile t).sem (cfield c 2 1)).s (cfield c 4 4) = false →
    exec (.mxNop t) s = .next s ∧ exec (.mxLoad t) s = .next s ∧ exec (.mxMma t) s = .next s ∧
      exec (.mxStore t) s = .next s ∧ exec (.mxFence t) s = .next s) ∧
  (∀ s t c rest, (s.tile t).mxq = c :: rest → c.phase = 2 → (s.tile t).copies = [] → (s.tile t).wtt = [] →
    (s.tile t).arrq = [] → ∃ s', exec (.mxComplete t) s = .next s' ∧ (s'.tile t).mxq = rest ∧
      (cfield c 3 1 < 255 → ((s'.tile t).sem (cfield c 3 1)).s =
        (((s.tile t).sem (cfield c 3 1)).s + cfield c 8 2) % 2 ^ 32) ∧
      (∀ i, i < 32 → Map.get? (s'.tile t).slotOwner i =
        if cfield c 0 1 = 2 ∧ cfield c 24 4 / 2 ^ i % 2 = 1 then none else Map.get? (s.tile t).slotOwner i) ∧
      memorySame s s')

/-- R198 to R202, R206, R207, R212, R222: commands pushed through the window, and the order in which the unit runs them. -/
def Obligations.MatrixSequencer : Prop := Sys2Proof.Claims.MatrixCommands ∧ Sys2Proof.Claims.CommandSequence

/-- R207, R213 to R219: a load and a scale read each memory line as one event, here of the own pool, and put each row, here of
INT8 without conversion, in its place; zero writes its lines; a multiply reads its block's lines, forms the product, given here
for INT8 operands in one group, and writes the lines; a store reads the block's lines and writes each memory line as one event,
here with clamped INT8, a later row's bytes winning. Which lines, rows and products are events of their own is the model's choice
(log entry 24). -/
def Obligations.MatrixWork : Prop :=
  (∀ i opc, (i = Instr.mxLoad ∧ opc = 3 ∨ i = Instr.mxScale ∧ opc = 4) → ∀ s t c p, mxRunning s t c opc →
    ((rowParts c c.row).find? fun p => !c.has p) = some p → p.1.toNat / 2 ^ 20 = 0xF0 * 2 ^ 36 →
    ∃ s' d, exec (i t) s = .next s' ∧ (s'.tile t).mxq = [d] ∧ d.id = c.id ∧ d.line = c.line ∧ d.phase = 1 ∧
      d.row = c.row ∧ (∀ e ∈ c.seen, e ∈ d.seen) ∧
      (∀ q ∈ lineParts c c.row p.1, (q.1, (s.tile t).pool.readBytes (q.1.toNat % 2 ^ 20) q.2) ∈ d.seen) ∧ memorySame s s') ∧
  (∀ s t c, mxRunning s t c 3 → (∀ p ∈ rowParts c c.row, c.has p = true) →
    ∃ s', exec (.mxLoad t) s = .next s' ∧ mxAfter s' t c (c.row + 1) (srcRows c).1 ∧ memorySame s s' ∧
      (cfield c 1 1 = 0 → c.fmt.toNat % 64 = 0x0C → (c.rowData c.row).length = 128 → (srcRows c).1 = 32 ∧
        (s'.tile t).opmem.readBytes (4096 * cfield c 10 1 + 128 * c.row) 128 = c.rowData c.row ∧
        (∀ x, x < 4096 * cfield c 10 1 + 128 * c.row ∨ 4096 * cfield c 10 1 + 128 * c.row + 128 ≤ x →
          (s'.tile t).opmem.read x = (s.tile t).opmem.read x))) ∧
  (∀ s t c, mxRunning s t c 4 → (∀ p ∈ rowParts c c.row, c.has p = true) → (c.rowData c.row).length = cfield c 36 2 →
    ∃ s', exec (.mxScale t) s = .next s' ∧ mxAfter s' t c (c.row + 1) 32 ∧
      (s'.tile t).scale.readBytes (256 * c.row + cfield c 38 2) (cfield c 36 2) = c.rowData c.row ∧ memorySame s s') ∧
  (∀ s t c, mxRunning s t c 7 → c.row < blockLines c →
    ∃ s', exec (.mxZero t) s = .next s' ∧ mxAfter s' t c (c.row + 1) (blockLines c) ∧
      (s'.tile t).pool.readBytes (cfield c 16 4 + 64 * c.row) 64 = List.replicate 64 0 ∧
      poolFrame s s' t (cfield c 16 4 + 64 * c.row) 64) ∧
  (∀ i opc, (i = Instr.mxMma ∧ opc = 5 ∨ i = Instr.mxMmat ∧ opc = 6) → ∀ s t c, mxRunning s t c opc →
    (c.row < blockLines c → cfield c 1 1 = 0 → ∃ s' d, exec (i t) s = .next s' ∧ (s'.tile t).mxq = [d] ∧
      d.row = c.row + 1 ∧ d.buf = c.buf ++ (s.tile t).pool.readBytes (cfield c 16 4 + 64 * c.row) 64 ∧ memorySame s s') ∧
    ((c.row = blockLines c ∧ cfield c 1 1 = 0 ∨ c.row = 0 ∧ cfield c 1 1 = 1) → c.flags = 0 → (s.tile t).opBad = [] →
      (s.tile t).scaleBad = [] → ∃ s' d, exec (i t) s = .next s' ∧ (s'.tile t).mxq = [d] ∧ d.row = blockLines c ∧
        d.flags / 256 = 1 ∧ d.buf.length = 64 * blockLines c ∧ memorySame s s') ∧
    (∀ kc, (c.row = blockLines c ∧ cfield c 1 1 = 0 ∨ c.row = 0 ∧ cfield c 1 1 = 1) → c.flags = 0 →
      c.fmt.toNat % 2 ^ 14 = 0x130C → cfield c 24 2 = kc → 0 < kc → kc ≤ 16 → (s.tile t).opBad = [] →
      (s.tile t).scaleBad = [] → ∃ s' d, exec (i t) s = .next s' ∧ (s'.tile t).mxq = [d] ∧ d.row = blockLines c ∧
        d.flags / 256 = 1 ∧ d.buf.length = 4096 ∧ memorySame s s' ∧
        ∀ m n, m < 32 → n < 32 → (codeAt d.buf (32 * m + n) : Int) =
          max (-2 ^ 31) (min ((if cfield c 1 1 = 1 then 0 else signed 32 (codeAt c.buf (32 * m + n))) +
            ((List.range kc).map fun k => opByte s t (4096 * cfield c 10 1 + 128 * m + k) *
              opByte s t (4096 * cfield c 11 1 + if opc = 5 then 32 * k + n else 128 * n + k)).sum) (2 ^ 31 - 1))
            % 2 ^ 32) ∧
    (∀ r, c.row = blockLines c + r → r < blockLines c → c.flags / 256 = 1 → c.buf.length = 64 * blockLines c →
      ∃ s', exec (i t) s = .next s' ∧ mxAfter s' t c (c.row + 1) (2 * blockLines c) ∧
        (s'.tile t).pool.readBytes (cfield c 16 4 + 64 * r) 64 = (c.buf.drop (64 * r)).take 64 ∧
        poolFrame s s' t (cfield c 16 4 + 64 * r) 64)) ∧
  (∀ s t c, mxRunning s t c 8 →
    (c.row < blockLines c → ∃ s' d, exec (.mxStore t) s = .next s' ∧ (s'.tile t).mxq = [d] ∧ d.row = c.row + 1 ∧
      d.buf = c.buf ++ (s.tile t).pool.readBytes (cfield c 16 4 + 64 * c.row) 64 ∧ memorySame s s') ∧
    (∀ j line, c.row = blockLines c + j → (storeLines c)[j]? = some line → line / 2 ^ 14 = 0xF0 * 2 ^ 36 →
      ∃ s', exec (.mxStore t) s = .next s' ∧ mxAfter s' t c (c.row + 1) (blockLines c + (storeLines c).length) ∧
        poolFrame s s' t (64 * (line % 2 ^ 14)) 64 ∧
        ∀ a : Nat → Nat, cfield c 1 1 = 0 → cfield c 36 1 = 0x0C → c.fmt.toNat / 2 ^ 12 % 4 = 1 → c.buf.length = 4096 →
          (∀ m, m < 32 → mxOwn c m (a m) 32) → ∀ m n, m < 32 → n < 32 → (a m + n) / 64 = line % 2 ^ 14 →
          (∀ k i, m < k → k < 32 → i < 32 → a k + i ≠ a m + n) →
          (((s'.tile t).pool.read (a m + n)).toNat : Int) =
            max (-128) (min (signed 32 (codeAt c.buf (32 * m + n))) 127) % 256))

/-! ## Launches -/

namespace Sys2Proof.Claims

/-- None of these runs of HBM lies in a channel in training, and all can be read without an uncorrectable error (R380, R422). -/
def quiet (s : State) (rs : List (Nat × Nat)) : Prop :=
  s.trains rs = false ∧ ∀ r ∈ rs, isHost r.1 = true ∨ s.hbmFault r.1 r.2 = false

/-- What the last steps of a launch read and write of HBM: the partition's descriptor, the record's end, the semaphore. -/
def lastRuns (s : State) (l : Launch) : List (Nat × Nat) :=
  s.psdRun l.part :: (l.record.pa + 240, 16) :: l.record.csem.toList.map fun a => (a, 4)

/-- A launch record that lies in HBM: nothing else that the last steps of a launch write lies in it (R302, R356). -/
def recordApart (s : State) (p : Nat) (r : Record) : Prop :=
  isHost (r.pa + 240) = false ∧ (s.psdAt p + 128 ≤ r.pa ∨ r.pa + 256 ≤ s.psdAt p) ∧
    ∀ c, r.csem = some c → isHost c = false ∧ (c + 4 ≤ r.pa ∨ r.pa + 256 ≤ c) ∧
      (s.psdAt p + 128 ≤ c ∨ c + 4 ≤ s.psdAt p)

/-- The interrupt vector in a field of IRQV (R387): 0 the error vector, 1 the fault-ring vector. -/
def vectorOf (s : State) (f : Nat) : HostOut := .intr 0 (s.irqv.toNat / 2 ^ (16 * f) % 2 ^ 16)

end Sys2Proof.Claims

/-- R302 to R309, R323, R324: a doorbell moves its queue's tail; the head record is refused, or waits to be placed; a candidate
with room is loaded, and its control strands start together; a logical sorus and then the launch complete, and the record's
last bytes, the completion semaphore, the host interrupt and the freed sori follow. That HEAD advances when its record is placed
or refused, and not at the take (log entry 36), and that tiles keep pools and semaphores after completion (log entry 72) are the
model's choices; nothing is said of the steps that wait for a channel in training (R422). -/
def Obligations.LaunchSequence : Prop :=
  (∀ iod off v s e, off % 8 = 0 → off < 0x80000 → v.toNat < 2 ^ 32 → s.qent (65536 * iod + off / 8) = some e →
    ((v.toNat + 2 ^ 32 - (s.queue (65536 * iod + off / 8)).head) % 2 ^ 32 ≤ 2 ^ e.n →
      ∃ t, exec (.doorbell iod off 8 v) s = .next t ∧
        t.queue (65536 * iod + off / 8) = { head := (s.queue (65536 * iod + off / 8)).head, tail := v.toNat } ∧
        (∀ q, q ≠ 65536 * iod + off / 8 → t.queue q = s.queue q) ∧ t.launches = s.launches ∧ memorySame s t) ∧
    (2 ^ e.n < (v.toNat + 2 ^ 32 - (s.queue (65536 * iod + off / 8)).head) % 2 ^ 32 →
      exec (.doorbell iod off 8 v) s = .next s)) ∧
  (∀ iod off size v s, size ≠ 8 → exec (.doorbell iod off size v) s = .next s) ∧
  (∀ q s e, s.qent q = some e → (s.queue q).head ≠ (s.queue q).tail → s.waiting q = none →
    s.trains (s.recordRuns q e) = false →
    ((∀ va, va = e.ring + BitVec.ofNat 64 (256 * ((s.queue q).head % 2 ^ e.n)) → seqXl s e.ctx va true = none) → quiet s (s.recordRuns q e) →
      ∃ t, exec (.recordTake q) s = .next t ∧ (t.queue q).head = ((s.queue q).head + 1) % 2 ^ 32 ∧
        t.launches = s.launches ∧ t.hostOut = s.hostOut ++ [vectorOf s 0]) ∧
    ∃ t, exec (.recordTake q) s = .next t ∧ ((t.queue q).tail = (s.queue q).tail ∧ t.tiles = s.tiles ∧
      ((t.launches = s.launches ∧ (t.queue q).head = ((s.queue q).head + 1) % 2 ^ 32) ∨
        ∃ l, t.launches = Map.set s.launches s.nextId l ∧ l.phase = 0 ∧ l.record.queue = q ∧ l.part = e.part ∧
          l.ctx = e.ctx ∧ t.queues = s.queues))) ∧
  (∀ q s, (s.queue q).head = (s.queue q).tail → exec (.recordTake q) s = .next s) ∧
  (∀ p s, 2 ≤ (s.part p).state → exec (.placement p) s = .next s) ∧
  (∀ p s id l, (s.part p).state < 2 → (s.part p).phase = 0 → s.trains (s.placeRuns p) = false → s.candOf p = some (id, l) →
    ((s.freeSori p).length < soriOf l.record.x l.record.y → exec (.placement p) s = .next s) ∧
    (∀ o, s.started id l.record.queue = true → soriOf l.record.x l.record.y ≤ (s.freeSori p).length →
      (s.freeSori p).Nodup → s.objects[l.objIdx]? = some o →
      (checkLoad l.record o ≠ 0 → ∃ t, exec (.placement p) s = .next t ∧ Map.get? t.launches id = none ∧
        t.tiles = s.tiles ∧ (t.queue l.record.queue).head = ((s.queue l.record.queue).head + 1) % 2 ^ 32) ∧
      (checkLoad l.record o = 0 → ∃ t l', exec (.placement p) s = .next t ∧ Map.get? t.launches id = some l' ∧
        l'.phase = 1 ∧ l'.record = l.record ∧ l'.sori.length = soriOf l.record.x l.record.y ∧
        (∀ k ∈ l'.sori, k ∈ s.freeSori p) ∧ l'.tiles.length = l.record.x * l.record.y ∧
        (t.queue l.record.queue).head = ((s.queue l.record.queue).head + 1) % 2 ^ 32 ∧
        (l'.tiles.Nodup → ∀ lt u, l'.tiles[lt]? = some u → (t.tile u).loaded = true ∧ (t.tile u).launch = id ∧
          (t.tile u).ltile = lt ∧ (t.tile u).partword = l.record.partword ∧ (t.tile u).ctx = BitVec.ofNat 16 l.ctx ∧
          (t.tile u).hwin = o.hwin ∧ (t.tile u).strands = [] ∧ (t.tile u).sems = [] ∧ (t.tile u).inbox = [] ∧
          (t.tile u).wtt = [] ∧ (t.tile u).copies = [] ∧ (t.tile u).mxq = [] ∧ (t.tile u).opmem = [] ∧
          (t.tile u).pool.readBytes (0x4000 * (l.record.partword.toNat % 256 + l.record.partword.toNat / 256 % 256))
            o.data.length = o.data)))) ∧
  (∀ id s l o, Map.get? s.launches id = some l → s.objects[l.objIdx]? = some o → l.phase = 1 → (s.part l.part).phase = 0 →
    l.tiles.Nodup → ∃ t, exec (.controlStrandStart id) s = .next t ∧
      (∃ l', Map.get? t.launches id = some l' ∧ l'.phase = 2 ∧ l'.tiles = l.tiles ∧ l'.record = l.record) ∧
      (∀ u ∈ l.tiles, (t.strand u 0).status = .live ∧ (t.strand u 0).pc = o.entry ∧ (t.strand u 0).fmt = o.fmt ∧
        Map.find 0 (t.strand u 0).regs 0 = BitVec.ofNat 64 (s.tile u).ltile ∧
        Map.find 0 (t.strand u 0).regs 1 = l.record.arg ∧ Map.find 0 (t.strand u 0).regs 2 = l.record.lid ∧
        Map.find 0 (t.strand u 0).regs 3 = 0xF000000000000000 ∧ Map.find 0 (t.strand u 0).regs 4 = 0xE100000000000000) ∧
      (∀ u, (t.tile u).pool = (s.tile u).pool) ∧ t.hbm = s.hbm) ∧
  (∀ id s l, Map.get? s.launches id = some l → l.phase ≠ 1 → exec (.controlStrandStart id) s = .next s) ∧
  (∀ id o s l, Map.get? s.launches id = some l → l.phase = 2 → o ∉ l.doneSori →
    sorusTiles l.record.x l.record.y o ≠ [] →
    ((∀ lt ∈ sorusTiles l.record.x l.record.y o, lt ∈ l.doneTiles) → ∃ t, exec (.sorusComplete id o) s = .next t ∧
      (∃ l', Map.get? t.launches id = some l' ∧ l'.doneSori = o :: l.doneSori ∧ l'.doneAt = s.time) ∧
      (l.record.snote / 2 ^ 31 ≠ 1 → l.record.snote / 2 ^ 16 % 256 = 255 → t.flight = s.flight) ∧ memorySame s t) ∧
    ((∃ lt ∈ sorusTiles l.record.x l.record.y o, lt ∉ l.doneTiles) → exec (.sorusComplete id o) s = .next s)) ∧
  (∀ id s l, Map.get? s.launches id = some l → l.part ≠ 288 → 2 ≤ l.phase → (s.part l.part).phase = 0 →
    (∀ u ∈ l.tiles, (s.tile u).faultq = []) → s.notesOut l.tiles = false → s.psd l.part 84 4 = 0 →
    s.trains (lastRuns s l) = false →
    (l.doneSori.length < soriOf l.record.x l.record.y → exec (.launchComplete id) s = .next s) ∧
    (soriOf l.record.x l.record.y ≤ l.doneSori.length → ∃ t, exec (.launchComplete id) s = .next t ∧
      Map.get? t.launches id = none ∧ (∀ u ∈ l.tiles, (t.tile u).loaded = false ∧ (t.tile u).pool = (s.tile u).pool ∧
        (t.tile u).sems = (s.tile u).sems) ∧
      (l.record.hint = true → l.record.msiv < 2048 → quiet s (lastRuns s l) → s.chanDown (s.psdAt l.part + 82) = false →
        t.hostOut = s.hostOut ++
        [.intr (Config.queueFunction l.record.queue % 256) l.record.msiv]) ∧
      (recordApart s l.part l.record → quiet s (lastRuns s l) →
        t.hbm.readBytes (l.record.pa + 240) 16 = leBytes s.time 8 ++ leBytes 0 4 ++ leBytes 0 4 ∧
        ∀ c, l.record.csem = some c → leNat (t.hbm.readBytes c 4) =
          (leNat (s.hbm.readBytes c 4) + l.record.cinc) % 2 ^ 32)))

/-- R351, R356: a waiting fault record goes to the partition's ring while that has room, and raises the fault-ring vector.
R381: recovery restores the partition from its last checkpoint; without one the strand stops, and its record waits. -/
def Obligations.FaultRecords : Prop :=
  (∀ s t r rest l, (s.tile t).faultq = r :: rest → s.launchOf t = some l →
    (s.faultRoom l.part = false → exec (.faultRecordPost t) s = .next s) ∧
    (s.faultRoom l.part = true → s.trains (s.faultRuns l.part) = false →
      (∀ r ∈ s.faultRuns l.part, s.chanDown r.1 = false) → s.chanDown (s.psdAt l.part + 62) = false →
      ∃ s', exec (.faultRecordPost t) s = .next s' ∧ (s'.tile t).faultq = rest ∧
      (s'.part l.part).ftail = ((s.part l.part).ftail + 1) % 65536 ∧ s'.hostOut = s.hostOut ++ [vectorOf s 1] ∧
      ∀ a, a = s.psd l.part 48 8 + 64 * ((s.part l.part).ftail % 2 ^ s.psd l.part 56 1) → isHost a = false →
        (s.psdAt l.part + 128 ≤ a ∨ a + 64 ≤ s.psdAt l.part) →
        s'.hbm.readBytes a 2 = [BitVec.ofNat 8 r.cause, BitVec.ofNat 8 r.first] ∧
        s'.hbm.readBytes (a + 8) 8 = leBytes r.spc.toNat 8 ∧ s'.hbm.readBytes (a + 16) 8 = leBytes r.sinfo.toNat 8)) ∧
  (∀ p s, (s.part p).recov = [] → exec (.recover p) s = .next s) ∧
  (∀ p s t k cause rest, (s.part p).recov = (t, k, cause) :: rest → (s.part p).state = 1 → (s.part p).phase = 0 →
    s.faultRoom p = true → cause ≠ 0x32 → s.recurs = [] →
    s.trains (s.faultRuns p ++ ((s.part p).last.toList.flatMap fun im => s.imageRuns p im)) = false →
    ((s.part p).last = none → k < 16 → isService t = false → ∃ s', exec (.recover p) s = .next s' ∧
      (s'.part p).recov = rest ∧ (s'.strand t k).status = .stopped ∧
      ∃ r, (s'.tile t).faultq = (s.tile t).faultq ++ [r] ∧ r.cause = cause ∧ r.slot = k ∧ r.spc = (s.strand t k).spc) ∧
    (∀ im, (s.part p).last = some im → s.psd p 84 4 ≠ 0 → cause ≠ 0x31 →
      (∀ e ∈ s.placedOn p, Map.get? im.launches e.1 ≠ none) →
      (im.launches.map fun e => soriOf e.2.record.x e.2.record.y).sum ≤ (s.freeSori p).length →
      ∃ s', exec (.recover p) s = .next s' ∧ (s'.part p).recov = [] ∧ (s'.part p).state = 3 ∧ (s'.part p).phase = 6 ∧
        (s'.part p).ckpt = false))

/-! ## The host's accesses -/

/-- R90 to R92, R386, R391, R392, R395: pieces of a pool write queue in the tile's ingress buffer, and the oldest is applied
between two issues while HWINMODE is 0; reads answer their bytes; CXL.mem and windows of KIND 2 read and write HBM; a read of
BAR0 answers a register, one of BAR2 the queue's HEAD; an access that reaches nothing answers unsupported, and so does, in
recovery, every one but that of BAR0 and of the I3C target (R396; that I3C shows BAR0's registers is log entry 74). -/
def Obligations.HostAccesses : Prop :=
  (∀ iod off n s w u, s.bootst.toNat % 256 ≠ 0x80 → s.hostWin iod off n = some w → w.kind = 0 → 0 < n →
    n ≤ 64 - w.rel % 64 → s.hostTile w.ctx (w.w1.toNat / 2 ^ 32 % 2 ^ 16 + w.rel / 2 ^ 20) = .live u →
    0x4000 * ((s.tile u).partword.toNat % 256) ≤ w.rel % 2 ^ 20 →
    (∀ d, d.length = n → (s.tile u).ingress.length < 32 → ∃ t, exec (.hostPoolWrite iod off d) s = .next t ∧
      (t.tile u).ingress = (s.tile u).ingress ++ [{ off := w.rel % 2 ^ 20, data := d, port := iod, due := false }] ∧
      memorySame s t) ∧
    (∀ d, d.length = n → (s.tile u).ingress.length = 32 → exec (.hostPoolWrite iod off d) s = .next s) ∧
    ((s.tile u).poolBad = [] → (s.tile u).poolWeak = [] → ∃ t, exec (.hostPoolRead iod off n) s = .next t ∧
        t.hostOut = s.hostOut ++ [.readData ((s.tile u).pool.readBytes (w.rel % 2 ^ 20) n) false] ∧ memorySame s t)) ∧
  (∀ iod off d n s, s.bootst.toNat % 256 ≠ 0x80 → d.length = n → s.hostWin iod off n = none →
    (∃ t, exec (.hostPoolWrite iod off d) s = .next t ∧ t.hostOut = s.hostOut ∧ memorySame s t) ∧
    ∃ t, exec (.hostPoolRead iod off n) s = .next t ∧ t.hostOut = s.hostOut ++ [.unsupported] ∧ memorySame s t) ∧
  (∀ iod off d n s, s.bootst.toNat % 256 = 0x80 → exec (.hostPoolWrite iod off d) s = .next s ∧
    exec (.hostPoolRead iod off n) s = .next { s with hostOut := s.hostOut ++ [.unsupported] } ∧
    ∀ way, way ≠ .register → way ≠ .i3c →
      exec (.hostHbmAccess { iod := iod, way := way, write := true, off := off, data := d, n := 0 }) s = .next s ∧
      exec (.hostHbmAccess { iod := iod, way := way, write := false, off := off, data := [], n := n }) s =
        .next { s with hostOut := s.hostOut ++ [.unsupported] }) ∧
  (∀ t s p rest, (s.tile t).ingress = p :: rest → (s.tile t).stopped = false → (s.tile t).resv = [] →
    ((s.tile t).hwin = true → p.due = false → exec (.hostPieceApply t) s = .next s) ∧
    ((s.tile t).hwin = false → (s.tile t).pieced = true → (∃ k e, (k, e) ∈ (s.tile t).strands ∧ e.status ≠ .free) →
      exec (.hostPieceApply t) s = .next s) ∧
    (((s.tile t).hwin = true ∧ p.due = true) ∨ ((s.tile t).hwin = false ∧ (s.tile t).pieced = false) → ∃ s', exec (.hostPieceApply t) s = .next s' ∧ (s'.tile t).ingress = rest ∧
      (s'.tile t).pool.readBytes p.off p.data.length = p.data ∧ poolFrame s s' t p.off p.data.length)) ∧
  (∀ iod off s (d : List Byte) n, s.bootst.toNat % 256 ≠ 0x80 → off < 16 * 0xC00000000 → 0 < n → n ≤ 64 - off % 64 →
    d.length = n →
    s.chanCtl (off / 0xC00000000 * 2 ^ 36 + off % 0xC00000000) = 1 → s.hbmBad = [] → s.hbmWeak = [] →
    s.l2Bad = [] → s.l2Weak = [] →
    (∃ t, exec (.hostHbmAccess { iod := iod, way := .cxl, write := true, off := off, data := d, n := 0 }) s = .next t ∧
      t.hbm.readBytes (off / 0xC00000000 * 2 ^ 36 + off % 0xC00000000) n = d ∧ t.tiles = s.tiles ∧
      t.hostMem = s.hostMem ∧ t.hostOut = s.hostOut ∧
      ∀ a, a < off / 0xC00000000 * 2 ^ 36 + off % 0xC00000000 ∨ off / 0xC00000000 * 2 ^ 36 + off % 0xC00000000 + n ≤ a →
        t.hbm.read a = s.hbm.read a) ∧
    ∃ t, exec (.hostHbmAccess { iod := iod, way := .cxl, write := false, off := off, data := [], n := n }) s = .next t ∧
      t.hostOut = s.hostOut ++
        [.readData (s.hbm.readBytes (off / 0xC00000000 * 2 ^ 36 + off % 0xC00000000) n) false] ∧ memorySame s t) ∧
  (∀ iod off s w (d : List Byte) n pa, s.bootst.toNat % 256 ≠ 0x80 → s.hostWin iod off n = some w → w.kind = 2 → 0 < n →
    n ≤ 64 - w.rel % 64 → d.length = n → pa = (w.w1.toNat + w.rel) % 2 ^ 52 → isHole pa = false → isHost pa = false →
    s.chanCtl pa = 1 → s.hbmBad = [] → s.hbmWeak = [] → s.l2Bad = [] → s.l2Weak = [] →
    (∃ t, exec (.hostHbmAccess { iod := iod, way := .window, write := true, off := off, data := d, n := 0 }) s = .next t ∧
      t.hbm.readBytes pa n = d ∧ t.tiles = s.tiles ∧ t.hostMem = s.hostMem ∧ t.hostOut = s.hostOut ∧
      ∀ a, a < pa ∨ pa + n ≤ a → t.hbm.read a = s.hbm.read a) ∧
    ∃ t, exec (.hostHbmAccess { iod := iod, way := .window, write := false, off := off, data := [], n := n }) s = .next t ∧
      t.hostOut = s.hostOut ++ [.readData (s.hbm.readBytes pa n) false] ∧ memorySame s t) ∧
  ∀ iod s,
    (∀ way, way = .register ∨ way = .i3c → ∃ t, exec (.hostHbmAccess { iod := iod, way := way, write := false, off := 0x38, data := [], n := 8 }) s =
      .next t ∧ t.hostOut = s.hostOut ++ [.readData (leBytes s.bootst.toNat 8) false] ∧ memorySame s t) ∧
    ∀ off, s.bootst.toNat % 256 ≠ 0x80 → off % 8 = 0 → ∃ t,
      exec (.hostHbmAccess { iod := iod, way := .doorbell, write := false, off := off, data := [], n := 4 }) s = .next t ∧
      t.hostOut = s.hostOut ++ [.readData (leBytes ((s.queue (65536 * iod + off / 8)).head % 2 ^ 32) 4) false] ∧
      memorySame s t

/-! ## Partitions -/

/-- R388: while BUSY is 1 a command is ignored; a command in the wrong STATE answers RES 2; an accepted one sets BUSY. A switch
or checkpoint agrees a time at least 20,000 ticks ahead; a restore waits for sori or loads the image; a stopped strand goes on
as after sys.eret; an end finishes every launch of the partition. That TILE and SLOT hold what the last accepted form wrote is the
model's choice (log entry 40). -/
def Obligations.GangCommands : Prop :=
  (∀ p lt k s, (s.part p).busy = true →
    exec (.gangSwitch p) s = .next s ∧ exec (.gangRestore p) s = .next s ∧ exec (.gangCheckpoint p) s = .next s ∧
      exec (.strandResume p lt k) s = .next s ∧ exec (.endPartition p) s = .next s) ∧
  (∀ p lt k s, (s.part p).busy = false →
    ((s.part p).state ≠ 1 → exec (.gangSwitch p) s = .next (s.setPart p { (s.part p) with res := 2 }) ∧
      exec (.gangCheckpoint p) s = .next (s.setPart p { (s.part p) with res := 2 }) ∧
      exec (.strandResume p lt k) s = .next (s.setPart p { (s.part p) with res := 2 })) ∧
    ((s.part p).state ≠ 2 → exec (.gangRestore p) s = .next (s.setPart p { (s.part p) with res := 2 })) ∧
    ((s.part p).state ≠ 1 → (s.part p).state ≠ 2 →
      exec (.endPartition p) s = .next (s.setPart p { (s.part p) with res := 2 }))) ∧
  (∀ p s, (s.part p).busy = false → (s.part p).state = 1 →
    (∃ t, exec (.gangSwitch p) s = .next t ∧ (t.part p).busy = true ∧ (t.part p).phase = 1 ∧ (t.part p).state = 3 ∧
      (t.part p).ckpt = false ∧ s.time + 20000 ≤ (t.part p).ts ∧
      (s.chanDown (s.psdAt p + 82) = false → t.paNat (s.psdAt p + 82) 1 = 3) ∧ t.tiles = s.tiles) ∧
    ∃ t, exec (.gangCheckpoint p) s = .next t ∧ (t.part p).busy = true ∧ (t.part p).phase = 1 ∧ (t.part p).state = 3 ∧
      (t.part p).ckpt = true ∧ s.time + 20000 ≤ (t.part p).ts ∧
      (s.chanDown (s.psdAt p + 82) = false → t.paNat (s.psdAt p + 82) 1 = 3) ∧ t.tiles = s.tiles) ∧
  (∀ p s im, (s.part p).busy = false → (s.part p).state = 2 → (s.part p).image = some im →
    (∀ e ∈ im.launches, (s.rebind im e.1 e.2).isSome = true) →
    ((s.freeSori p).length < ((im.launches ++ im.late).map fun e => soriOf e.2.record.x e.2.record.y).sum →
      ∃ t, exec (.gangRestore p) s = .next t ∧ (t.part p).busy = true ∧ (t.part p).phase = 5 ∧ (t.part p).state = 2 ∧
        (t.part p).image = some im ∧ t.tiles = s.tiles ∧ memorySame s t) ∧
    (((im.launches ++ im.late).map fun e => soriOf e.2.record.x e.2.record.y).sum ≤ (s.freeSori p).length →
      s.trains (s.imageRuns p im) = false → ∃ t, exec (.gangRestore p) s = .next t ∧ (t.part p).busy = true ∧ (t.part p).phase = 6 ∧ (t.part p).state = 3 ∧
        (t.part p).image = none ∧ s.time + 20000 ≤ (t.part p).ts)) ∧
  (∀ p lt k s, (s.part p).busy = false → (s.part p).state = 1 →
    (∀ u, ((s.partTiles p).find? fun t =>
        (s.tile t).ltile == lt && decide (k < 16) && (s.strand t k).status == .stopped) = some u →
      (s.strand u k).sds = 0 → (s.strand u k).savedExp = none → ∃ t, exec (.strandResume p lt k) s = .next t ∧
        (t.strand u k).status = .live ∧ (t.strand u k).pc = (s.strand u k).spc.truncate 24 ∧
        (t.strand u k).tl = false ∧ (t.part p).busy = true ∧ (t.part p).tgt = (lt, k) ∧ memorySame s t) ∧
    ((∀ u ∈ s.partTiles p, ¬ ((s.tile u).ltile = lt ∧ k < 16 ∧ (s.strand u k).status = .stopped)) →
      exec (.strandResume p lt k) s = .next (s.setPart p { (s.part p) with res := 3 }))) ∧
  (∀ p s, (s.part p).busy = false → (s.part p).state = 1 ∨ (s.part p).state = 2 →
    ∃ t, exec (.endPartition p) s = .next t ∧ (t.part p).state = 0 ∧ (t.part p).phase = 0 ∧ (t.part p).image = none ∧
      (t.part p).last = none ∧ (t.part p).busy = false ∧ (t.part p).res = 1 ∧
      (∀ e ∈ t.launches, e.2.part = p → e.2.phase = 0) ∧ ∀ u ∈ s.partTiles p, (t.tile u).loaded = false)

/-- R357 to R365: at its time a tile of a partition that is switched out stops, what is in flight falls into the spill ring,
each tile's save area is written, the partition is then out, or after a checkpoint goes on; a restored partition starts at its
time; and the checkpoint period arms the next one. Nothing is said of the steps that wait for a channel in training, nor of a
save area in a channel out of service (R422). -/
def Obligations.GangSequence : Prop :=
  (∀ p s a, (s.part p).nextCk = some a → s.psd p 84 4 ≠ 0 → s.trains [s.psdRun p] = false →
    (s.time < a → exec (.checkpointTimer p) s = .next s) ∧
    (a ≤ s.time → (s.part p).state = 1 → (s.part p).phase = 0 → ∃ t, exec (.checkpointTimer p) s = .next t ∧
      (t.part p).phase = 1 ∧ (t.part p).state = 3 ∧ (t.part p).ckpt = true ∧ s.time + 20000 ≤ (t.part p).ts ∧
      (t.part p).nextCk = some (a + 1000 * s.psd p 84 4))) ∧
  (∀ p s, (s.part p).nextCk = none → s.trains [s.psdRun p] = false → (s.psd p 84 4 = 0 ∨ (s.part p).state ≠ 1 → exec (.checkpointTimer p) s = .next s) ∧
    (s.psd p 84 4 ≠ 0 → (s.part p).state = 1 → exec (.checkpointTimer p) s =
      .next (s.setPart p { (s.part p) with nextCk := some (s.time + 1000 * s.psd p 84 4) }))) ∧
  (∀ p s a, (s.part p).nextCk = some a → s.psd p 84 4 = 0 → s.trains [s.psdRun p] = false →
    exec (.checkpointTimer p) s = .next (s.setPart p { (s.part p) with nextCk := none })) ∧
  (∀ s t l, s.launchOf t = some l → (s.part l.part).phase = 1 ∨ (s.part l.part).phase = 2 →
    (s.time < (s.part l.part).ts → exec (.gangStop t) s = .next s) ∧
    ((s.part l.part).ts ≤ s.time → (s.tile t).stopped = false → ∃ s', exec (.gangStop t) s = .next s' ∧
      (s'.tile t).stopped = true ∧ (s'.part l.part).phase = 2 ∧ (∀ k, (s'.strand t k).hold = (s.strand t k).hold) ∧
      (∀ k, (s'.strand t k).pc = (s.strand t k).pc ∧ (s'.strand t k).regs = (s.strand t k).regs ∧
        (s'.strand t k).status = (s.strand t k).status) ∧ memorySame s s')) ∧
  (∀ p s, (s.part p).phase = 2 →
    (s.unsettled p = true → exec (.gangSpill p) s = .next s) ∧
    ((∀ t ∈ s.partTiles p, (s.tile t).stopped = true) → s.unsettled p = false →
      s.trains (s.spillRuns p) = false → ∃ t, exec (.gangSpill p) s = .next t ∧
      (t.part p).phase = 3 ∧
      (s.inbound p = [] → (∀ u ∈ s.partTiles p, s.piecesOut u = [] ∧ (s.tile u).wait36 = []) → t.flight = s.flight))) ∧
  (∀ k s q l, s.packet k = some q → s.launchOf q.dst = some l →
    (s.part l.part).phase = 3 ∨ (s.part l.part).phase = 4 → q.stop = false →
    s.routeAhead q = false → s.trains (s.spillRuns l.part) = false →
    (∀ m, q.body = .msg m → s.spillRoom l.part = true → ∃ t, exec (.spillCapture k) s = .next t ∧ t.packet k = none ∧
      (t.part l.part).sptail = ((s.part l.part).sptail + 1) % 2 ^ 32 ∧
      ∃ e, (t.part l.part).spill = (s.part l.part).spill ++ [e] ∧ e.pkt = q ∧ e.lsrc = (s.tile q.src).ltile ∧
        e.ldst = (s.tile q.dst).ltile) ∧
    (∀ m, q.body = .msg m → s.spillRoom l.part = false → exec (.spillCapture k) s = .next s) ∧
    (∀ i inc, q.body = .sem i inc false → i < 255 → stillWaits s l.part q = false →
      ∃ t, exec (.spillCapture k) s = .next t ∧ t.packet k = none ∧
        ((t.tile q.dst).sem i).s = (((s.tile q.dst).sem i).s + inc) % 2 ^ 32 ∧
        ((s.tile q.dst).halted = false → memorySame s t))) ∧
  (∀ s t l, s.launchOf t = some l → (s.part l.part).phase = 3 → s.inbound l.part = [] → (s.tile t).halted = false →
    (∀ u ∈ s.partTiles l.part, s.piecesOut u = []) →
    s.trains [s.psdRun l.part, (s.saveBase l.part + 0x160000 * (s.tile t).ltile, 0x160000)] = false →
    s.downLines (s.saveBase l.part + 0x160000 * (s.tile t).ltile, 0x160000) = [] →
    ∃ s', exec (.gangSave t) s = .next s' ∧ (s'.tile t).halted = true ∧
      ∀ a, a = s.saveBase l.part + 0x160000 * (s.tile t).ltile →
        (∀ i, i < 2 ^ 20 → s'.hbm.read (a + i) = (s.tile t).pool.read i) ∧
        (∀ i, i < 0x20000 → s'.hbm.read (a + 0x100000 + i) = (s.tile t).opmem.read i) ∧
        (∀ i, i < 0x2000 → s'.hbm.read (a + 0x120000 + i) = (s.tile t).scale.read i) ∧
        ∀ b, b < a ∨ a + 0x160000 ≤ b → s'.hbm.read b = s.hbm.read b) ∧
  (∀ p s, (s.part p).phase = 4 →
    s.trains (s.psdRun p :: (s.placedOn p).map fun e => (s.psd p 64 8, 4 * e.2.tiles.length)) = false →
    (s.balanced p = false → exec (.gangOut p) s = .next s) ∧
    (s.balanced p = true → (s.part p).ckpt = false → ∃ t im, exec (.gangOut p) s = .next t ∧ (t.part p).state = 2 ∧
      (t.part p).phase = 0 ∧ (t.part p).image = some im ∧ im.launches = s.placedOn p ∧
      im.tiles.map Saved.tileid = s.partTiles p ∧ (∀ v ∈ im.tiles, v.tile = s.tile v.tileid) ∧
      im.spill = (s.part p).spill ∧ (∀ e ∈ t.launches, e.2.part = p → e.2.phase = 0) ∧
      ∀ u ∈ s.partTiles p, (t.tile u).loaded = false) ∧
    (s.balanced p = true → (s.part p).ckpt = true → ∃ t im, exec (.gangOut p) s = .next t ∧ (t.part p).phase = 6 ∧
      (t.part p).last = some im ∧ im.launches = s.placedOn p ∧ (∀ v ∈ im.tiles, v.tile = s.tile v.tileid) ∧
      (t.part p).cksel = 1 - (s.part p).cksel ∧ s.time + 20000 ≤ (t.part p).ts ∧ t.tiles = s.tiles)) ∧
  (∀ p s im, (s.part p).phase = 5 → (s.part p).image = some im → (∀ e ∈ im.launches, (s.rebind im e.1 e.2).isSome = true) →
    (s.freeSori p).length < ((im.launches ++ im.late).map fun e => soriOf e.2.record.x e.2.record.y).sum →
    exec (.restoreStart p) s = .next s) ∧
  (∀ p s, (s.part p).phase = 6 →
    (s.time < (s.part p).ts → exec (.restoreStart p) s = .next s) ∧
    ((s.part p).ts ≤ s.time → s.trains (s.spillRuns p) = false → ∃ t, exec (.restoreStart p) s = .next t ∧ (t.part p).phase = 0 ∧ (t.part p).state = 1 ∧
      ∀ u ∈ s.partTiles p, (t.tile u).stopped = false ∧ (t.tile u).halted = false))

/-! ## Power, temperature, scrubbing and links -/

namespace Sys2Proof.Claims

/-- The exit latency of a power state in ticks (R377). -/
def latencyOf (n : Nat) : Nat := if n = 1 then 1000 else if n = 2 then 20000 else if n = 3 then 2000000 else 20000000

/-- A scrub of one word (R382): an uncorrectable error raises the error vector and stays, a correctable one is corrected, and
a sound word is left as it is (log entry 22 says how errors arise). -/
def ScrubIs (l : ScrubLoc) (a : Nat) (live : State → Prop) (bad weak : State → List Nat) : Prop :=
  ∀ s, live s →
    (a ∈ bad s → ∃ t, exec (.scrubVisit l) s = .next t ∧ t.hostOut = s.hostOut ++ [vectorOf s 0] ∧ bad t = bad s ∧
      memorySame s t) ∧
    (a ∉ bad s → a ∈ weak s → ∃ t, exec (.scrubVisit l) s = .next t ∧ t.hostOut = s.hostOut ∧
      weak t = (weak s).filter (· != a) ∧ bad t = bad s ∧ memorySame s t) ∧
    (a ∉ bad s → a ∉ weak s → ∃ t, exec (.scrubVisit l) s = .next t ∧ t.tiles = s.tiles ∧ t.logs = s.logs ∧
      t.hostOut = s.hostOut ∧ bad t = bad s ∧ weak t = weak s ∧ memorySame s t)

end Sys2Proof.Claims

/-- R320, R369, R372, R376 to R378, R382, R383: refills, the stipe controller, the die clock (its first value is the choice of log entry 2), the power states and what waking
costs, the temperature bands, scrubbing, and a link that goes down. -/
def Obligations.PowerAndReliability : Prop :=
  (∀ t s l, s.launchOf t = some l →
    ((s.tile t).cycle < (s.tile t).refillAt → exec (.budgetRefill t) s = .next s) ∧
    ((s.tile t).halted = true ∨ (s.tile t).stopped = true ∧ 4 < (s.part l.part).phase → exec (.budgetRefill t) s = .next s) ∧
    ((s.tile t).refillAt ≤ (s.tile t).cycle → 2 ≤ l.phase → (s.tile t).halted = false →
      (s.tile t).stopped = false ∨ (s.part l.part).phase ≤ 4 → ∃ s' q0 mq0, exec (.budgetRefill t) s = .next s' ∧
      q0 = (if l.record.pclass = 0 then 1024 else 2048) ∧
      mq0 = (if l.record.pclass = 0 then 256 else if l.record.pclass = 1 then 224 else 160) ∧
      (s'.tile t).q = q0 * (s.tile t).rf / 8 ∧ (s'.tile t).mq = mq0 * (s.tile t).rf / 8 ∧
      (s'.tile t).mbudget = min ((s.tile t).mbudget + (mq0 * (s.tile t).rf / 8 : Nat)) (2 * (mq0 * (s.tile t).rf / 8) : Nat) ∧
      (s'.tile t).refillAt = (s.tile t).refillAt + 256 ∧
      (∀ k, (s.strand t k).vgrant.1 = 0 → (s'.strand t k).acct = (s.strand t k).acct) ∧ memorySame s s')) ∧
  (∀ i s p, p = Map.find Stipe.reset s.stipes i →
    (s.time < p.next → exec (.stipeUpdate i) s = .next s) ∧
    (p.next ≤ s.time → ∃ t p' m, exec (.stipeUpdate i) s = .next t ∧ Map.find Stipe.reset t.stipes i = p' ∧
      p'.next = p.next + 1000 ∧ p'.devs.length = 4 ∧ (∀ d ∈ p'.devs, -128 ≤ d ∧ d ≤ 127 ∧ d.natAbs ≤ m) ∧
      (∃ d ∈ p'.devs, d.natAbs = m) ∧ (96 ≤ m → p'.str = 8) ∧ (20 < m → m < 31 → p'.str = p.str) ∧
      (m ≤ 20 → p'.str = p.str ∨ p'.str = p.str - 1) ∧
      (∀ j d, p'.devs[j]? = some d → ∀ u, u = i / 150 * 1024 + i % 25 * 32 + 4 * (i % 150 / 25) + j →
        (d ≤ -16 → (t.tile u).bal = true) ∧ (16 ≤ d → (t.tile u).rf = max ((s.tile u).rf - 1) 4) ∧
        (d ≤ 8 → (s.tile u).rf < 8 → (t.tile u).rf = (s.tile u).rf + 1) ∧
        (8 < d → d < 16 → (t.tile u).rf = (s.tile u).rf)) ∧ memorySame s t)) ∧
  (∀ d s due clk, due = Map.find 10000 s.dieNext d → clk = Map.find 2250 s.dieClk d →
    (s.time < due → exec (.diePowerMeasure d) s = .next s) ∧
    (due ≤ s.time → ∃ t mw, exec (.diePowerMeasure d) s = .next t ∧ Map.find 10000 t.dieNext d = due + 10000 ∧
      Map.find 2250 t.dieClk d = (if s.dieShare < mw then max (clk - 25) 1500
        else if mw * 100 < s.dieShare * 95 then min (clk + 25) 2500 else clk) ∧ t.tiles = s.tiles ∧ memorySame s t)) ∧
  (∀ s, s.idle = true → s.pwrst < 4 → latencyOf (s.pwrst + 1) ≤ s.ltol.toNat * 1000 →
    s.idleSince + 4 * latencyOf (s.pwrst + 1) ≤ s.time →
    (s.pwrst ≠ 2 → ∃ t, exec .powerStateDescend s = .next t ∧ t.pwrst = s.pwrst + 1 ∧ t.tiles = s.tiles ∧ memorySame s t) ∧
    (s.pwrst = 2 → s.l2Bad = [] → ∃ t, exec .powerStateDescend s = .next t ∧ t.pwrst = 3 ∧ t.l2 = [] ∧ t.hbm = s.hbm ∧
      ∀ u, isService u = false → (t.tile u).pool = [] ∧ (t.tile u).opmem = [])) ∧
  (∀ s, s.idle = false → exec .powerStateDescend s = .next s) ∧
  (∀ s, s.pwrst = 0 → exec .powerWake s = .next s) ∧
  (∀ s, 0 < s.pwrst → s.pwrst ≤ 4 → ∃ t, exec .powerWake s = .next t ∧ t.pwrst = 0 ∧
    t.time = s.time + latencyOf s.pwrst ∧ t.tiles = s.tiles ∧ memorySame s t) ∧
  (∀ s, s.time < s.tempNext → exec .hbmTempPoll s = .next s) ∧
  (∀ s, s.tempNext ≤ s.time → ∃ t, exec .hbmTempPoll s = .next t ∧ t.tempNext = s.tempNext + 1000000 ∧
    (∀ k, k < 16 → ∃ h, Map.find 0 t.htemp k = h ∧
      (106 ≤ h % 256 → h / 2 ^ 13 % 8 = 3 ∧ h / 2 ^ 9 % 4 = 2) ∧
      (101 ≤ h % 256 → h % 256 < 106 → 2 ≤ h / 2 ^ 13 % 8) ∧ (96 ≤ h % 256 → 1 ≤ h / 2 ^ 13 % 8) ∧
      (86 ≤ h % 256 → 1 ≤ h / 2 ^ 9 % 4) ∧ (h % 256 < 84 → h / 2 ^ 9 = 0)) ∧ t.tiles = s.tiles ∧ memorySame s t) ∧
  (∀ u a, ScrubIs (.pool u a) a (fun s => Map.find 0 s.scrub 0 ≠ 0) (fun s => (s.tile u).poolBad)
    fun s => (s.tile u).poolWeak) ∧
  (∀ u a, ScrubIs (.opmem u a) a (fun s => Map.find 0 s.scrub 0 ≠ 0) (fun s => (s.tile u).opBad)
    fun s => (s.tile u).opWeak) ∧
  (∀ u a, ScrubIs (.scale u a) a (fun s => Map.find 0 s.scrub 0 ≠ 0) (fun s => (s.tile u).scaleBad)
    fun s => (s.tile u).scaleWeak) ∧
  (∀ u i s, Map.find 0 s.scrub 0 ≠ 0 →
    ((s.tile u).cellBad.contains (.table u i) = true → ∃ t, exec (.scrubVisit (.table u i)) s = .next t ∧
      t.hostOut = s.hostOut ++ [vectorOf s 0] ∧ (t.tile u).cellBad.contains (.table u i) = false ∧ memorySame s t) ∧
    ((s.tile u).cellBad.contains (.table u i) = false → ∃ t, exec (.scrubVisit (.table u i)) s = .next t ∧
      t.hostOut = s.hostOut ∧ (t.tile u).cellWeak.contains (.table u i) = false ∧ memorySame s t)) ∧
  (∀ l s, Map.find 0 s.scrub 0 = 0 → (∃ u a, l = .pool u a ∨ l = .opmem u a ∨ l = .scale u a ∨ l = .table u a) →
    exec (.scrubVisit l) s = .next s) ∧
  (∀ a, isHost a = false → ScrubIs (.hbm a) a (fun s => Map.find 0 s.scrub 2 ≠ 0 ∧ s.chanCtl a = 1) State.hbmBad
    State.hbmWeak) ∧
  (∀ a, ScrubIs (.l2 a) a (fun s => Map.find 0 s.scrub 1 ≠ 0) State.l2Bad State.l2Weak) ∧
  (∀ iod link s, ∃ t, exec (.linkDown iod link) s = .next t ∧ link ∈ t.linksDown ∧
    t.hostOut = s.hostOut ++ [vectorOf s 0] ∧ t.tiles = s.tiles ∧ memorySame s t)

/-! ## HBM channels and start-up -/

/-- R422, R425 to R427: a write to CHCTL acts at once, but TRAIN = 1 only in a later event, when the channel's requests have
completed: a request at a channel is one event here, so that none is then under way (log entry 74); a test
starts on a channel in training, ends with its mask, or after 10,000 ticks with TOUT; a mode register takes its byte; and
outside training, or while a test runs, those writes are ignored. -/
def Obligations.HbmChannels : Prop :=
  (∀ st ch v s,
    (v.getLsbD 1 = false ∨ (s.channel st ch).ctl.getLsbD 1 = true → exec (.chctlWrite st ch v) s =
      .next (s.setChannel st ch { (s.channel st ch) with ctl := v.truncate 2, trainTo := none })) ∧
    (v.getLsbD 1 = true → (s.channel st ch).ctl.getLsbD 1 = false → exec (.chctlWrite st ch v) s =
      .next (s.setChannel st ch { (s.channel st ch) with trainTo := some (v.truncate 2) }))) ∧
  (∀ st ch s,
    ((s.channel st ch).trainTo = none → exec (.trainEffect st ch) s = .next s) ∧
    (∀ n, (s.channel st ch).trainTo = some n → exec (.trainEffect st ch) s =
      .next (s.setChannel st ch { (s.channel st ch) with ctl := n, trainTo := none }))) ∧
  (∀ st ch s, (s.channel st ch).ctl.getLsbD 1 = true → (s.channel st ch).busy = false →
    exec (.readTest st ch) s = .next (s.setChannel st ch
      { (s.channel st ch) with dir := false, busy := true, done := false, tout := false, started := s.time }) ∧
    exec (.writeTest st ch) s = .next (s.setChannel st ch
      { (s.channel st ch) with dir := true, busy := true, done := false, tout := false, started := s.time }) ∧
    ∀ n v, exec (.hmodeWrite st ch n v) s = .next (s.setChannel st ch
      { (s.channel st ch) with hmode := Map.set (s.channel st ch).hmode n (v.truncate 8) })) ∧
  (∀ st ch n v s, (s.channel st ch).ctl.getLsbD 1 = false ∨ (s.channel st ch).busy = true →
    exec (.readTest st ch) s = .next (s.setChannel st ch (s.channel st ch)) ∧
    exec (.writeTest st ch) s = .next (s.setChannel st ch (s.channel st ch)) ∧
    exec (.hmodeWrite st ch n v) s = .next (s.setChannel st ch (s.channel st ch))) ∧
  (∀ st ch s, (s.channel st ch).busy = true →
    (s.time < (s.channel st ch).started + 10000 →
      exec (.patternTestTimeout st ch) s = .next s ∧ ∃ t, exec (.patternTestDone st ch) s = .next t ∧
        (t.channel st ch).busy = false ∧ (t.channel st ch).done = true ∧ (t.channel st ch).tout = (s.channel st ch).tout ∧
        (t.channel st ch).ctl = (s.channel st ch).ctl ∧ t.tiles = s.tiles ∧ memorySame s t) ∧
    ((s.channel st ch).started + 10000 ≤ s.time → exec (.patternTestDone st ch) s = .next s ∧
      exec (.patternTestTimeout st ch) s = .next (s.setChannel st ch
        { (s.channel st ch) with busy := false, done := true, tout := true, pterr := 0xFFFFFFFFFFFFFFFF })))

/-- R394 to R397, R428: a start-up passes its stages, an image that fails its checks leaves recovery, which takes an image that
verifies; stage 3 runs the training routine for one channel after another; and the host's requests are answered: a
configuration request with Retry Status until the last stage. That HBM and flash outlive a reset (log entry 18), that a stage,
or the start of one channel's routine, is one event (log entry 55), and that one service tile trains the channels in
order (log entry 75) are the model's choices. -/
def Obligations.StartUp : Prop :=
  (∀ s, s.bootst.toNat % 256 = 0 ∨ s.bootst.toNat % 256 = 4 ∨ s.bootst.toNat % 256 = 0x80 →
    ∃ t, exec .deviceReset s = .next t ∧ t.bootst.toNat % 256 = 1 ∧ t.tiles = [] ∧ t.flight = [] ∧ t.xcache = [] ∧
      t.launches = [] ∧ t.queues = [] ∧ t.xlinv = 0 ∧ t.pwrst = 0 ∧ t.flash = s.flash ∧ t.rollback = s.rollback ∧
      t.hbm = s.hbm) ∧
  (∀ s, s.bootst.toNat % 256 = 1 → imageAccepted s.flash s.rollback = false →
    ∃ t, exec .deviceReset s = .next t ∧ t.bootst.toNat % 256 = 0x80 ∧ t.tiles = s.tiles ∧ t.launches = s.launches) ∧
  (∀ s, s.bootst.toNat % 256 = 1 → imageAccepted s.flash s.rollback = true →
    (∀ i, i < 8 → Config.selfTestPasses i = true) → ∃ t, exec .deviceReset s = .next t ∧ t.bootst.toNat % 256 = 2 ∧
      ∀ u ∈ [8192, 8193, 8194, 8195, 9216, 9217, 9218, 9219], (t.strand u 0).status = .live ∧ (t.tile u).ctx = 0 ∧
        (t.strand u 0).pc = BitVec.ofNat 24 (Config.firmwareEntry (imageBody s.flash)) ∧
        (t.strand u 0).sstat.getLsbD 0 = true ∧
        (t.tile u).pool.readBytes 0x4000 ((imageBody s.flash).take 0xFC000).length = (imageBody s.flash).take 0xFC000) ∧
  (∀ s, s.bootst.toNat % 256 = 2 → ∃ t, exec .deviceReset s = .next t ∧ t.bootst.toNat % 256 = 3 ∧ t.tiles = s.tiles) ∧
  (∀ s, s.bootst.toNat % 256 = 3 →
    (s.trainNext ≠ 0 → (s.strand 9219 0).status = .live → exec .deviceReset s = .next s) ∧
    (s.trainNext = 0 ∨ (s.strand 9219 0).status ≠ .live →
      (∀ k ch, ch < 32 → s.trainNext = 32 * k + ch → k < 16 → ∃ t, exec .deviceReset s = .next t ∧ t.bootst = s.bootst ∧
        t.trainNext = s.trainNext + 1 ∧ (t.strand 9219 0).status = .live ∧ (t.strand 9219 0).pc = 0 ∧
        (t.strand 9219 0).sstat.getLsbD 0 = true ∧
        Map.find 0 (t.strand 9219 0).regs 1 = BitVec.ofNat 64 ((0x10 + k) * 2 ^ 24 + ch * 2048) ∧
        (s.trainNext = 0 → ∀ c, t.vector 9219 c = if c = 0x2F then some 25 else none) ∧ t.hbmCh = s.hbmCh ∧ t.hbm = s.hbm ∧
        ∀ u, u ≠ 9219 → t.tile u = s.tile u) ∧
      (512 ≤ s.trainNext → ∃ t, exec .deviceReset s = .next t ∧ t.bootst.toNat % 256 = 4 ∧ s.rollback ≤ t.rollback ∧
        leNat ((s.flash.drop 8).take 4) ≤ t.rollback ∧ t.hbmCh = s.hbmCh ∧ ∀ u, u ≠ 9219 → t.tile u = s.tile u))) ∧
  (∀ image s, s.bootst.toNat % 256 ≠ 0x80 ∨ imageAccepted image s.rollback = false →
    exec (.recoveryImage image) s = .next s) ∧
  (∀ image s, s.bootst.toNat % 256 = 0x80 → ∃ t, exec (.recoveryImage image) s = .next t ∧
    (imageAccepted image s.rollback = true → t.flash = image ∧ t.bootst.toNat % 256 = 1 ∧ t.tiles = [])) ∧
  (∀ iod req s,
    (s.bootst.toNat % 256 ≠ 4 → s.bootst.toNat % 256 ≠ 0x80 → s.time < 1000000000 →
      exec (.configurationRequest iod req) s = .next { s with hostOut := s.hostOut ++ [.retryStatus] }) ∧
    (s.bootst.toNat % 256 = 4 ∨ s.bootst.toNat % 256 = 0x80 →
      ∃ d, exec (.configurationRequest iod req) s = .next { s with hostOut := s.hostOut ++ [.config d] })) ∧
  ∀ b s,
    (∃ d, exec (.getVersion b) s = .next { s with hostOut := s.hostOut ++ [.spdm d] }) ∧
    (∃ d, exec (.getCapabilities b) s = .next { s with hostOut := s.hostOut ++ [.spdm d] }) ∧
    (∃ d, exec (.negotiateAlgorithms b) s = .next { s with hostOut := s.hostOut ++ [.spdm d] }) ∧
    (∃ d, exec (.getDigests b) s = .next { s with hostOut := s.hostOut ++ [.spdm d] }) ∧
    (∃ d, exec (.getCertificate b) s = .next { s with hostOut := s.hostOut ++ [.spdm d] }) ∧
    (∃ d, exec (.challenge b) s = .next { s with hostOut := s.hostOut ++ [.spdm d] }) ∧
    ∃ d, exec (.getMeasurements b) s = .next { s with hostOut := s.hostOut ++ [.spdm d] }

/-! ## Encodings, the step, and invariants -/

/-- Whatever an instruction is written down as, the decoder reads that instruction from it: parcels (R29 to R32), moves to
trigger ports (R40 to R43) and matrix commands (R201); and a transport word (R13, R17) and its 256 bits are each other's
image. -/
def Obligations.EncodeDecode : Prop :=
  (∀ i c, i.wf = true → encode i = some c → decodeCode c = some i) ∧
  (∀ ps i, decodeParcels ps = .ok i → ∃ qs rest, encode i = some (.parcels qs) ∧ qs.length = parcelLength i ∧
    ps.take (parcelLength i) = qs ∧ ps = qs ++ rest) ∧
  (∀ w, w.slots.length = 8 → decodeWord (encodeWord w) = w) ∧
  (∀ b, (decodeWord b).slots.length = 8 ∧ encodeWord (decodeWord b) = b) ∧
  ∀ v, encodeSlot (decodeSlot v) = v

/-- Words written out from the encodings of the manual: parcels (R29 to R32), a slot (R13), trigger ports of each family (R40
to R43), matrix opcodes (R201). -/
def Obligations.DecodeWords : Prop :=
  decodeTableWord 16 0b0000001010110101 = some (.tParcel 10 6 5) ∧
  decodeTableWord 16 0b1000000000000111 = some (.iParcel 7) ∧
  decodeTableWord 16 0b1100000000000101 = some (.idle 5) ∧
  decodeTableWord 16 0b1100001000000001 = some (.bank 1) ∧
  decodeTableWord 16 0b1101000000000000 = none ∧ decodeTableWord 16 0b1100001100000000 = none ∧
  decodeSlot 0b1001000001000110001000101100 =
    { guard := 9, src := 0b00000100011, dst := 0b0001000101, keep := true, low := 0 } ∧
  decodeCode (.move 0x045 7 false 0) = some (.aluAdd .alu0 7) ∧
  decodeCode (.move 0x085 7 false 0) = some (.aluAdd .alu1 7) ∧ decodeCode (.move 0x007 3 true 0) = some (.cuBrl true 3) ∧
  decodeCode (.move 0x0C4 7 false 0) = some (.mduMul 7) ∧ decodeCode (.move 0x164 7 false 0) = some (.lsuLdb 7) ∧
  decodeCode (.move 0x1EE 7 false 1) = some (.chFree 7) ∧ decodeCode (.move 0x2C2 7 false 0) = some (.sysEret 7) ∧
  decodeCode (.move 0x011 7 false 0) = none ∧ decodeCode (.command 5 2) = some (.mxMma 2) ∧
  decodeCode (.command 10 2) = none

/-- A trigger port fires the instruction that the decoder reads from the move to it (R24, R28, R40 to R43): the table of meanings
that an issue uses is exec of the decoded instruction. -/
def Obligations.TriggerFires : Prop :=
  ∀ port v g chop i s, decodeTrigger port v g chop = some i → firePort port v g chop s = exec i s

/-- A step runs the decoded instruction. The strand whose turn it is, when it can issue, executes the instruction at its
address (R34), a later repetition of a repeated parcel (R36), or an annulled delay issue (R291); and where no strand has the
turn the next event is executed after the time that passes before it. -/
def Obligations.StepRunsDecoded : Prop :=
  (∀ s t k i, s.turn = some (t, k) → canAttempt (s.strand t k) = true →
    decodeParcels (s.parcels t (s.strand t k).pc.toNat 17) = .ok i →
    ((∀ d, (s.strand t k).delay = some d → d.annul = false) → (s.strand t k).rep = 0 →
      step s = exec i (s.atTurn t k)) ∧
    (∀ a b c, i = .tParcel a b c → (∀ d, (s.strand t k).delay = some d → d.annul = false) → (s.strand t k).rep ≠ 0 →
      step s = exec .repetition (s.atTurn t k)) ∧
    (∀ d, (s.strand t k).delay = some d → d.annul = true →
      (∃ a b c, i = .tParcel a b c) ∨ (∃ a, i = .idle a) ∨ (∃ w, i = .inline w) →
      step s = exec .annulledIssue (s.atTurn t k))) ∧
  ∀ s, s.turn = none → step s = match s.pass.pick with
    | .own i => exec i s.pass
    | .input i rest =>
      if isInput i = true ∧ i.wf = true then
        if s.pwrst ≠ 0 ∧ wakes i = true then exec .powerWake s.pass else exec i { s.pass with inputs := rest }
      else .fault .illFormed
    | .nothing => .next s.pass

/-- No instruction stops the machine: exec answers a next state for every instruction in every state, and a step stops only at
a term of the list of outside events that is no well-formed outside event. -/
def Obligations.NeverStops : Prop :=
  (∀ i s, ∃ t, exec i s = .next t) ∧
  (∀ s, (∃ t, step s = .next t) ∨ (step s = .fault .illFormed ∧ s.turn = none ∧
    ∃ i rest, s.pass.pick = .input i rest ∧ (isInput i = false ∨ i.wf = false)))

/-- The machine right after reset: memories in canonical form and nothing listed, no tile loaded, nothing in flight, no
translation, queue or launch, PWRST and XLINV 0, SCRUB at its three periods (R382), and no partition running; every strand's
SSTAT reads 0x1A02 (R347). That XLBASE and PWRST are 0 (log entry 2) and that HBM lists nothing (log entry 3) are the model's
choices. -/
def Obligations.ResetState : Prop :=
  State.reset.memOk ∧ State.reset.hbm = [] ∧ State.reset.flight = [] ∧ State.reset.xcache = [] ∧ State.reset.walks = [] ∧
  State.reset.xlinv = 0 ∧ State.reset.xlbase = 0 ∧ State.reset.pwrst = 0 ∧ State.reset.launches = [] ∧
  Map.find 0 State.reset.scrub 0 = 1000 ∧ Map.find 0 State.reset.scrub 1 = 10000 ∧
  Map.find 0 State.reset.scrub 2 = 28800000 ∧
  (∀ t, (State.reset.tile t).loaded = false ∧ (State.reset.tile t).ctx = 0 ∧ (State.reset.tile t).inbox = []) ∧
  (∀ t k, (State.reset.strand t k).status = .free ∧ (State.reset.strand t k).sstat = 0x1A02 ∧
    (State.reset.strand t k).mode = 0) ∧
  (∀ p, (State.reset.part p).state = 0 ∧ (State.reset.part p).busy = false ∧ (State.reset.part p).phase = 0) ∧
  ∀ k ch, (State.reset.channel k ch).ctl = 0 ∧ (State.reset.channel k ch).rdly = 32 ∧ (State.reset.channel k ch).wdly = 32

/-- Every memory keeps its canonical form through every step: strictly rising addresses and no entry equal to what an unlisted
address reads as, in HBM, the host's memory, every pool, operand and scale memory, and every saved image. -/
def Obligations.MemoryStaysCanonical : Prop := ∀ s t, s.memOk → step s = .next t → t.memOk
end

