-- ==== Sys2Proof/Laws/Map.lean ====
section
/-! SUPPORT. Laws of sparse maps and of memory: a read after a write, other places left alone, and the canonical form kept
by every memory operation. -/
namespace Sys2Proof.Machine

/-! ## Maps -/

@[simp] theorem Map.get?_nil {α : Type} (k : Nat) : Map.get? ([] : Map α) k = none := rfl

@[simp] theorem Map.find_nil {α : Type} (d : α) (k : Nat) : Map.find d ([] : Map α) k = d := rfl

theorem Map.get?_erase_same {α : Type} (m : Map α) (k : Nat) : Map.get? (Map.erase m k) k = none := by
  induction m with
  | nil => rfl
  | cons c r ih =>
    obtain ⟨j, v⟩ := c
    by_cases h : j = k <;> simp [Map.erase, Map.get?, h, ih]

theorem Map.get?_erase_other {α : Type} (m : Map α) {j k : Nat} (h : j ≠ k) :
    Map.get? (Map.erase m k) j = Map.get? m j := by
  induction m with
  | nil => rfl
  | cons c r ih =>
    obtain ⟨i, v⟩ := c
    by_cases hk : i = k
    · have hi : ¬ i = j := by omega
      simp only [Map.erase, Map.get?, if_pos hk, if_neg hi, ih]
    · simp [Map.erase, Map.get?, hk, ih]

theorem Map.get?_insert_same {α : Type} (m : Map α) (k : Nat) (v : α) (h : Map.get? m k = none) :
    Map.get? (Map.insert m k v) k = some v := by
  induction m with
  | nil => simp [Map.insert, Map.get?]
  | cons c r ih =>
    obtain ⟨j, w⟩ := c
    by_cases hj : j = k
    · simp [Map.get?, hj] at h
    · simp only [Map.get?, hj, if_false] at h
      simp only [Map.insert]
      split <;> simp [Map.get?, hj, ih h]

theorem Map.get?_insert_other {α : Type} (m : Map α) {j k : Nat} (v : α) (h : j ≠ k) :
    Map.get? (Map.insert m k v) j = Map.get? m j := by
  induction m with
  | nil => simp [Map.insert, Map.get?, Ne.symm h]
  | cons c r ih =>
    obtain ⟨i, w⟩ := c
    simp only [Map.insert]
    split
    · simp [Map.get?, Ne.symm h]
    · simp [Map.get?, ih]

@[simp] theorem Map.get?_set_same {α : Type} (m : Map α) (k : Nat) (v : α) : Map.get? (Map.set m k v) k = some v :=
  Map.get?_insert_same _ _ _ (Map.get?_erase_same m k)

theorem Map.get?_set_other {α : Type} (m : Map α) {j k : Nat} (v : α) (h : j ≠ k) :
    Map.get? (Map.set m k v) j = Map.get? m j := by
  rw [Map.set, Map.get?_insert_other _ v h, Map.get?_erase_other m h]

@[simp] theorem Map.find_set_same {α : Type} (d : α) (m : Map α) (k : Nat) (v : α) :
    Map.find d (Map.set m k v) k = v := by simp [Map.find]

theorem Map.find_set_other {α : Type} (d : α) (m : Map α) {j k : Nat} (v : α) (h : j ≠ k) :
    Map.find d (Map.set m k v) j = Map.find d m j := by simp [Map.find, Map.get?_set_other m v h]

@[simp] theorem Map.find_erase_same {α : Type} (d : α) (m : Map α) (k : Nat) :
    Map.find d (Map.erase m k) k = d := by simp [Map.find, Map.get?_erase_same]

theorem Map.find_erase_other {α : Type} (d : α) (m : Map α) {j k : Nat} (h : j ≠ k) :
    Map.find d (Map.erase m k) j = Map.find d m j := by simp [Map.find, Map.get?_erase_other m h]

theorem Map.mem_erase {α : Type} {m : Map α} {k : Nat} {c : Nat × α} (h : c ∈ Map.erase m k) : c ∈ m ∧ c.1 ≠ k := by
  induction m with
  | nil => simp [Map.erase] at h
  | cons b r ih =>
    obtain ⟨j, v⟩ := b
    simp only [Map.erase] at h
    split at h
    · exact ⟨List.mem_cons_of_mem _ (ih h).1, (ih h).2⟩
    · rename_i hj
      rcases List.mem_cons.1 h with rfl | h
      · exact ⟨List.mem_cons_self .., hj⟩
      · exact ⟨List.mem_cons_of_mem _ (ih h).1, (ih h).2⟩

theorem Map.mem_insert {α : Type} {m : Map α} {k : Nat} {v : α} {c : Nat × α} (h : c ∈ Map.insert m k v) :
    c = (k, v) ∨ c ∈ m := by
  induction m with
  | nil => simpa [Map.insert] using h
  | cons b r ih =>
    obtain ⟨j, w⟩ := b
    simp only [Map.insert] at h
    split at h
    · simpa using h
    · rcases List.mem_cons.1 h with rfl | h
      · simp
      · rcases ih h with h | h <;> simp [h]

theorem Map.mem_set {α : Type} {m : Map α} {k : Nat} {v : α} {c : Nat × α} (h : c ∈ Map.set m k v) :
    c = (k, v) ∨ (c ∈ m ∧ c.1 ≠ k) := by
  rcases Map.mem_insert h with h | h
  · exact .inl h
  · exact .inr (Map.mem_erase h)

/-! ## The canonical form -/

theorem Memory.wf_def (m : Memory) : m.wf = true ↔ m.sorted = true ∧ m.noDefault = true := by simp [Memory.wf]

/-- Strictly rising, by pairs. -/
theorem Memory.sorted_iff (m : Memory) : m.sorted = true ↔ m.Pairwise fun c d => c.1 < d.1 := by
  induction m with
  | nil => simp [Memory.sorted]
  | cons c r ih =>
    obtain ⟨a, x⟩ := c
    cases r with
    | nil => simp [Memory.sorted]
    | cons d q =>
      obtain ⟨b, y⟩ := d
      simp only [Memory.sorted, Bool.and_eq_true, decide_eq_true_eq, ih, List.pairwise_cons]
      constructor
      · rintro ⟨h, hq, hr⟩
        refine ⟨?_, hq, hr⟩
        intro e he
        rcases List.mem_cons.1 he with rfl | he
        · exact h
        · exact Nat.lt_trans h (hq e he)
      · rintro ⟨h, hq, hr⟩
        exact ⟨h (b, y) (List.mem_cons_self ..), hq, hr⟩

theorem Memory.wf_iff (m : Memory) :
    m.wf = true ↔ (m.Pairwise fun c d => c.1 < d.1) ∧ ∀ c ∈ m, c.2 ≠ Memory.unlisted := by
  rw [Memory.wf_def, Memory.sorted_iff]
  simp [Memory.noDefault]

@[simp] theorem Memory.wf_nil : Memory.wf [] = true := rfl

theorem Memory.wf_sublist {m n : Memory} (h : m.Sublist n) (hn : n.wf = true) : m.wf = true := by
  rw [Memory.wf_iff] at *
  exact ⟨hn.1.sublist h, fun c hc => hn.2 c (h.subset hc)⟩

theorem Map.erase_sublist {α : Type} (m : Map α) (k : Nat) : (Map.erase m k).Sublist m := by
  induction m with
  | nil => exact .slnil
  | cons c r ih =>
    obtain ⟨j, v⟩ := c
    simp only [Map.erase]
    split
    · exact .cons _ ih
    · exact .cons_cons _ ih

theorem Memory.wf_erase {m : Memory} (a : Nat) (h : m.wf = true) : Memory.wf (Map.erase m a) = true :=
  Memory.wf_sublist (Map.erase_sublist m a) h

theorem Memory.wf_insert {m : Memory} (a : Nat) (b : Byte) (hb : b ≠ Memory.unlisted) (h : m.wf = true)
    (ha : ∀ c ∈ m, c.1 ≠ a) : Memory.wf (Map.insert m a b) = true := by
  rw [Memory.wf_iff] at *
  obtain ⟨hp, hu⟩ := h
  refine ⟨?_, fun c hc => ?_⟩
  · induction m with
    | nil => simp [Map.insert]
    | cons c r ih =>
      obtain ⟨j, w⟩ := c
      have hr := List.pairwise_cons.1 hp
      simp only [Map.insert]
      split
      · rename_i hlt
        refine List.pairwise_cons.2 ⟨fun d hd => ?_, hp⟩
        rcases List.mem_cons.1 hd with rfl | hd
        · exact hlt
        · exact Nat.lt_trans hlt (hr.1 d hd)
      · rename_i hge
        have hne := ha (j, w) (List.mem_cons_self ..)
        refine List.pairwise_cons.2 ⟨fun d hd => ?_, ih (fun c hc => ha c (List.mem_cons_of_mem _ hc)) hr.2
          (fun c hc => hu c (List.mem_cons_of_mem _ hc))⟩
        rcases Map.mem_insert hd with rfl | hd
        · simp at hge hne ⊢; omega
        · exact hr.1 d hd
  · rcases Map.mem_insert hc with rfl | hc
    · exact hb
    · exact hu c hc

/-- Writing one byte keeps the canonical form. -/
theorem Memory.wf_write {m : Memory} (a : Nat) (b : Byte) (h : m.wf = true) : (m.write a b).wf = true := by
  unfold Memory.write
  split
  · exact Memory.wf_erase a h
  · rename_i hb
    exact Memory.wf_insert a b hb (Memory.wf_erase a h) fun c hc => (Map.mem_erase hc).2

/-- Writing a list of bytes keeps the canonical form. -/
theorem Memory.wf_writeBytes {m : Memory} (a : Nat) (bs : List Byte) (h : m.wf = true) :
    (m.writeBytes a bs).wf = true := by
  induction bs generalizing m a with
  | nil => exact h
  | cons b r ih => exact ih (a + 1) (Memory.wf_write a b h)

/-- A window of a memory in canonical form is in it. -/
theorem Memory.wf_window {m : Memory} (a n : Nat) (h : m.wf = true) : (m.window a n).wf = true := by
  rw [Memory.wf_iff] at *
  constructor
  · unfold Memory.window
    rw [List.pairwise_map]
    refine ((h.1.filter _).and (List.pairwise_of_forall_mem_list (r := fun c d => a ≤ c.1 ∧ a ≤ d.1) ?_)).imp ?_
    · intro c hc d hd
      simp only [List.mem_filter, decide_eq_true_eq] at hc hd
      exact ⟨hc.2.1, hd.2.1⟩
    · intro c d hcd; dsimp only; omega
  · intro c hc
    simp only [Memory.window, List.mem_map, List.mem_filter] at hc
    obtain ⟨d, hd, rfl⟩ := hc
    exact h.2 d hd.1

/-- Replacing a window by cells in canonical form keeps the form. -/
theorem Memory.wf_splice {m w : Memory} (a n : Nat) (h : m.wf = true) (hw : w.wf = true) :
    (m.splice a n w).wf = true := by
  rw [Memory.wf_iff] at *
  constructor
  · unfold Memory.splice
    rw [List.pairwise_append, List.pairwise_append, List.pairwise_map]
    refine ⟨⟨h.1.filter _, (hw.1.filter _).imp ?_, ?_⟩, h.1.filter _, ?_⟩
    · intro c d hcd; dsimp only; omega
    · intro c hc d hd
      simp only [List.mem_filter, decide_eq_true_eq, List.mem_map] at hc hd
      obtain ⟨e, _, rfl⟩ := hd
      dsimp only; omega
    · intro c hc d hd
      simp only [List.mem_filter, decide_eq_true_eq, List.mem_append, List.mem_map] at hc hd
      rcases hc with hc | ⟨e, he, rfl⟩
      · omega
      · dsimp only; omega
  · intro c hc
    simp only [Memory.splice, List.mem_append, List.mem_filter, List.mem_map] at hc
    rcases hc with (hc | ⟨e, he, rfl⟩) | hc
    · exact h.2 c hc.1
    · exact hw.2 e he.1
    · exact h.2 c hc.1

/-! ## Reading after writing -/

/-- The byte just written reads back. -/
@[simp] theorem Memory.read_write_same (m : Memory) (a : Nat) (b : Byte) : (m.write a b).read a = b := by
  unfold Memory.write Memory.read
  split
  · rename_i h; simp [h]
  · simp

/-- Every other byte reads as before. -/
theorem Memory.read_write_other (m : Memory) {a c : Nat} (b : Byte) (h : c ≠ a) : (m.write a b).read c = m.read c := by
  unfold Memory.write Memory.read
  split
  · exact Map.find_erase_other _ m h
  · exact Map.find_set_other _ m b h

/-- A byte outside the bytes written reads as before. -/
theorem Memory.read_writeBytes_other (m : Memory) (a c : Nat) (bs : List Byte) (h : c < a ∨ a + bs.length ≤ c) :
    (m.writeBytes a bs).read c = m.read c := by
  induction bs generalizing m a with
  | nil => rfl
  | cons b r ih =>
    simp only [List.length_cons] at h
    rw [Memory.writeBytes, ih _ _ (by omega), Memory.read_write_other m b (by omega)]

/-- Byte i of the bytes written reads back. -/
theorem Memory.read_writeBytes (m : Memory) (a i : Nat) (bs : List Byte) (h : i < bs.length) :
    (m.writeBytes a bs).read (a + i) = bs[i] := by
  induction bs generalizing m a i with
  | nil => simp at h
  | cons b r ih =>
    cases i with
    | zero => rw [Memory.writeBytes, Memory.read_writeBytes_other _ _ _ _ (by omega)]; simp
    | succ i =>
      have := ih (m.write a b) (a + 1) i (by simpa using h)
      rw [Memory.writeBytes, show a + (i + 1) = a + 1 + i by omega, this]
      rfl

@[simp] theorem Memory.length_readBytes (m : Memory) (a n : Nat) : (m.readBytes a n).length = n := by
  induction n generalizing a with
  | zero => rfl
  | succ n ih => simp [Memory.readBytes, ih]

theorem Memory.readBytes_congr {m k : Memory} (a n : Nat) (h : ∀ i, i < n → m.read (a + i) = k.read (a + i)) :
    m.readBytes a n = k.readBytes a n := by
  induction n generalizing a with
  | zero => rfl
  | succ n ih =>
    have h0 := h 0 (by omega)
    simp only [Memory.readBytes]
    rw [show m.read a = k.read a by simpa using h0, ih (a + 1) fun i hi => by
      have := h (i + 1) (by omega)
      rwa [show a + (i + 1) = a + 1 + i by omega] at this]

/-- The bytes written read back. -/
@[simp] theorem Memory.readBytes_writeBytes_same (m : Memory) (a : Nat) (bs : List Byte) :
    (m.writeBytes a bs).readBytes a bs.length = bs := by
  induction bs generalizing m a with
  | nil => rfl
  | cons b r ih =>
    simp only [List.length_cons, Memory.readBytes, Memory.writeBytes]
    rw [Memory.read_writeBytes_other _ _ _ _ (by omega), Memory.read_write_same, ih]

/-- Bytes apart from those written read as before. -/
theorem Memory.readBytes_writeBytes_other (m : Memory) (a b n : Nat) (bs : List Byte)
    (h : b + n ≤ a ∨ a + bs.length ≤ b) : (m.writeBytes a bs).readBytes b n = m.readBytes b n :=
  Memory.readBytes_congr b n fun i hi => Memory.read_writeBytes_other m a (b + i) bs (by omega)

/-! ## Byte order -/

@[simp] theorem length_leBytes (v n : Nat) : (leBytes v n).length = n := by
  induction n generalizing v with
  | zero => rfl
  | succ n ih => simp [leBytes, ih]

/-- The bytes of a value, put together again, are the value below 2^(8n) (R10). -/
theorem leNat_leBytes (v n : Nat) : leNat (leBytes v n) = v % 256 ^ n := by
  induction n generalizing v with
  | zero => simp [leBytes, leNat, Nat.mod_one]
  | succ n ih =>
    simp only [leBytes, leNat, ih, BitVec.toNat_ofNat]
    rw [show (2 : Nat) ^ 8 = 256 from rfl, Nat.pow_succ, Nat.mul_comm (256 ^ n) 256, Nat.mod_mul]

end Sys2Proof.Machine
end

