-- ==== Sys2Proof/Laws/State.lean ====
section
/-! SUPPORT. What each update of the state leaves in each field, and a tile or strand read after it was set. -/
namespace Sys2Proof.Machine

/-! ## Fields of the device after an update -/
@[simp] theorem State.setTile_time (s : State) (t : Nat) (x : Tile) : (s.setTile t x).time = s.time := rfl
@[simp] theorem State.setTile_hbm (s : State) (t : Nat) (x : Tile) : (s.setTile t x).hbm = s.hbm := rfl
@[simp] theorem State.setTile_hostMem (s : State) (t : Nat) (x : Tile) : (s.setTile t x).hostMem = s.hostMem := rfl
@[simp] theorem State.setTile_far (s : State) (t : Nat) (x : Tile) : (s.setTile t x).far = s.far := rfl
@[simp] theorem State.setTile_hbmBad (s : State) (t : Nat) (x : Tile) : (s.setTile t x).hbmBad = s.hbmBad := rfl
@[simp] theorem State.setTile_hbmWeak (s : State) (t : Nat) (x : Tile) : (s.setTile t x).hbmWeak = s.hbmWeak := rfl
@[simp] theorem State.setTile_l2Bad (s : State) (t : Nat) (x : Tile) : (s.setTile t x).l2Bad = s.l2Bad := rfl
@[simp] theorem State.setTile_l2Weak (s : State) (t : Nat) (x : Tile) : (s.setTile t x).l2Weak = s.l2Weak := rfl
@[simp] theorem State.setTile_l2 (s : State) (t : Nat) (x : Tile) : (s.setTile t x).l2 = s.l2 := rfl
@[simp] theorem State.setTile_hadBad (s : State) (t : Nat) (x : Tile) : (s.setTile t x).hadBad = s.hadBad := rfl
@[simp] theorem State.setTile_recurs (s : State) (t : Nat) (x : Tile) : (s.setTile t x).recurs = s.recurs := rfl
@[simp] theorem State.setTile_weakRun (s : State) (t : Nat) (x : Tile) : (s.setTile t x).weakRun = s.weakRun := rfl
@[simp] theorem State.setTile_flight (s : State) (t : Nat) (x : Tile) : (s.setTile t x).flight = s.flight := rfl
@[simp] theorem State.setTile_xcache (s : State) (t : Nat) (x : Tile) : (s.setTile t x).xcache = s.xcache := rfl
@[simp] theorem State.setTile_walks (s : State) (t : Nat) (x : Tile) : (s.setTile t x).walks = s.walks := rfl
@[simp] theorem State.setTile_answers (s : State) (t : Nat) (x : Tile) : (s.setTile t x).answers = s.answers := rfl
@[simp] theorem State.setTile_farReqs (s : State) (t : Nat) (x : Tile) : (s.setTile t x).farReqs = s.farReqs := rfl
@[simp] theorem State.setTile_xlbase (s : State) (t : Nat) (x : Tile) : (s.setTile t x).xlbase = s.xlbase := rfl
@[simp] theorem State.setTile_xlinv (s : State) (t : Nat) (x : Tile) : (s.setTile t x).xlinv = s.xlinv := rfl
@[simp] theorem State.setTile_xlinva (s : State) (t : Nat) (x : Tile) : (s.setTile t x).xlinva = s.xlinva := rfl
@[simp] theorem State.setTile_psbase (s : State) (t : Nat) (x : Tile) : (s.setTile t x).psbase = s.psbase := rfl
@[simp] theorem State.setTile_qtbase (s : State) (t : Nat) (x : Tile) : (s.setTile t x).qtbase = s.qtbase := rfl
@[simp] theorem State.setTile_irqv (s : State) (t : Nat) (x : Tile) : (s.setTile t x).irqv = s.irqv := rfl
@[simp] theorem State.setTile_ltol (s : State) (t : Nat) (x : Tile) : (s.setTile t x).ltol = s.ltol := rfl
@[simp] theorem State.setTile_pwrst (s : State) (t : Nat) (x : Tile) : (s.setTile t x).pwrst = s.pwrst := rfl
@[simp] theorem State.setTile_idleSince (s : State) (t : Nat) (x : Tile) : (s.setTile t x).idleSince = s.idleSince := rfl
@[simp] theorem State.setTile_scrub (s : State) (t : Nat) (x : Tile) : (s.setTile t x).scrub = s.scrub := rfl
@[simp] theorem State.setTile_suap (s : State) (t : Nat) (x : Tile) : (s.setTile t x).suap = s.suap := rfl
@[simp] theorem State.setTile_bootst (s : State) (t : Nat) (x : Tile) : (s.setTile t x).bootst = s.bootst := rfl
@[simp] theorem State.setTile_flash (s : State) (t : Nat) (x : Tile) : (s.setTile t x).flash = s.flash := rfl
@[simp] theorem State.setTile_rollback (s : State) (t : Nat) (x : Tile) : (s.setTile t x).rollback = s.rollback := rfl
@[simp] theorem State.setTile_windows (s : State) (t : Nat) (x : Tile) : (s.setTile t x).windows = s.windows := rfl
@[simp] theorem State.setTile_hostOut (s : State) (t : Nat) (x : Tile) : (s.setTile t x).hostOut = s.hostOut := rfl
@[simp] theorem State.setTile_queues (s : State) (t : Nat) (x : Tile) : (s.setTile t x).queues = s.queues := rfl
@[simp] theorem State.setTile_objects (s : State) (t : Nat) (x : Tile) : (s.setTile t x).objects = s.objects := rfl
@[simp] theorem State.setTile_launches (s : State) (t : Nat) (x : Tile) : (s.setTile t x).launches = s.launches := rfl
@[simp] theorem State.setTile_arb (s : State) (t : Nat) (x : Tile) : (s.setTile t x).arb = s.arb := rfl
@[simp] theorem State.setTile_parts (s : State) (t : Nat) (x : Tile) : (s.setTile t x).parts = s.parts := rfl
@[simp] theorem State.setTile_stipes (s : State) (t : Nat) (x : Tile) : (s.setTile t x).stipes = s.stipes := rfl
@[simp] theorem State.setTile_spares (s : State) (t : Nat) (x : Tile) : (s.setTile t x).spares = s.spares := rfl
@[simp] theorem State.setTile_outSori (s : State) (t : Nat) (x : Tile) : (s.setTile t x).outSori = s.outSori := rfl
@[simp] theorem State.setTile_dieClk (s : State) (t : Nat) (x : Tile) : (s.setTile t x).dieClk = s.dieClk := rfl
@[simp] theorem State.setTile_dieNext (s : State) (t : Nat) (x : Tile) : (s.setTile t x).dieNext = s.dieNext := rfl
@[simp] theorem State.setTile_dieShare (s : State) (t : Nat) (x : Tile) : (s.setTile t x).dieShare = s.dieShare := rfl
@[simp] theorem State.setTile_htemp (s : State) (t : Nat) (x : Tile) : (s.setTile t x).htemp = s.htemp := rfl
@[simp] theorem State.setTile_tempNext (s : State) (t : Nat) (x : Tile) : (s.setTile t x).tempNext = s.tempNext := rfl
@[simp] theorem State.setTile_hbmCh (s : State) (t : Nat) (x : Tile) : (s.setTile t x).hbmCh = s.hbmCh := rfl
@[simp] theorem State.setTile_trainNext (s : State) (t : Nat) (x : Tile) : (s.setTile t x).trainNext = s.trainNext := rfl
@[simp] theorem State.setTile_logs (s : State) (t : Nat) (x : Tile) : (s.setTile t x).logs = s.logs := rfl
@[simp] theorem State.setTile_linksDown (s : State) (t : Nat) (x : Tile) : (s.setTile t x).linksDown = s.linksDown := rfl
@[simp] theorem State.setTile_oracle (s : State) (t : Nat) (x : Tile) : (s.setTile t x).oracle = s.oracle := rfl
@[simp] theorem State.setTile_turn (s : State) (t : Nat) (x : Tile) : (s.setTile t x).turn = s.turn := rfl
@[simp] theorem State.setTile_inputs (s : State) (t : Nat) (x : Tile) : (s.setTile t x).inputs = s.inputs := rfl
@[simp] theorem State.setTile_cur (s : State) (t : Nat) (x : Tile) : (s.setTile t x).cur = s.cur := rfl
@[simp] theorem State.setTile_nextId (s : State) (t : Nat) (x : Tile) : (s.setTile t x).nextId = s.nextId := rfl
@[simp] theorem State.setStrand_time (s : State) (t k : Nat) (st : Strand) : (s.setStrand t k st).time = s.time := rfl
@[simp] theorem State.setStrand_hbm (s : State) (t k : Nat) (st : Strand) : (s.setStrand t k st).hbm = s.hbm := rfl
@[simp] theorem State.setStrand_hostMem (s : State) (t k : Nat) (st : Strand) : (s.setStrand t k st).hostMem = s.hostMem := rfl
@[simp] theorem State.setStrand_far (s : State) (t k : Nat) (st : Strand) : (s.setStrand t k st).far = s.far := rfl
@[simp] theorem State.setStrand_hbmBad (s : State) (t k : Nat) (st : Strand) : (s.setStrand t k st).hbmBad = s.hbmBad := rfl
@[simp] theorem State.setStrand_hbmWeak (s : State) (t k : Nat) (st : Strand) : (s.setStrand t k st).hbmWeak = s.hbmWeak := rfl
@[simp] theorem State.setStrand_l2Bad (s : State) (t k : Nat) (st : Strand) : (s.setStrand t k st).l2Bad = s.l2Bad := rfl
@[simp] theorem State.setStrand_l2Weak (s : State) (t k : Nat) (st : Strand) : (s.setStrand t k st).l2Weak = s.l2Weak := rfl
@[simp] theorem State.setStrand_l2 (s : State) (t k : Nat) (st : Strand) : (s.setStrand t k st).l2 = s.l2 := rfl
@[simp] theorem State.setStrand_hadBad (s : State) (t k : Nat) (st : Strand) : (s.setStrand t k st).hadBad = s.hadBad := rfl
@[simp] theorem State.setStrand_recurs (s : State) (t k : Nat) (st : Strand) : (s.setStrand t k st).recurs = s.recurs := rfl
@[simp] theorem State.setStrand_weakRun (s : State) (t k : Nat) (st : Strand) : (s.setStrand t k st).weakRun = s.weakRun := rfl
@[simp] theorem State.setStrand_flight (s : State) (t k : Nat) (st : Strand) : (s.setStrand t k st).flight = s.flight := rfl
@[simp] theorem State.setStrand_xcache (s : State) (t k : Nat) (st : Strand) : (s.setStrand t k st).xcache = s.xcache := rfl
@[simp] theorem State.setStrand_walks (s : State) (t k : Nat) (st : Strand) : (s.setStrand t k st).walks = s.walks := rfl
@[simp] theorem State.setStrand_answers (s : State) (t k : Nat) (st : Strand) : (s.setStrand t k st).answers = s.answers := rfl
@[simp] theorem State.setStrand_farReqs (s : State) (t k : Nat) (st : Strand) : (s.setStrand t k st).farReqs = s.farReqs := rfl
@[simp] theorem State.setStrand_xlbase (s : State) (t k : Nat) (st : Strand) : (s.setStrand t k st).xlbase = s.xlbase := rfl
@[simp] theorem State.setStrand_xlinv (s : State) (t k : Nat) (st : Strand) : (s.setStrand t k st).xlinv = s.xlinv := rfl
@[simp] theorem State.setStrand_xlinva (s : State) (t k : Nat) (st : Strand) : (s.setStrand t k st).xlinva = s.xlinva := rfl
@[simp] theorem State.setStrand_psbase (s : State) (t k : Nat) (st : Strand) : (s.setStrand t k st).psbase = s.psbase := rfl
@[simp] theorem State.setStrand_qtbase (s : State) (t k : Nat) (st : Strand) : (s.setStrand t k st).qtbase = s.qtbase := rfl
@[simp] theorem State.setStrand_irqv (s : State) (t k : Nat) (st : Strand) : (s.setStrand t k st).irqv = s.irqv := rfl
@[simp] theorem State.setStrand_ltol (s : State) (t k : Nat) (st : Strand) : (s.setStrand t k st).ltol = s.ltol := rfl
@[simp] theorem State.setStrand_pwrst (s : State) (t k : Nat) (st : Strand) : (s.setStrand t k st).pwrst = s.pwrst := rfl
@[simp] theorem State.setStrand_idleSince (s : State) (t k : Nat) (st : Strand) : (s.setStrand t k st).idleSince = s.idleSince := rfl
@[simp] theorem State.setStrand_scrub (s : State) (t k : Nat) (st : Strand) : (s.setStrand t k st).scrub = s.scrub := rfl
@[simp] theorem State.setStrand_suap (s : State) (t k : Nat) (st : Strand) : (s.setStrand t k st).suap = s.suap := rfl
@[simp] theorem State.setStrand_bootst (s : State) (t k : Nat) (st : Strand) : (s.setStrand t k st).bootst = s.bootst := rfl
@[simp] theorem State.setStrand_flash (s : State) (t k : Nat) (st : Strand) : (s.setStrand t k st).flash = s.flash := rfl
@[simp] theorem State.setStrand_rollback (s : State) (t k : Nat) (st : Strand) : (s.setStrand t k st).rollback = s.rollback := rfl
@[simp] theorem State.setStrand_windows (s : State) (t k : Nat) (st : Strand) : (s.setStrand t k st).windows = s.windows := rfl
@[simp] theorem State.setStrand_hostOut (s : State) (t k : Nat) (st : Strand) : (s.setStrand t k st).hostOut = s.hostOut := rfl
@[simp] theorem State.setStrand_queues (s : State) (t k : Nat) (st : Strand) : (s.setStrand t k st).queues = s.queues := rfl
@[simp] theorem State.setStrand_objects (s : State) (t k : Nat) (st : Strand) : (s.setStrand t k st).objects = s.objects := rfl
@[simp] theorem State.setStrand_launches (s : State) (t k : Nat) (st : Strand) : (s.setStrand t k st).launches = s.launches := rfl
@[simp] theorem State.setStrand_arb (s : State) (t k : Nat) (st : Strand) : (s.setStrand t k st).arb = s.arb := rfl
@[simp] theorem State.setStrand_parts (s : State) (t k : Nat) (st : Strand) : (s.setStrand t k st).parts = s.parts := rfl
@[simp] theorem State.setStrand_stipes (s : State) (t k : Nat) (st : Strand) : (s.setStrand t k st).stipes = s.stipes := rfl
@[simp] theorem State.setStrand_spares (s : State) (t k : Nat) (st : Strand) : (s.setStrand t k st).spares = s.spares := rfl
@[simp] theorem State.setStrand_outSori (s : State) (t k : Nat) (st : Strand) : (s.setStrand t k st).outSori = s.outSori := rfl
@[simp] theorem State.setStrand_dieClk (s : State) (t k : Nat) (st : Strand) : (s.setStrand t k st).dieClk = s.dieClk := rfl
@[simp] theorem State.setStrand_dieNext (s : State) (t k : Nat) (st : Strand) : (s.setStrand t k st).dieNext = s.dieNext := rfl
@[simp] theorem State.setStrand_dieShare (s : State) (t k : Nat) (st : Strand) : (s.setStrand t k st).dieShare = s.dieShare := rfl
@[simp] theorem State.setStrand_htemp (s : State) (t k : Nat) (st : Strand) : (s.setStrand t k st).htemp = s.htemp := rfl
@[simp] theorem State.setStrand_tempNext (s : State) (t k : Nat) (st : Strand) : (s.setStrand t k st).tempNext = s.tempNext := rfl
@[simp] theorem State.setStrand_hbmCh (s : State) (t k : Nat) (st : Strand) : (s.setStrand t k st).hbmCh = s.hbmCh := rfl
@[simp] theorem State.setStrand_trainNext (s : State) (t k : Nat) (st : Strand) : (s.setStrand t k st).trainNext = s.trainNext := rfl
@[simp] theorem State.setStrand_logs (s : State) (t k : Nat) (st : Strand) : (s.setStrand t k st).logs = s.logs := rfl
@[simp] theorem State.setStrand_linksDown (s : State) (t k : Nat) (st : Strand) : (s.setStrand t k st).linksDown = s.linksDown := rfl
@[simp] theorem State.setStrand_oracle (s : State) (t k : Nat) (st : Strand) : (s.setStrand t k st).oracle = s.oracle := rfl
@[simp] theorem State.setStrand_turn (s : State) (t k : Nat) (st : Strand) : (s.setStrand t k st).turn = s.turn := rfl
@[simp] theorem State.setStrand_inputs (s : State) (t k : Nat) (st : Strand) : (s.setStrand t k st).inputs = s.inputs := rfl
@[simp] theorem State.setStrand_cur (s : State) (t k : Nat) (st : Strand) : (s.setStrand t k st).cur = s.cur := rfl
@[simp] theorem State.setStrand_nextId (s : State) (t k : Nat) (st : Strand) : (s.setStrand t k st).nextId = s.nextId := rfl
@[simp] theorem State.setHere_time (s : State) (x : Tile) : (s.setHere x).time = s.time := rfl
@[simp] theorem State.setHere_hbm (s : State) (x : Tile) : (s.setHere x).hbm = s.hbm := rfl
@[simp] theorem State.setHere_hostMem (s : State) (x : Tile) : (s.setHere x).hostMem = s.hostMem := rfl
@[simp] theorem State.setHere_far (s : State) (x : Tile) : (s.setHere x).far = s.far := rfl
@[simp] theorem State.setHere_hbmBad (s : State) (x : Tile) : (s.setHere x).hbmBad = s.hbmBad := rfl
@[simp] theorem State.setHere_hbmWeak (s : State) (x : Tile) : (s.setHere x).hbmWeak = s.hbmWeak := rfl
@[simp] theorem State.setHere_l2Bad (s : State) (x : Tile) : (s.setHere x).l2Bad = s.l2Bad := rfl
@[simp] theorem State.setHere_l2Weak (s : State) (x : Tile) : (s.setHere x).l2Weak = s.l2Weak := rfl
@[simp] theorem State.setHere_l2 (s : State) (x : Tile) : (s.setHere x).l2 = s.l2 := rfl
@[simp] theorem State.setHere_hadBad (s : State) (x : Tile) : (s.setHere x).hadBad = s.hadBad := rfl
@[simp] theorem State.setHere_recurs (s : State) (x : Tile) : (s.setHere x).recurs = s.recurs := rfl
@[simp] theorem State.setHere_weakRun (s : State) (x : Tile) : (s.setHere x).weakRun = s.weakRun := rfl
@[simp] theorem State.setHere_flight (s : State) (x : Tile) : (s.setHere x).flight = s.flight := rfl
@[simp] theorem State.setHere_xcache (s : State) (x : Tile) : (s.setHere x).xcache = s.xcache := rfl
@[simp] theorem State.setHere_walks (s : State) (x : Tile) : (s.setHere x).walks = s.walks := rfl
@[simp] theorem State.setHere_answers (s : State) (x : Tile) : (s.setHere x).answers = s.answers := rfl
@[simp] theorem State.setHere_farReqs (s : State) (x : Tile) : (s.setHere x).farReqs = s.farReqs := rfl
@[simp] theorem State.setHere_xlbase (s : State) (x : Tile) : (s.setHere x).xlbase = s.xlbase := rfl
@[simp] theorem State.setHere_xlinv (s : State) (x : Tile) : (s.setHere x).xlinv = s.xlinv := rfl
@[simp] theorem State.setHere_xlinva (s : State) (x : Tile) : (s.setHere x).xlinva = s.xlinva := rfl
@[simp] theorem State.setHere_psbase (s : State) (x : Tile) : (s.setHere x).psbase = s.psbase := rfl
@[simp] theorem State.setHere_qtbase (s : State) (x : Tile) : (s.setHere x).qtbase = s.qtbase := rfl
@[simp] theorem State.setHere_irqv (s : State) (x : Tile) : (s.setHere x).irqv = s.irqv := rfl
@[simp] theorem State.setHere_ltol (s : State) (x : Tile) : (s.setHere x).ltol = s.ltol := rfl
@[simp] theorem State.setHere_pwrst (s : State) (x : Tile) : (s.setHere x).pwrst = s.pwrst := rfl
@[simp] theorem State.setHere_idleSince (s : State) (x : Tile) : (s.setHere x).idleSince = s.idleSince := rfl
@[simp] theorem State.setHere_scrub (s : State) (x : Tile) : (s.setHere x).scrub = s.scrub := rfl
@[simp] theorem State.setHere_suap (s : State) (x : Tile) : (s.setHere x).suap = s.suap := rfl
@[simp] theorem State.setHere_bootst (s : State) (x : Tile) : (s.setHere x).bootst = s.bootst := rfl
@[simp] theorem State.setHere_flash (s : State) (x : Tile) : (s.setHere x).flash = s.flash := rfl
@[simp] theorem State.setHere_rollback (s : State) (x : Tile) : (s.setHere x).rollback = s.rollback := rfl
@[simp] theorem State.setHere_windows (s : State) (x : Tile) : (s.setHere x).windows = s.windows := rfl
@[simp] theorem State.setHere_hostOut (s : State) (x : Tile) : (s.setHere x).hostOut = s.hostOut := rfl
@[simp] theorem State.setHere_queues (s : State) (x : Tile) : (s.setHere x).queues = s.queues := rfl
@[simp] theorem State.setHere_objects (s : State) (x : Tile) : (s.setHere x).objects = s.objects := rfl
@[simp] theorem State.setHere_launches (s : State) (x : Tile) : (s.setHere x).launches = s.launches := rfl
@[simp] theorem State.setHere_arb (s : State) (x : Tile) : (s.setHere x).arb = s.arb := rfl
@[simp] theorem State.setHere_parts (s : State) (x : Tile) : (s.setHere x).parts = s.parts := rfl
@[simp] theorem State.setHere_stipes (s : State) (x : Tile) : (s.setHere x).stipes = s.stipes := rfl
@[simp] theorem State.setHere_spares (s : State) (x : Tile) : (s.setHere x).spares = s.spares := rfl
@[simp] theorem State.setHere_outSori (s : State) (x : Tile) : (s.setHere x).outSori = s.outSori := rfl
@[simp] theorem State.setHere_dieClk (s : State) (x : Tile) : (s.setHere x).dieClk = s.dieClk := rfl
@[simp] theorem State.setHere_dieNext (s : State) (x : Tile) : (s.setHere x).dieNext = s.dieNext := rfl
@[simp] theorem State.setHere_dieShare (s : State) (x : Tile) : (s.setHere x).dieShare = s.dieShare := rfl
@[simp] theorem State.setHere_htemp (s : State) (x : Tile) : (s.setHere x).htemp = s.htemp := rfl
@[simp] theorem State.setHere_tempNext (s : State) (x : Tile) : (s.setHere x).tempNext = s.tempNext := rfl
@[simp] theorem State.setHere_hbmCh (s : State) (x : Tile) : (s.setHere x).hbmCh = s.hbmCh := rfl
@[simp] theorem State.setHere_trainNext (s : State) (x : Tile) : (s.setHere x).trainNext = s.trainNext := rfl
@[simp] theorem State.setHere_logs (s : State) (x : Tile) : (s.setHere x).logs = s.logs := rfl
@[simp] theorem State.setHere_linksDown (s : State) (x : Tile) : (s.setHere x).linksDown = s.linksDown := rfl
@[simp] theorem State.setHere_oracle (s : State) (x : Tile) : (s.setHere x).oracle = s.oracle := rfl
@[simp] theorem State.setHere_turn (s : State) (x : Tile) : (s.setHere x).turn = s.turn := rfl
@[simp] theorem State.setHere_inputs (s : State) (x : Tile) : (s.setHere x).inputs = s.inputs := rfl
@[simp] theorem State.setHere_cur (s : State) (x : Tile) : (s.setHere x).cur = s.cur := rfl
@[simp] theorem State.setHere_nextId (s : State) (x : Tile) : (s.setHere x).nextId = s.nextId := rfl
@[simp] theorem State.setMe_time (s : State) (st : Strand) : (s.setMe st).time = s.time := rfl
@[simp] theorem State.setMe_hbm (s : State) (st : Strand) : (s.setMe st).hbm = s.hbm := rfl
@[simp] theorem State.setMe_hostMem (s : State) (st : Strand) : (s.setMe st).hostMem = s.hostMem := rfl
@[simp] theorem State.setMe_far (s : State) (st : Strand) : (s.setMe st).far = s.far := rfl
@[simp] theorem State.setMe_hbmBad (s : State) (st : Strand) : (s.setMe st).hbmBad = s.hbmBad := rfl
@[simp] theorem State.setMe_hbmWeak (s : State) (st : Strand) : (s.setMe st).hbmWeak = s.hbmWeak := rfl
@[simp] theorem State.setMe_l2Bad (s : State) (st : Strand) : (s.setMe st).l2Bad = s.l2Bad := rfl
@[simp] theorem State.setMe_l2Weak (s : State) (st : Strand) : (s.setMe st).l2Weak = s.l2Weak := rfl
@[simp] theorem State.setMe_l2 (s : State) (st : Strand) : (s.setMe st).l2 = s.l2 := rfl
@[simp] theorem State.setMe_hadBad (s : State) (st : Strand) : (s.setMe st).hadBad = s.hadBad := rfl
@[simp] theorem State.setMe_recurs (s : State) (st : Strand) : (s.setMe st).recurs = s.recurs := rfl
@[simp] theorem State.setMe_weakRun (s : State) (st : Strand) : (s.setMe st).weakRun = s.weakRun := rfl
@[simp] theorem State.setMe_flight (s : State) (st : Strand) : (s.setMe st).flight = s.flight := rfl
@[simp] theorem State.setMe_xcache (s : State) (st : Strand) : (s.setMe st).xcache = s.xcache := rfl
@[simp] theorem State.setMe_walks (s : State) (st : Strand) : (s.setMe st).walks = s.walks := rfl
@[simp] theorem State.setMe_answers (s : State) (st : Strand) : (s.setMe st).answers = s.answers := rfl
@[simp] theorem State.setMe_farReqs (s : State) (st : Strand) : (s.setMe st).farReqs = s.farReqs := rfl
@[simp] theorem State.setMe_xlbase (s : State) (st : Strand) : (s.setMe st).xlbase = s.xlbase := rfl
@[simp] theorem State.setMe_xlinv (s : State) (st : Strand) : (s.setMe st).xlinv = s.xlinv := rfl
@[simp] theorem State.setMe_xlinva (s : State) (st : Strand) : (s.setMe st).xlinva = s.xlinva := rfl
@[simp] theorem State.setMe_psbase (s : State) (st : Strand) : (s.setMe st).psbase = s.psbase := rfl
@[simp] theorem State.setMe_qtbase (s : State) (st : Strand) : (s.setMe st).qtbase = s.qtbase := rfl
@[simp] theorem State.setMe_irqv (s : State) (st : Strand) : (s.setMe st).irqv = s.irqv := rfl
@[simp] theorem State.setMe_ltol (s : State) (st : Strand) : (s.setMe st).ltol = s.ltol := rfl
@[simp] theorem State.setMe_pwrst (s : State) (st : Strand) : (s.setMe st).pwrst = s.pwrst := rfl
@[simp] theorem State.setMe_idleSince (s : State) (st : Strand) : (s.setMe st).idleSince = s.idleSince := rfl
@[simp] theorem State.setMe_scrub (s : State) (st : Strand) : (s.setMe st).scrub = s.scrub := rfl
@[simp] theorem State.setMe_suap (s : State) (st : Strand) : (s.setMe st).suap = s.suap := rfl
@[simp] theorem State.setMe_bootst (s : State) (st : Strand) : (s.setMe st).bootst = s.bootst := rfl
@[simp] theorem State.setMe_flash (s : State) (st : Strand) : (s.setMe st).flash = s.flash := rfl
@[simp] theorem State.setMe_rollback (s : State) (st : Strand) : (s.setMe st).rollback = s.rollback := rfl
@[simp] theorem State.setMe_windows (s : State) (st : Strand) : (s.setMe st).windows = s.windows := rfl
@[simp] theorem State.setMe_hostOut (s : State) (st : Strand) : (s.setMe st).hostOut = s.hostOut := rfl
@[simp] theorem State.setMe_queues (s : State) (st : Strand) : (s.setMe st).queues = s.queues := rfl
@[simp] theorem State.setMe_objects (s : State) (st : Strand) : (s.setMe st).objects = s.objects := rfl
@[simp] theorem State.setMe_launches (s : State) (st : Strand) : (s.setMe st).launches = s.launches := rfl
@[simp] theorem State.setMe_arb (s : State) (st : Strand) : (s.setMe st).arb = s.arb := rfl
@[simp] theorem State.setMe_parts (s : State) (st : Strand) : (s.setMe st).parts = s.parts := rfl
@[simp] theorem State.setMe_stipes (s : State) (st : Strand) : (s.setMe st).stipes = s.stipes := rfl
@[simp] theorem State.setMe_spares (s : State) (st : Strand) : (s.setMe st).spares = s.spares := rfl
@[simp] theorem State.setMe_outSori (s : State) (st : Strand) : (s.setMe st).outSori = s.outSori := rfl
@[simp] theorem State.setMe_dieClk (s : State) (st : Strand) : (s.setMe st).dieClk = s.dieClk := rfl
@[simp] theorem State.setMe_dieNext (s : State) (st : Strand) : (s.setMe st).dieNext = s.dieNext := rfl
@[simp] theorem State.setMe_dieShare (s : State) (st : Strand) : (s.setMe st).dieShare = s.dieShare := rfl
@[simp] theorem State.setMe_htemp (s : State) (st : Strand) : (s.setMe st).htemp = s.htemp := rfl
@[simp] theorem State.setMe_tempNext (s : State) (st : Strand) : (s.setMe st).tempNext = s.tempNext := rfl
@[simp] theorem State.setMe_hbmCh (s : State) (st : Strand) : (s.setMe st).hbmCh = s.hbmCh := rfl
@[simp] theorem State.setMe_trainNext (s : State) (st : Strand) : (s.setMe st).trainNext = s.trainNext := rfl
@[simp] theorem State.setMe_logs (s : State) (st : Strand) : (s.setMe st).logs = s.logs := rfl
@[simp] theorem State.setMe_linksDown (s : State) (st : Strand) : (s.setMe st).linksDown = s.linksDown := rfl
@[simp] theorem State.setMe_oracle (s : State) (st : Strand) : (s.setMe st).oracle = s.oracle := rfl
@[simp] theorem State.setMe_turn (s : State) (st : Strand) : (s.setMe st).turn = s.turn := rfl
@[simp] theorem State.setMe_inputs (s : State) (st : Strand) : (s.setMe st).inputs = s.inputs := rfl
@[simp] theorem State.setMe_cur (s : State) (st : Strand) : (s.setMe st).cur = s.cur := rfl
@[simp] theorem State.setMe_nextId (s : State) (st : Strand) : (s.setMe st).nextId = s.nextId := rfl
@[simp] theorem State.tick_time (s : State)  : (s.tick).time = s.time := rfl
@[simp] theorem State.tick_hbm (s : State)  : (s.tick).hbm = s.hbm := rfl
@[simp] theorem State.tick_hostMem (s : State)  : (s.tick).hostMem = s.hostMem := rfl
@[simp] theorem State.tick_far (s : State)  : (s.tick).far = s.far := rfl
@[simp] theorem State.tick_hbmBad (s : State)  : (s.tick).hbmBad = s.hbmBad := rfl
@[simp] theorem State.tick_hbmWeak (s : State)  : (s.tick).hbmWeak = s.hbmWeak := rfl
@[simp] theorem State.tick_l2Bad (s : State)  : (s.tick).l2Bad = s.l2Bad := rfl
@[simp] theorem State.tick_l2Weak (s : State)  : (s.tick).l2Weak = s.l2Weak := rfl
@[simp] theorem State.tick_l2 (s : State)  : (s.tick).l2 = s.l2 := rfl
@[simp] theorem State.tick_hadBad (s : State)  : (s.tick).hadBad = s.hadBad := rfl
@[simp] theorem State.tick_recurs (s : State)  : (s.tick).recurs = s.recurs := rfl
@[simp] theorem State.tick_weakRun (s : State)  : (s.tick).weakRun = s.weakRun := rfl
@[simp] theorem State.tick_tiles (s : State)  : (s.tick).tiles = s.tiles := rfl
@[simp] theorem State.tick_flight (s : State)  : (s.tick).flight = s.flight := rfl
@[simp] theorem State.tick_xcache (s : State)  : (s.tick).xcache = s.xcache := rfl
@[simp] theorem State.tick_walks (s : State)  : (s.tick).walks = s.walks := rfl
@[simp] theorem State.tick_answers (s : State)  : (s.tick).answers = s.answers := rfl
@[simp] theorem State.tick_farReqs (s : State)  : (s.tick).farReqs = s.farReqs := rfl
@[simp] theorem State.tick_xlbase (s : State)  : (s.tick).xlbase = s.xlbase := rfl
@[simp] theorem State.tick_xlinv (s : State)  : (s.tick).xlinv = s.xlinv := rfl
@[simp] theorem State.tick_xlinva (s : State)  : (s.tick).xlinva = s.xlinva := rfl
@[simp] theorem State.tick_psbase (s : State)  : (s.tick).psbase = s.psbase := rfl
@[simp] theorem State.tick_qtbase (s : State)  : (s.tick).qtbase = s.qtbase := rfl
@[simp] theorem State.tick_irqv (s : State)  : (s.tick).irqv = s.irqv := rfl
@[simp] theorem State.tick_ltol (s : State)  : (s.tick).ltol = s.ltol := rfl
@[simp] theorem State.tick_pwrst (s : State)  : (s.tick).pwrst = s.pwrst := rfl
@[simp] theorem State.tick_idleSince (s : State)  : (s.tick).idleSince = s.idleSince := rfl
@[simp] theorem State.tick_scrub (s : State)  : (s.tick).scrub = s.scrub := rfl
@[simp] theorem State.tick_suap (s : State)  : (s.tick).suap = s.suap := rfl
@[simp] theorem State.tick_bootst (s : State)  : (s.tick).bootst = s.bootst := rfl
@[simp] theorem State.tick_flash (s : State)  : (s.tick).flash = s.flash := rfl
@[simp] theorem State.tick_rollback (s : State)  : (s.tick).rollback = s.rollback := rfl
@[simp] theorem State.tick_windows (s : State)  : (s.tick).windows = s.windows := rfl
@[simp] theorem State.tick_hostOut (s : State)  : (s.tick).hostOut = s.hostOut := rfl
@[simp] theorem State.tick_queues (s : State)  : (s.tick).queues = s.queues := rfl
@[simp] theorem State.tick_objects (s : State)  : (s.tick).objects = s.objects := rfl
@[simp] theorem State.tick_launches (s : State)  : (s.tick).launches = s.launches := rfl
@[simp] theorem State.tick_arb (s : State)  : (s.tick).arb = s.arb := rfl
@[simp] theorem State.tick_parts (s : State)  : (s.tick).parts = s.parts := rfl
@[simp] theorem State.tick_stipes (s : State)  : (s.tick).stipes = s.stipes := rfl
@[simp] theorem State.tick_spares (s : State)  : (s.tick).spares = s.spares := rfl
@[simp] theorem State.tick_outSori (s : State)  : (s.tick).outSori = s.outSori := rfl
@[simp] theorem State.tick_dieClk (s : State)  : (s.tick).dieClk = s.dieClk := rfl
@[simp] theorem State.tick_dieNext (s : State)  : (s.tick).dieNext = s.dieNext := rfl
@[simp] theorem State.tick_dieShare (s : State)  : (s.tick).dieShare = s.dieShare := rfl
@[simp] theorem State.tick_htemp (s : State)  : (s.tick).htemp = s.htemp := rfl
@[simp] theorem State.tick_tempNext (s : State)  : (s.tick).tempNext = s.tempNext := rfl
@[simp] theorem State.tick_hbmCh (s : State)  : (s.tick).hbmCh = s.hbmCh := rfl
@[simp] theorem State.tick_trainNext (s : State)  : (s.tick).trainNext = s.trainNext := rfl
@[simp] theorem State.tick_logs (s : State)  : (s.tick).logs = s.logs := rfl
@[simp] theorem State.tick_linksDown (s : State)  : (s.tick).linksDown = s.linksDown := rfl
@[simp] theorem State.tick_turn (s : State)  : (s.tick).turn = s.turn := rfl
@[simp] theorem State.tick_inputs (s : State)  : (s.tick).inputs = s.inputs := rfl
@[simp] theorem State.tick_cur (s : State)  : (s.tick).cur = s.cur := rfl
@[simp] theorem State.tick_nextId (s : State)  : (s.tick).nextId = s.nextId := rfl
@[simp] theorem State.send_time (s : State) (src slot dst : Nat) (body : Payload) (after : List Nat) : (s.send src slot dst body after).time = s.time := rfl
@[simp] theorem State.send_hbm (s : State) (src slot dst : Nat) (body : Payload) (after : List Nat) : (s.send src slot dst body after).hbm = s.hbm := rfl
@[simp] theorem State.send_hostMem (s : State) (src slot dst : Nat) (body : Payload) (after : List Nat) : (s.send src slot dst body after).hostMem = s.hostMem := rfl
@[simp] theorem State.send_far (s : State) (src slot dst : Nat) (body : Payload) (after : List Nat) : (s.send src slot dst body after).far = s.far := rfl
@[simp] theorem State.send_hbmBad (s : State) (src slot dst : Nat) (body : Payload) (after : List Nat) : (s.send src slot dst body after).hbmBad = s.hbmBad := rfl
@[simp] theorem State.send_hbmWeak (s : State) (src slot dst : Nat) (body : Payload) (after : List Nat) : (s.send src slot dst body after).hbmWeak = s.hbmWeak := rfl
@[simp] theorem State.send_l2Bad (s : State) (src slot dst : Nat) (body : Payload) (after : List Nat) : (s.send src slot dst body after).l2Bad = s.l2Bad := rfl
@[simp] theorem State.send_l2Weak (s : State) (src slot dst : Nat) (body : Payload) (after : List Nat) : (s.send src slot dst body after).l2Weak = s.l2Weak := rfl
@[simp] theorem State.send_l2 (s : State) (src slot dst : Nat) (body : Payload) (after : List Nat) : (s.send src slot dst body after).l2 = s.l2 := rfl
@[simp] theorem State.send_hadBad (s : State) (src slot dst : Nat) (body : Payload) (after : List Nat) : (s.send src slot dst body after).hadBad = s.hadBad := rfl
@[simp] theorem State.send_recurs (s : State) (src slot dst : Nat) (body : Payload) (after : List Nat) : (s.send src slot dst body after).recurs = s.recurs := rfl
@[simp] theorem State.send_weakRun (s : State) (src slot dst : Nat) (body : Payload) (after : List Nat) : (s.send src slot dst body after).weakRun = s.weakRun := rfl
@[simp] theorem State.send_tiles (s : State) (src slot dst : Nat) (body : Payload) (after : List Nat) : (s.send src slot dst body after).tiles = s.tiles := rfl
@[simp] theorem State.send_xcache (s : State) (src slot dst : Nat) (body : Payload) (after : List Nat) : (s.send src slot dst body after).xcache = s.xcache := rfl
@[simp] theorem State.send_walks (s : State) (src slot dst : Nat) (body : Payload) (after : List Nat) : (s.send src slot dst body after).walks = s.walks := rfl
@[simp] theorem State.send_answers (s : State) (src slot dst : Nat) (body : Payload) (after : List Nat) : (s.send src slot dst body after).answers = s.answers := rfl
@[simp] theorem State.send_farReqs (s : State) (src slot dst : Nat) (body : Payload) (after : List Nat) : (s.send src slot dst body after).farReqs = s.farReqs := rfl
@[simp] theorem State.send_xlbase (s : State) (src slot dst : Nat) (body : Payload) (after : List Nat) : (s.send src slot dst body after).xlbase = s.xlbase := rfl
@[simp] theorem State.send_xlinv (s : State) (src slot dst : Nat) (body : Payload) (after : List Nat) : (s.send src slot dst body after).xlinv = s.xlinv := rfl
@[simp] theorem State.send_xlinva (s : State) (src slot dst : Nat) (body : Payload) (after : List Nat) : (s.send src slot dst body after).xlinva = s.xlinva := rfl
@[simp] theorem State.send_psbase (s : State) (src slot dst : Nat) (body : Payload) (after : List Nat) : (s.send src slot dst body after).psbase = s.psbase := rfl
@[simp] theorem State.send_qtbase (s : State) (src slot dst : Nat) (body : Payload) (after : List Nat) : (s.send src slot dst body after).qtbase = s.qtbase := rfl
@[simp] theorem State.send_irqv (s : State) (src slot dst : Nat) (body : Payload) (after : List Nat) : (s.send src slot dst body after).irqv = s.irqv := rfl
@[simp] theorem State.send_ltol (s : State) (src slot dst : Nat) (body : Payload) (after : List Nat) : (s.send src slot dst body after).ltol = s.ltol := rfl
@[simp] theorem State.send_pwrst (s : State) (src slot dst : Nat) (body : Payload) (after : List Nat) : (s.send src slot dst body after).pwrst = s.pwrst := rfl
@[simp] theorem State.send_idleSince (s : State) (src slot dst : Nat) (body : Payload) (after : List Nat) : (s.send src slot dst body after).idleSince = s.idleSince := rfl
@[simp] theorem State.send_scrub (s : State) (src slot dst : Nat) (body : Payload) (after : List Nat) : (s.send src slot dst body after).scrub = s.scrub := rfl
@[simp] theorem State.send_suap (s : State) (src slot dst : Nat) (body : Payload) (after : List Nat) : (s.send src slot dst body after).suap = s.suap := rfl
@[simp] theorem State.send_bootst (s : State) (src slot dst : Nat) (body : Payload) (after : List Nat) : (s.send src slot dst body after).bootst = s.bootst := rfl
@[simp] theorem State.send_flash (s : State) (src slot dst : Nat) (body : Payload) (after : List Nat) : (s.send src slot dst body after).flash = s.flash := rfl
@[simp] theorem State.send_rollback (s : State) (src slot dst : Nat) (body : Payload) (after : List Nat) : (s.send src slot dst body after).rollback = s.rollback := rfl
@[simp] theorem State.send_windows (s : State) (src slot dst : Nat) (body : Payload) (after : List Nat) : (s.send src slot dst body after).windows = s.windows := rfl
@[simp] theorem State.send_hostOut (s : State) (src slot dst : Nat) (body : Payload) (after : List Nat) : (s.send src slot dst body after).hostOut = s.hostOut := rfl
@[simp] theorem State.send_queues (s : State) (src slot dst : Nat) (body : Payload) (after : List Nat) : (s.send src slot dst body after).queues = s.queues := rfl
@[simp] theorem State.send_objects (s : State) (src slot dst : Nat) (body : Payload) (after : List Nat) : (s.send src slot dst body after).objects = s.objects := rfl
@[simp] theorem State.send_launches (s : State) (src slot dst : Nat) (body : Payload) (after : List Nat) : (s.send src slot dst body after).launches = s.launches := rfl
@[simp] theorem State.send_arb (s : State) (src slot dst : Nat) (body : Payload) (after : List Nat) : (s.send src slot dst body after).arb = s.arb := rfl
@[simp] theorem State.send_parts (s : State) (src slot dst : Nat) (body : Payload) (after : List Nat) : (s.send src slot dst body after).parts = s.parts := rfl
@[simp] theorem State.send_stipes (s : State) (src slot dst : Nat) (body : Payload) (after : List Nat) : (s.send src slot dst body after).stipes = s.stipes := rfl
@[simp] theorem State.send_spares (s : State) (src slot dst : Nat) (body : Payload) (after : List Nat) : (s.send src slot dst body after).spares = s.spares := rfl
@[simp] theorem State.send_outSori (s : State) (src slot dst : Nat) (body : Payload) (after : List Nat) : (s.send src slot dst body after).outSori = s.outSori := rfl
@[simp] theorem State.send_dieClk (s : State) (src slot dst : Nat) (body : Payload) (after : List Nat) : (s.send src slot dst body after).dieClk = s.dieClk := rfl
@[simp] theorem State.send_dieNext (s : State) (src slot dst : Nat) (body : Payload) (after : List Nat) : (s.send src slot dst body after).dieNext = s.dieNext := rfl
@[simp] theorem State.send_dieShare (s : State) (src slot dst : Nat) (body : Payload) (after : List Nat) : (s.send src slot dst body after).dieShare = s.dieShare := rfl
@[simp] theorem State.send_htemp (s : State) (src slot dst : Nat) (body : Payload) (after : List Nat) : (s.send src slot dst body after).htemp = s.htemp := rfl
@[simp] theorem State.send_tempNext (s : State) (src slot dst : Nat) (body : Payload) (after : List Nat) : (s.send src slot dst body after).tempNext = s.tempNext := rfl
@[simp] theorem State.send_hbmCh (s : State) (src slot dst : Nat) (body : Payload) (after : List Nat) : (s.send src slot dst body after).hbmCh = s.hbmCh := rfl
@[simp] theorem State.send_trainNext (s : State) (src slot dst : Nat) (body : Payload) (after : List Nat) : (s.send src slot dst body after).trainNext = s.trainNext := rfl
@[simp] theorem State.send_logs (s : State) (src slot dst : Nat) (body : Payload) (after : List Nat) : (s.send src slot dst body after).logs = s.logs := rfl
@[simp] theorem State.send_linksDown (s : State) (src slot dst : Nat) (body : Payload) (after : List Nat) : (s.send src slot dst body after).linksDown = s.linksDown := rfl
@[simp] theorem State.send_oracle (s : State) (src slot dst : Nat) (body : Payload) (after : List Nat) : (s.send src slot dst body after).oracle = s.oracle := rfl
@[simp] theorem State.send_turn (s : State) (src slot dst : Nat) (body : Payload) (after : List Nat) : (s.send src slot dst body after).turn = s.turn := rfl
@[simp] theorem State.send_inputs (s : State) (src slot dst : Nat) (body : Payload) (after : List Nat) : (s.send src slot dst body after).inputs = s.inputs := rfl
@[simp] theorem State.send_cur (s : State) (src slot dst : Nat) (body : Payload) (after : List Nat) : (s.send src slot dst body after).cur = s.cur := rfl
@[simp] theorem State.drop_time (s : State) (p : Nat) : (s.drop p).time = s.time := rfl
@[simp] theorem State.drop_hbm (s : State) (p : Nat) : (s.drop p).hbm = s.hbm := rfl
@[simp] theorem State.drop_hostMem (s : State) (p : Nat) : (s.drop p).hostMem = s.hostMem := rfl
@[simp] theorem State.drop_far (s : State) (p : Nat) : (s.drop p).far = s.far := rfl
@[simp] theorem State.drop_hbmBad (s : State) (p : Nat) : (s.drop p).hbmBad = s.hbmBad := rfl
@[simp] theorem State.drop_hbmWeak (s : State) (p : Nat) : (s.drop p).hbmWeak = s.hbmWeak := rfl
@[simp] theorem State.drop_l2Bad (s : State) (p : Nat) : (s.drop p).l2Bad = s.l2Bad := rfl
@[simp] theorem State.drop_l2Weak (s : State) (p : Nat) : (s.drop p).l2Weak = s.l2Weak := rfl
@[simp] theorem State.drop_l2 (s : State) (p : Nat) : (s.drop p).l2 = s.l2 := rfl
@[simp] theorem State.drop_hadBad (s : State) (p : Nat) : (s.drop p).hadBad = s.hadBad := rfl
@[simp] theorem State.drop_recurs (s : State) (p : Nat) : (s.drop p).recurs = s.recurs := rfl
@[simp] theorem State.drop_weakRun (s : State) (p : Nat) : (s.drop p).weakRun = s.weakRun := rfl
@[simp] theorem State.drop_tiles (s : State) (p : Nat) : (s.drop p).tiles = s.tiles := rfl
@[simp] theorem State.drop_xcache (s : State) (p : Nat) : (s.drop p).xcache = s.xcache := rfl
@[simp] theorem State.drop_walks (s : State) (p : Nat) : (s.drop p).walks = s.walks := rfl
@[simp] theorem State.drop_answers (s : State) (p : Nat) : (s.drop p).answers = s.answers := rfl
@[simp] theorem State.drop_farReqs (s : State) (p : Nat) : (s.drop p).farReqs = s.farReqs := rfl
@[simp] theorem State.drop_xlbase (s : State) (p : Nat) : (s.drop p).xlbase = s.xlbase := rfl
@[simp] theorem State.drop_xlinv (s : State) (p : Nat) : (s.drop p).xlinv = s.xlinv := rfl
@[simp] theorem State.drop_xlinva (s : State) (p : Nat) : (s.drop p).xlinva = s.xlinva := rfl
@[simp] theorem State.drop_psbase (s : State) (p : Nat) : (s.drop p).psbase = s.psbase := rfl
@[simp] theorem State.drop_qtbase (s : State) (p : Nat) : (s.drop p).qtbase = s.qtbase := rfl
@[simp] theorem State.drop_irqv (s : State) (p : Nat) : (s.drop p).irqv = s.irqv := rfl
@[simp] theorem State.drop_ltol (s : State) (p : Nat) : (s.drop p).ltol = s.ltol := rfl
@[simp] theorem State.drop_pwrst (s : State) (p : Nat) : (s.drop p).pwrst = s.pwrst := rfl
@[simp] theorem State.drop_idleSince (s : State) (p : Nat) : (s.drop p).idleSince = s.idleSince := rfl
@[simp] theorem State.drop_scrub (s : State) (p : Nat) : (s.drop p).scrub = s.scrub := rfl
@[simp] theorem State.drop_suap (s : State) (p : Nat) : (s.drop p).suap = s.suap := rfl
@[simp] theorem State.drop_bootst (s : State) (p : Nat) : (s.drop p).bootst = s.bootst := rfl
@[simp] theorem State.drop_flash (s : State) (p : Nat) : (s.drop p).flash = s.flash := rfl
@[simp] theorem State.drop_rollback (s : State) (p : Nat) : (s.drop p).rollback = s.rollback := rfl
@[simp] theorem State.drop_windows (s : State) (p : Nat) : (s.drop p).windows = s.windows := rfl
@[simp] theorem State.drop_hostOut (s : State) (p : Nat) : (s.drop p).hostOut = s.hostOut := rfl
@[simp] theorem State.drop_queues (s : State) (p : Nat) : (s.drop p).queues = s.queues := rfl
@[simp] theorem State.drop_objects (s : State) (p : Nat) : (s.drop p).objects = s.objects := rfl
@[simp] theorem State.drop_launches (s : State) (p : Nat) : (s.drop p).launches = s.launches := rfl
@[simp] theorem State.drop_arb (s : State) (p : Nat) : (s.drop p).arb = s.arb := rfl
@[simp] theorem State.drop_parts (s : State) (p : Nat) : (s.drop p).parts = s.parts := rfl
@[simp] theorem State.drop_stipes (s : State) (p : Nat) : (s.drop p).stipes = s.stipes := rfl
@[simp] theorem State.drop_spares (s : State) (p : Nat) : (s.drop p).spares = s.spares := rfl
@[simp] theorem State.drop_outSori (s : State) (p : Nat) : (s.drop p).outSori = s.outSori := rfl
@[simp] theorem State.drop_dieClk (s : State) (p : Nat) : (s.drop p).dieClk = s.dieClk := rfl
@[simp] theorem State.drop_dieNext (s : State) (p : Nat) : (s.drop p).dieNext = s.dieNext := rfl
@[simp] theorem State.drop_dieShare (s : State) (p : Nat) : (s.drop p).dieShare = s.dieShare := rfl
@[simp] theorem State.drop_htemp (s : State) (p : Nat) : (s.drop p).htemp = s.htemp := rfl
@[simp] theorem State.drop_tempNext (s : State) (p : Nat) : (s.drop p).tempNext = s.tempNext := rfl
@[simp] theorem State.drop_hbmCh (s : State) (p : Nat) : (s.drop p).hbmCh = s.hbmCh := rfl
@[simp] theorem State.drop_trainNext (s : State) (p : Nat) : (s.drop p).trainNext = s.trainNext := rfl
@[simp] theorem State.drop_logs (s : State) (p : Nat) : (s.drop p).logs = s.logs := rfl
@[simp] theorem State.drop_linksDown (s : State) (p : Nat) : (s.drop p).linksDown = s.linksDown := rfl
@[simp] theorem State.drop_oracle (s : State) (p : Nat) : (s.drop p).oracle = s.oracle := rfl
@[simp] theorem State.drop_turn (s : State) (p : Nat) : (s.drop p).turn = s.turn := rfl
@[simp] theorem State.drop_inputs (s : State) (p : Nat) : (s.drop p).inputs = s.inputs := rfl
@[simp] theorem State.drop_cur (s : State) (p : Nat) : (s.drop p).cur = s.cur := rfl
@[simp] theorem State.drop_nextId (s : State) (p : Nat) : (s.drop p).nextId = s.nextId := rfl

/-! ## Fields of a tile after a strand is set -/

@[simp] theorem Tile.setStrand_loaded (x : Tile) (k : Nat) (st : Strand) : (x.setStrand k st).loaded = x.loaded := rfl
@[simp] theorem Tile.setStrand_done (x : Tile) (k : Nat) (st : Strand) : (x.setStrand k st).done = x.done := rfl
@[simp] theorem Tile.setStrand_launch (x : Tile) (k : Nat) (st : Strand) : (x.setStrand k st).launch = x.launch := rfl
@[simp] theorem Tile.setStrand_ltile (x : Tile) (k : Nat) (st : Strand) : (x.setStrand k st).ltile = x.ltile := rfl
@[simp] theorem Tile.setStrand_ctx (x : Tile) (k : Nat) (st : Strand) : (x.setStrand k st).ctx = x.ctx := rfl
@[simp] theorem Tile.setStrand_partword (x : Tile) (k : Nat) (st : Strand) : (x.setStrand k st).partword = x.partword := rfl
@[simp] theorem Tile.setStrand_hwin (x : Tile) (k : Nat) (st : Strand) : (x.setStrand k st).hwin = x.hwin := rfl
@[simp] theorem Tile.setStrand_pool (x : Tile) (k : Nat) (st : Strand) : (x.setStrand k st).pool = x.pool := rfl
@[simp] theorem Tile.setStrand_poolBad (x : Tile) (k : Nat) (st : Strand) : (x.setStrand k st).poolBad = x.poolBad := rfl
@[simp] theorem Tile.setStrand_poolWeak (x : Tile) (k : Nat) (st : Strand) : (x.setStrand k st).poolWeak = x.poolWeak := rfl
@[simp] theorem Tile.setStrand_opmem (x : Tile) (k : Nat) (st : Strand) : (x.setStrand k st).opmem = x.opmem := rfl
@[simp] theorem Tile.setStrand_opBad (x : Tile) (k : Nat) (st : Strand) : (x.setStrand k st).opBad = x.opBad := rfl
@[simp] theorem Tile.setStrand_opWeak (x : Tile) (k : Nat) (st : Strand) : (x.setStrand k st).opWeak = x.opWeak := rfl
@[simp] theorem Tile.setStrand_scale (x : Tile) (k : Nat) (st : Strand) : (x.setStrand k st).scale = x.scale := rfl
@[simp] theorem Tile.setStrand_scaleBad (x : Tile) (k : Nat) (st : Strand) : (x.setStrand k st).scaleBad = x.scaleBad := rfl
@[simp] theorem Tile.setStrand_scaleWeak (x : Tile) (k : Nat) (st : Strand) : (x.setStrand k st).scaleWeak = x.scaleWeak := rfl
@[simp] theorem Tile.setStrand_table (x : Tile) (k : Nat) (st : Strand) : (x.setStrand k st).table = x.table := rfl
@[simp] theorem Tile.setStrand_overlay (x : Tile) (k : Nat) (st : Strand) : (x.setStrand k st).overlay = x.overlay := rfl
@[simp] theorem Tile.setStrand_loading (x : Tile) (k : Nat) (st : Strand) : (x.setStrand k st).loading = x.loading := rfl
@[simp] theorem Tile.setStrand_sems (x : Tile) (k : Nat) (st : Strand) : (x.setStrand k st).sems = x.sems := rfl
@[simp] theorem Tile.setStrand_cycle (x : Tile) (k : Nat) (st : Strand) : (x.setStrand k st).cycle = x.cycle := rfl
@[simp] theorem Tile.setStrand_q (x : Tile) (k : Nat) (st : Strand) : (x.setStrand k st).q = x.q := rfl
@[simp] theorem Tile.setStrand_mq (x : Tile) (k : Nat) (st : Strand) : (x.setStrand k st).mq = x.mq := rfl
@[simp] theorem Tile.setStrand_wsum (x : Tile) (k : Nat) (st : Strand) : (x.setStrand k st).wsum = x.wsum := rfl
@[simp] theorem Tile.setStrand_mbudget (x : Tile) (k : Nat) (st : Strand) : (x.setStrand k st).mbudget = x.mbudget := rfl
@[simp] theorem Tile.setStrand_refillAt (x : Tile) (k : Nat) (st : Strand) : (x.setStrand k st).refillAt = x.refillAt := rfl
@[simp] theorem Tile.setStrand_divOwner (x : Tile) (k : Nat) (st : Strand) : (x.setStrand k st).divOwner = x.divOwner := rfl
@[simp] theorem Tile.setStrand_fpaOwner (x : Tile) (k : Nat) (st : Strand) : (x.setStrand k st).fpaOwner = x.fpaOwner := rfl
@[simp] theorem Tile.setStrand_fpaAt (x : Tile) (k : Nat) (st : Strand) : (x.setStrand k st).fpaAt = x.fpaAt := rfl
@[simp] theorem Tile.setStrand_slotOwner (x : Tile) (k : Nat) (st : Strand) : (x.setStrand k st).slotOwner = x.slotOwner := rfl
@[simp] theorem Tile.setStrand_mxq (x : Tile) (k : Nat) (st : Strand) : (x.setStrand k st).mxq = x.mxq := rfl
@[simp] theorem Tile.setStrand_lastFmt (x : Tile) (k : Nat) (st : Strand) : (x.setStrand k st).lastFmt = x.lastFmt := rfl
@[simp] theorem Tile.setStrand_copies (x : Tile) (k : Nat) (st : Strand) : (x.setStrand k st).copies = x.copies := rfl
@[simp] theorem Tile.setStrand_socks (x : Tile) (k : Nat) (st : Strand) : (x.setStrand k st).socks = x.socks := rfl
@[simp] theorem Tile.setStrand_gets (x : Tile) (k : Nat) (st : Strand) : (x.setStrand k st).gets = x.gets := rfl
@[simp] theorem Tile.setStrand_inbox (x : Tile) (k : Nat) (st : Strand) : (x.setStrand k st).inbox = x.inbox := rfl
@[simp] theorem Tile.setStrand_ingress (x : Tile) (k : Nat) (st : Strand) : (x.setStrand k st).ingress = x.ingress := rfl
@[simp] theorem Tile.setStrand_pieced (x : Tile) (k : Nat) (st : Strand) : (x.setStrand k st).pieced = x.pieced := rfl
@[simp] theorem Tile.setStrand_meets (x : Tile) (k : Nat) (st : Strand) : (x.setStrand k st).meets = x.meets := rfl
@[simp] theorem Tile.setStrand_wtt (x : Tile) (k : Nat) (st : Strand) : (x.setStrand k st).wtt = x.wtt := rfl
@[simp] theorem Tile.setStrand_arrq (x : Tile) (k : Nat) (st : Strand) : (x.setStrand k st).arrq = x.arrq := rfl
@[simp] theorem Tile.setStrand_resv (x : Tile) (k : Nat) (st : Strand) : (x.setStrand k st).resv = x.resv := rfl
@[simp] theorem Tile.setStrand_bars (x : Tile) (k : Nat) (st : Strand) : (x.setStrand k st).bars = x.bars := rfl
@[simp] theorem Tile.setStrand_chans (x : Tile) (k : Nat) (st : Strand) : (x.setStrand k st).chans = x.chans := rfl
@[simp] theorem Tile.setStrand_ents (x : Tile) (k : Nat) (st : Strand) : (x.setStrand k st).ents = x.ents := rfl
@[simp] theorem Tile.setStrand_trains (x : Tile) (k : Nat) (st : Strand) : (x.setStrand k st).trains = x.trains := rfl
@[simp] theorem Tile.setStrand_fusing (x : Tile) (k : Nat) (st : Strand) : (x.setStrand k st).fusing = x.fusing := rfl
@[simp] theorem Tile.setStrand_counters (x : Tile) (k : Nat) (st : Strand) : (x.setStrand k st).counters = x.counters := rfl
@[simp] theorem Tile.setStrand_watched (x : Tile) (k : Nat) (st : Strand) : (x.setStrand k st).watched = x.watched := rfl
@[simp] theorem Tile.setStrand_bal (x : Tile) (k : Nat) (st : Strand) : (x.setStrand k st).bal = x.bal := rfl
@[simp] theorem Tile.setStrand_rf (x : Tile) (k : Nat) (st : Strand) : (x.setStrand k st).rf = x.rf := rfl
@[simp] theorem Tile.setStrand_scPend (x : Tile) (k : Nat) (st : Strand) : (x.setStrand k st).scPend = x.scPend := rfl
@[simp] theorem Tile.setStrand_wait36 (x : Tile) (k : Nat) (st : Strand) : (x.setStrand k st).wait36 = x.wait36 := rfl
@[simp] theorem Tile.setStrand_faultq (x : Tile) (k : Nat) (st : Strand) : (x.setStrand k st).faultq = x.faultq := rfl
@[simp] theorem Tile.setStrand_sent (x : Tile) (k : Nat) (st : Strand) : (x.setStrand k st).sent = x.sent := rfl
@[simp] theorem Tile.setStrand_rcvd (x : Tile) (k : Nat) (st : Strand) : (x.setStrand k st).rcvd = x.rcvd := rfl
@[simp] theorem Tile.setStrand_issues (x : Tile) (k : Nat) (st : Strand) : (x.setStrand k st).issues = x.issues := rfl
@[simp] theorem Tile.setStrand_stopped (x : Tile) (k : Nat) (st : Strand) : (x.setStrand k st).stopped = x.stopped := rfl
@[simp] theorem Tile.setStrand_halted (x : Tile) (k : Nat) (st : Strand) : (x.setStrand k st).halted = x.halted := rfl
@[simp] theorem Tile.setStrand_pcache (x : Tile) (k : Nat) (st : Strand) : (x.setStrand k st).pcache = x.pcache := rfl
@[simp] theorem Tile.setStrand_cellBad (x : Tile) (k : Nat) (st : Strand) : (x.setStrand k st).cellBad = x.cellBad := rfl
@[simp] theorem Tile.setStrand_cellWeak (x : Tile) (k : Nat) (st : Strand) : (x.setStrand k st).cellWeak = x.cellWeak := rfl

/-! ## Fields of a strand after a bank is set -/

@[simp] theorem Strand.setBank_status (st : Strand) (b : Bank) : (st.setBank b).status = st.status := by
  unfold Strand.setBank; split <;> rfl
@[simp] theorem Strand.setBank_regs (st : Strand) (b : Bank) : (st.setBank b).regs = st.regs := by
  unfold Strand.setBank; split <;> rfl
@[simp] theorem Strand.setBank_pw (st : Strand) (b : Bank) : (st.setBank b).pw = st.pw := by
  unfold Strand.setBank; split <;> rfl
@[simp] theorem Strand.setBank_pc (st : Strand) (b : Bank) : (st.setBank b).pc = st.pc := by
  unfold Strand.setBank; split <;> rfl
@[simp] theorem Strand.setBank_ia (st : Strand) (b : Bank) : (st.setBank b).ia = st.ia := by
  unfold Strand.setBank; split <;> rfl
@[simp] theorem Strand.setBank_pim (st : Strand) (b : Bank) : (st.setBank b).pim = st.pim := by
  unfold Strand.setBank; split <;> rfl
@[simp] theorem Strand.setBank_pimRun (st : Strand) (b : Bank) : (st.setBank b).pimRun = st.pimRun := by
  unfold Strand.setBank; split <;> rfl
@[simp] theorem Strand.setBank_rep (st : Strand) (b : Bank) : (st.setBank b).rep = st.rep := by
  unfold Strand.setBank; split <;> rfl
@[simp] theorem Strand.setBank_wrep (st : Strand) (b : Bank) : (st.setBank b).wrep = st.wrep := by
  unfold Strand.setBank; split <;> rfl
@[simp] theorem Strand.setBank_next (st : Strand) (b : Bank) : (st.setBank b).next = st.next := by
  unfold Strand.setBank; split <;> rfl
@[simp] theorem Strand.setBank_ending (st : Strand) (b : Bank) : (st.setBank b).ending = st.ending := by
  unfold Strand.setBank; split <;> rfl
@[simp] theorem Strand.setBank_going (st : Strand) (b : Bank) : (st.setBank b).going = st.going := by
  unfold Strand.setBank; split <;> rfl
@[simp] theorem Strand.setBank_savedEnding (st : Strand) (b : Bank) : (st.setBank b).savedEnding = st.savedEnding := by
  unfold Strand.setBank; split <;> rfl
@[simp] theorem Strand.setBank_savedGoing (st : Strand) (b : Bank) : (st.setBank b).savedGoing = st.savedGoing := by
  unfold Strand.setBank; split <;> rfl
@[simp] theorem Strand.setBank_wgo (st : Strand) (b : Bank) : (st.setBank b).wgo = st.wgo := by
  unfold Strand.setBank; split <;> rfl
@[simp] theorem Strand.setBank_rword (st : Strand) (b : Bank) : (st.setBank b).rword = st.rword := by
  unfold Strand.setBank; split <;> rfl
@[simp] theorem Strand.setBank_savedRep (st : Strand) (b : Bank) : (st.setBank b).savedRep = st.savedRep := by
  unfold Strand.setBank; split <;> rfl
@[simp] theorem Strand.setBank_tbank (st : Strand) (b : Bank) : (st.setBank b).tbank = st.tbank := by
  unfold Strand.setBank; split <;> rfl
@[simp] theorem Strand.setBank_delay (st : Strand) (b : Bank) : (st.setBank b).delay = st.delay := by
  unfold Strand.setBank; split <;> rfl
@[simp] theorem Strand.setBank_ret (st : Strand) (b : Bank) : (st.setBank b).ret = st.ret := by
  unfold Strand.setBank; split <;> rfl
@[simp] theorem Strand.setBank_sdepth (st : Strand) (b : Bank) : (st.setBank b).sdepth = st.sdepth := by
  unfold Strand.setBank; split <;> rfl
@[simp] theorem Strand.setBank_mode (st : Strand) (b : Bank) : (st.setBank b).mode = st.mode := by
  unfold Strand.setBank; split <;> rfl
@[simp] theorem Strand.setBank_fmt (st : Strand) (b : Bank) : (st.setBank b).fmt = st.fmt := by
  unfold Strand.setBank; split <;> rfl
@[simp] theorem Strand.setBank_srkey (st : Strand) (b : Bank) : (st.setBank b).srkey = st.srkey := by
  unfold Strand.setBank; split <;> rfl
@[simp] theorem Strand.setBank_mxs (st : Strand) (b : Bank) : (st.setBank b).mxs = st.mxs := by
  unfold Strand.setBank; split <;> rfl
@[simp] theorem Strand.setBank_issue (st : Strand) (b : Bank) : (st.setBank b).issue = st.issue := by
  unfold Strand.setBank; split <;> rfl
@[simp] theorem Strand.setBank_sstat (st : Strand) (b : Bank) : (st.setBank b).sstat = st.sstat := by
  unfold Strand.setBank; split <;> rfl
@[simp] theorem Strand.setBank_spc (st : Strand) (b : Bank) : (st.setBank b).spc = st.spc := by
  unfold Strand.setBank; split <;> rfl
@[simp] theorem Strand.setBank_scause (st : Strand) (b : Bank) : (st.setBank b).scause = st.scause := by
  unfold Strand.setBank; split <;> rfl
@[simp] theorem Strand.setBank_sinfo (st : Strand) (b : Bank) : (st.setBank b).sinfo = st.sinfo := by
  unfold Strand.setBank; split <;> rfl
@[simp] theorem Strand.setBank_sds (st : Strand) (b : Bank) : (st.setBank b).sds = st.sds := by
  unfold Strand.setBank; split <;> rfl
@[simp] theorem Strand.setBank_xstep (st : Strand) (b : Bank) : (st.setBank b).xstep = st.xstep := by
  unfold Strand.setBank; split <;> rfl
@[simp] theorem Strand.setBank_latched (st : Strand) (b : Bank) : (st.setBank b).latched = st.latched := by
  unfold Strand.setBank; split <;> rfl
@[simp] theorem Strand.setBank_latchedT (st : Strand) (b : Bank) : (st.setBank b).latchedT = st.latchedT := by
  unfold Strand.setBank; split <;> rfl
@[simp] theorem Strand.setBank_latchedDue (st : Strand) (b : Bank) : (st.setBank b).latchedDue = st.latchedDue := by
  unfold Strand.setBank; split <;> rfl
@[simp] theorem Strand.setBank_ereting (st : Strand) (b : Bank) : (st.setBank b).ereting = st.ereting := by
  unfold Strand.setBank; split <;> rfl
@[simp] theorem Strand.setBank_refire (st : Strand) (b : Bank) : (st.setBank b).refire = st.refire := by
  unfold Strand.setBank; split <;> rfl
@[simp] theorem Strand.setBank_pend (st : Strand) (b : Bank) : (st.setBank b).pend = st.pend := by
  unfold Strand.setBank; split <;> rfl
@[simp] theorem Strand.setBank_trapId (st : Strand) (b : Bank) : (st.setBank b).trapId = st.trapId := by
  unfold Strand.setBank; split <;> rfl
@[simp] theorem Strand.setBank_stepPend (st : Strand) (b : Bank) : (st.setBank b).stepPend = st.stepPend := by
  unfold Strand.setBank; split <;> rfl
@[simp] theorem Strand.setBank_window (st : Strand) (b : Bank) : (st.setBank b).window = st.window := by
  unfold Strand.setBank; split <;> rfl
@[simp] theorem Strand.setBank_hold (st : Strand) (b : Bank) : (st.setBank b).hold = st.hold := by
  unfold Strand.setBank; split <;> rfl
@[simp] theorem Strand.setBank_block (st : Strand) (b : Bank) : (st.setBank b).block = st.block := by
  unfold Strand.setBank; split <;> rfl
@[simp] theorem Strand.setBank_exp (st : Strand) (b : Bank) : (st.setBank b).exp = st.exp := by
  unfold Strand.setBank; split <;> rfl
@[simp] theorem Strand.setBank_savedExp (st : Strand) (b : Bank) : (st.setBank b).savedExp = st.savedExp := by
  unfold Strand.setBank; split <;> rfl
@[simp] theorem Strand.setBank_vreq (st : Strand) (b : Bank) : (st.setBank b).vreq = st.vreq := by
  unfold Strand.setBank; split <;> rfl
@[simp] theorem Strand.setBank_vgrant (st : Strand) (b : Bank) : (st.setBank b).vgrant = st.vgrant := by
  unfold Strand.setBank; split <;> rfl
@[simp] theorem Strand.setBank_acct (st : Strand) (b : Bank) : (st.setBank b).acct = st.acct := by
  unfold Strand.setBank; split <;> rfl
@[simp] theorem Strand.setBank_resv (st : Strand) (b : Bank) : (st.setBank b).resv = st.resv := by
  unfold Strand.setBank; split <;> rfl
@[simp] theorem Strand.setBank_scFailed (st : Strand) (b : Bank) : (st.setBank b).scFailed = st.scFailed := by
  unfold Strand.setBank; split <;> rfl
@[simp] theorem Strand.setBank_meets (st : Strand) (b : Bank) : (st.setBank b).meets = st.meets := by
  unfold Strand.setBank; split <;> rfl
@[simp] theorem Strand.setBank_bars (st : Strand) (b : Bank) : (st.setBank b).bars = st.bars := by
  unfold Strand.setBank; split <;> rfl
@[simp] theorem Strand.setBank_order (st : Strand) (b : Bank) : (st.setBank b).order = st.order := by
  unfold Strand.setBank; split <;> rfl
@[simp] theorem Strand.setBank_scSeq (st : Strand) (b : Bank) : (st.setBank b).scSeq = st.scSeq := by
  unfold Strand.setBank; split <;> rfl
@[simp] theorem Strand.setBank_wait (st : Strand) (b : Bank) : (st.setBank b).wait = st.wait := by
  unfold Strand.setBank; split <;> rfl
@[simp] theorem Strand.setBank_last (st : Strand) (b : Bank) : (st.setBank b).last = st.last := by
  unfold Strand.setBank; split <;> rfl
@[simp] theorem Strand.setBank_yielded (st : Strand) (b : Bank) : (st.setBank b).yielded = st.yielded := by
  unfold Strand.setBank; split <;> rfl
@[simp] theorem Strand.setBank_attempts (st : Strand) (b : Bank) : (st.setBank b).attempts = st.attempts := by
  unfold Strand.setBank; split <;> rfl
@[simp] theorem Strand.setBank_irq34 (st : Strand) (b : Bank) : (st.setBank b).irq34 = st.irq34 := by
  unfold Strand.setBank; split <;> rfl
@[simp] theorem Strand.setBank_irq35 (st : Strand) (b : Bank) : (st.setBank b).irq35 = st.irq35 := by
  unfold Strand.setBank; split <;> rfl
@[simp] theorem Strand.setBank_irq36 (st : Strand) (b : Bank) : (st.setBank b).irq36 = st.irq36 := by
  unfold Strand.setBank; split <;> rfl
@[simp] theorem Strand.setBank_twice (st : Strand) (b : Bank) : (st.setBank b).twice = st.twice := by
  unfold Strand.setBank; split <;> rfl
@[simp] theorem Strand.setBank_bad (st : Strand) (b : Bank) : (st.setBank b).bad = st.bad := by
  unfold Strand.setBank; split <;> rfl
@[simp] theorem Strand.setBank_weak (st : Strand) (b : Bank) : (st.setBank b).weak = st.weak := by
  unfold Strand.setBank; split <;> rfl

/-! ## Reading what was set -/

@[simp] theorem State.tile_setTile_same (s : State) (t : Nat) (x : Tile) : (s.setTile t x).tile t = x := by
  simp [State.tile, State.setTile]

theorem State.tile_setTile_other (s : State) {t u : Nat} (x : Tile) (h : u ≠ t) : (s.setTile t x).tile u = s.tile u := by
  simp [State.tile, State.setTile, Map.find_set_other _ _ _ h]

@[simp] theorem Tile.strand_setStrand_same (x : Tile) (k : Nat) (st : Strand) : (x.setStrand k st).strand k = st := by
  simp [Tile.strand, Tile.setStrand]

theorem Tile.strand_setStrand_other (x : Tile) {j k : Nat} (st : Strand) (h : j ≠ k) :
    (x.setStrand k st).strand j = x.strand j := by
  simp [Tile.strand, Tile.setStrand, Map.find_set_other _ _ _ h]

@[simp] theorem State.strand_setStrand_same (s : State) (t k : Nat) (st : Strand) : (s.setStrand t k st).strand t k = st := by
  simp [State.strand, State.setStrand]

@[simp] theorem State.tile_setStrand_same (s : State) (t k : Nat) (st : Strand) :
    (s.setStrand t k st).tile t = (s.tile t).setStrand k st := by simp [State.setStrand]

theorem State.tile_setStrand_other (s : State) {t u : Nat} (k : Nat) (st : Strand) (h : u ≠ t) :
    (s.setStrand t k st).tile u = s.tile u := State.tile_setTile_other s _ h

theorem State.strand_setStrand_other (s : State) {t k u j : Nat} (st : Strand) (h : u ≠ t ∨ j ≠ k) :
    (s.setStrand t k st).strand u j = s.strand u j := by
  by_cases ht : u = t
  · subst ht
    rcases h with h | h
    · exact absurd rfl h
    · simp [State.strand, Tile.strand_setStrand_other _ st h]
  · simp [State.strand, State.tile_setStrand_other s k st ht]

@[simp] theorem State.me_setMe (s : State) (st : Strand) : (s.setMe st).me = st := by simp [State.me, State.setMe]

@[simp] theorem State.here_setHere (s : State) (x : Tile) : (s.setHere x).here = x := by simp [State.here, State.setHere]

@[simp] theorem State.here_setMe (s : State) (st : Strand) : (s.setMe st).here = s.here.setStrand s.cur.2 st := by
  simp [State.here, State.setMe]

@[simp] theorem Strand.bank_setBank (st : Strand) (b : Bank) : (st.setBank b).bank = b := by
  unfold Strand.bank Strand.setBank Strand.tl
  split <;> simp_all

@[simp] theorem State.tile_tick (s : State) (t : Nat) : s.tick.tile t = s.tile t := rfl

@[simp] theorem State.tile_send (s : State) (src slot dst : Nat) (body : Payload) (after : List Nat) (t : Nat) :
    (s.send src slot dst body after).tile t = s.tile t := rfl

@[simp] theorem State.tile_drop (s : State) (p t : Nat) : (s.drop p).tile t = s.tile t := rfl

/-! ## The machine after reset -/

@[simp] theorem State.tile_reset (t : Nat) : State.reset.tile t = Tile.reset := rfl

@[simp] theorem State.strand_reset (t k : Nat) : State.reset.strand t k = Strand.reset := rfl

end Sys2Proof.Machine
end

