-- ==== Sys2Proof/Laws/Ops.lean ====
section
/-! SUPPORT. What each shared operation can do, said once: the pool, physical memory, packets, results, latches and
reservations; and that they keep the canonical form of every memory. -/
namespace Sys2Proof.Machine

/-! ## The canonical form of the state's memories -/

theorem Tile.memOk_reset : Tile.reset.memOk := ⟨rfl, rfl, rfl⟩

/-- Every memory is in canonical form at reset. -/
theorem State.memOk_reset : State.reset.memOk := by
  refine ⟨rfl, rfl, rfl, ?_, ?_⟩
  · intro e h
    cases h
  · intro e h
    have h2 : e = (0, Part.whole) := List.mem_singleton.mp h
    subst h2
    have hi : Part.whole.image = none := rfl
    have hl : Part.whole.last = none := rfl
    refine ⟨?_, ?_⟩
    · intro im hm
      rw [hi] at hm
      cases hm
    · intro im hm
      rw [hl] at hm
      cases hm

/-- The form depends on the memories, tiles and partitions alone. -/
theorem State.memOk_congr {s t : State} (h : s.memOk) (h1 : t.hbm = s.hbm) (h2 : t.hostMem = s.hostMem) (h3 : t.far = s.far)
    (h4 : t.tiles = s.tiles) (h5 : t.parts = s.parts) : t.memOk := by
  unfold State.memOk at *
  rw [h1, h2, h3, h4, h5]
  exact h

theorem Map.mem_of_get? {α : Type} {m : Map α} {k : Nat} {v : α} (h : Map.get? m k = some v) : (k, v) ∈ m := by
  induction m with
  | nil => cases h
  | cons c r ih =>
    obtain ⟨j, w⟩ := c
    unfold Map.get? at h
    split at h
    · next hj =>
      cases h
      subst hj
      exact List.mem_cons_self
    · exact List.mem_cons_of_mem _ (ih h)

/-- A tile's memories are in canonical form, listed or not. -/
theorem State.memOk_tile {s : State} (h : s.memOk) (t : Nat) : (s.tile t).memOk := by
  unfold State.tile Map.find
  cases hg : Map.get? s.tiles t with
  | none => exact Tile.memOk_reset
  | some x => exact h.2.2.2.1 _ (Map.mem_of_get? hg)

theorem State.memOk_setTile {s : State} (h : s.memOk) (t : Nat) {x : Tile} (hx : x.memOk) : (s.setTile t x).memOk := by
  refine ⟨h.1, h.2.1, h.2.2.1, ?_, h.2.2.2.2⟩
  intro e he
  have he2 : e ∈ Map.set s.tiles t x := he
  rcases Map.mem_set he2 with hc | hc
  · rw [hc]
    exact hx
  · exact h.2.2.2.1 e hc.1

/-- A tile set without a change of its memories. -/
theorem State.memOk_retile {s : State} (h : s.memOk) (t : Nat) {x : Tile} (h1 : x.pool = (s.tile t).pool)
    (h2 : x.opmem = (s.tile t).opmem) (h3 : x.scale = (s.tile t).scale) : (s.setTile t x).memOk := by
  refine State.memOk_setTile h t ?_
  unfold Tile.memOk
  rw [h1, h2, h3]
  exact State.memOk_tile h t

theorem State.memOk_setStrand {s : State} (h : s.memOk) (t k : Nat) (st : Strand) : (s.setStrand t k st).memOk :=
  State.memOk_setTile h t (State.memOk_tile h t)

theorem State.memOk_setMe {s : State} (h : s.memOk) (st : Strand) : (s.setMe st).memOk := State.memOk_setStrand h _ _ st

theorem State.memOk_setPart {s : State} (h : s.memOk) (p : Nat) {x : Part} (hx : x.memOk) : (s.setPart p x).memOk := by
  refine ⟨h.1, h.2.1, h.2.2.1, h.2.2.2.1, ?_⟩
  intro e he
  have he2 : e ∈ Map.set s.parts p x := he
  rcases Map.mem_set he2 with hc | hc
  · rw [hc]
    exact hx
  · exact h.2.2.2.2 e hc.1

theorem State.memOk_tick {s : State} (h : s.memOk) : s.tick.memOk := h

theorem State.memOk_send {s : State} (h : s.memOk) (src slot dst : Nat) (body : Payload) (after : List Nat) :
    (s.send src slot dst body after).memOk := h

theorem State.memOk_drop {s : State} (h : s.memOk) (p : Nat) : (s.drop p).memOk := h

theorem State.memOk_log {s : State} (h : s.memOk) (key kind level src : Nat) (addr synd : Word) :
    (s.log key kind level src addr synd).memOk := h

theorem State.memOk_hostIntr {s : State} (h : s.memOk) (fn v : Nat) : (s.hostIntr fn v).memOk := h

/-- A write at a physical address keeps the form. -/
theorem State.memOk_paWrite {s : State} (h : s.memOk) (pa : Nat) (bs : List Byte) : (s.paWrite pa bs).memOk := by
  unfold State.paWrite
  split
  · exact ⟨h.1, Memory.wf_writeBytes _ _ h.2.1, h.2.2.1, h.2.2.2⟩
  · exact ⟨Memory.wf_writeBytes _ _ h.1, h.2.1, h.2.2⟩

/-- A fold of an operation that keeps the form keeps it. -/
theorem memOk_foldl {α : Type} (f : State → α → State) (l : List α) (hf : ∀ s a, s.memOk → (f s a).memOk) {s : State}
    (h : s.memOk) : (l.foldl f s).memOk := by
  induction l generalizing s with
  | nil => exact h
  | cons a r ih => exact ih (hf s a h)

theorem memOk_loseResv {s : State} (h : s.memOk) (t : Nat) (e : ResvEnt) : (loseResv s t e).memOk := by
  unfold loseResv
  dsimp only
  split
  · exact State.memOk_setStrand h _ _ _
  · exact h

theorem State.memOk_breakResv {s : State} (h : s.memOk) (t off n : Nat) : (s.breakResv t off n).memOk := by
  have h2 := memOk_foldl (fun s e => loseResv s t e) ((s.tile t).resv.filter fun e => touches off n e.granule)
    (fun s e hs => memOk_loseResv hs t e) h
  exact State.memOk_setTile h2 t (State.memOk_tile h2 t)

/-- A pool write keeps the form. -/
theorem State.memOk_poolWrite {s : State} (h : s.memOk) (t off : Nat) (bs : List Byte) : (s.poolWrite t off bs).memOk := by
  have hx := State.memOk_tile h t
  have h2 : (s.setTile t { (s.tile t) with
      pool := (s.tile t).pool.writeBytes off bs, poolBad := clearBad (s.tile t).poolBad off bs.length }).memOk :=
    State.memOk_setTile h t ⟨Memory.wf_writeBytes _ _ hx.1, hx.2⟩
  unfold State.poolWrite
  dsimp only
  split
  · exact h2
  · exact State.memOk_breakResv h2 t off bs.length

theorem State.memOk_setCreg {s : State} (h : s.memOk) (t n : Nat) (v : Word) : (s.setCreg t n v).memOk :=
  State.memOk_poolWrite h t _ _

theorem State.memOk_poolScrub {s : State} (h : s.memOk) (t off n : Nat) : (s.poolScrub t off n).memOk := by
  unfold State.poolScrub
  dsimp only
  split
  · exact h
  · exact memOk_foldl _ _ (fun s b hs => State.memOk_log hs _ _ _ _ _ _) (State.memOk_retile h t rfl rfl rfl)

theorem State.memOk_cellFix {s : State} (h : s.memOk) (t : Nat) (l : ScrubLoc) : (s.cellFix t l).memOk := by
  unfold State.cellFix
  dsimp only
  split
  · exact State.memOk_tick (State.memOk_log (State.memOk_retile (x := { (s.tile t) with
      cellWeak := (s.tile t).cellWeak.filter (· != l) }) h t rfl rfl rfl) _ _ _ _ _ _)
  · exact h

theorem State.memOk_recurred {s : State} (h : s.memOk) (t : Nat) : (s.recurred t).memOk := by
  unfold State.recurred State.askRetire
  dsimp only
  split
  · split
    · exact h
    · refine State.memOk_setPart h _ ?_
      unfold State.part Map.find
      cases hg : Map.get? s.parts (s.partOf t) with
      | none =>
        refine ⟨?_, ?_⟩
        · intro im hm
          cases hm
        · intro im hm
          cases hm
      | some x => exact h.2.2.2.2 _ (Map.mem_of_get? hg)
  · exact h

theorem State.memOk_poolLog {s : State} (h : s.memOk) (t off : Nat) : (s.poolLog t off).memOk :=
  State.memOk_recurred (State.memOk_log h _ _ _ _ _ _) t

theorem State.memOk_semFound {s : State} (h : s.memOk) (t idx : Nat) : (s.semFound t idx).memOk := by
  unfold State.semFound
  split
  · exact State.memOk_tick (State.memOk_hostIntr (State.memOk_poolLog h _ _) _ _)
  · exact State.memOk_cellFix h _ _

theorem State.memOk_endResv {s : State} (h : s.memOk) (t k : Nat) : (s.endResv t k).memOk := by
  unfold State.endResv
  dsimp only
  split
  · exact h
  · exact State.memOk_setTile (State.memOk_setStrand h t k _) _ (State.memOk_tile (State.memOk_setStrand h t k _) _)

theorem State.memOk_semChange {s : State} (h : s.memOk) (t idx : Nat) (v : Sem) : (s.semChange t idx v).memOk :=
  State.memOk_setTile h t (State.memOk_tile h t)

theorem State.memOk_semAddNow {s : State} (h : s.memOk) (t idx inc : Nat) (err : Bool) : (s.semAddNow t idx inc err).memOk := by
  unfold State.semAddNow
  dsimp only
  split
  · exact h
  · exact State.memOk_semChange (State.memOk_semFound h t idx) t idx _

theorem State.memOk_result {s : State} (h : s.memOk) (u : UnitId) (y : Word) (z : Option Word) (L : Nat) :
    (s.result u y z L).memOk := State.memOk_setMe h _

theorem State.memOk_latch {s : State} (h : s.memOk) (f : Fired) (cause : Nat) (info : Word) : (s.latch f cause info).memOk :=
  State.memOk_setMe h _

theorem Tile.memOk_zeroVec {x : Tile} (h : x.memOk) (k : Nat) : (x.zeroVec k).memOk := by
  unfold Tile.zeroVec
  split
  · exact ⟨Memory.wf_sublist List.filter_sublist h.1, h.2⟩
  · exact h

theorem memOk_startHandler {s : State} (h : s.memOk) (t k i : Nat) (e : Wtt) : (startHandler s t k i e).memOk := by
  have hx := State.memOk_tile h t
  unfold startHandler
  refine State.memOk_setTile h t ?_
  exact Tile.memOk_zeroVec (x := { ((s.tile t).seed 0).1 with wtt := Map.erase ((s.tile t).seed 0).1.wtt i }) hx k

theorem memOk_startArrival {s : State} (h : s.memOk) (t k : Nat) (m : MigPkt) : (startArrival s t k m).memOk := by
  have hx := State.memOk_tile h t
  unfold startArrival
  refine State.memOk_setTile h t ?_
  exact Tile.memOk_zeroVec (x := ((s.tile t).seed 0).1) hx k

/-- Giving free slots to what waits for them keeps the form. -/
theorem memOk_assignSlots (n : Nat) {s : State} (h : s.memOk) (t : Nat) : (assignSlots n s t).memOk := by
  induction n generalizing s with
  | zero => exact h
  | succ n ih =>
    unfold assignSlots
    split
    · exact h
    · split
      · exact ih (memOk_startHandler h t _ _ _)
      · split
        · refine ih (memOk_startArrival ?_ t _ _)
          exact State.memOk_retile h t rfl rfl rfl
        · exact h

theorem State.memOk_settleSlots {s : State} (h : s.memOk) (t : Nat) : (s.settleSlots t).memOk := by
  unfold State.settleSlots
  split
  · exact h
  · exact memOk_assignSlots 32 h t

theorem State.memOk_semAdd {s : State} (h : s.memOk) (t idx inc : Nat) (err : Bool) : (s.semAdd t idx inc err).memOk :=
  State.memOk_settleSlots (State.memOk_semAddNow h t idx inc err) t

/-! ## What a pool write does -/

/-- What breaking a reservation may change in a strand: the reservation, a wrs that waits on it, and its result. -/
def Strand.woken (a b : Strand) : Prop := b = { a with resv := b.resv, block := b.block, user := b.user, trap := b.trap }

theorem Strand.woken_refl (a : Strand) : a.woken a := rfl

theorem Strand.woken_trans {a b c : Strand} (h : a.woken b) (g : b.woken c) : a.woken c := by
  unfold Strand.woken at *
  rw [g, h]

theorem wakeWrs_woken (st : Strand) (code : Word) (c : Nat) : st.woken (wakeWrs st code c) := by
  unfold wakeWrs
  split
  · unfold Strand.woken Strand.setBank
    dsimp only
    split <;> rfl
  · rfl

/-- One reservation lost: no tile but a strand of it changes, and that only by being woken. -/
theorem loseResv_spec (s : State) (t : Nat) (e : ResvEnt) :
    loseResv s t e = { s with tiles := (loseResv s t e).tiles } ∧
      (∀ u, (loseResv s t e).tile u = { (s.tile u) with strands := ((loseResv s t e).tile u).strands }) ∧
      ∀ u k, (s.strand u k).woken ((loseResv s t e).strand u k) := by
  unfold loseResv
  dsimp only
  split
  · refine ⟨rfl, ?_, ?_⟩
    · intro u
      by_cases hu : u = e.tile
      · subst hu
        rw [State.tile_setStrand_same]
        rfl
      · rw [State.tile_setStrand_other _ _ _ hu]
    · intro u k
      by_cases hk : u = e.tile ∧ k = e.slot
      · obtain ⟨rfl, rfl⟩ := hk
        rw [State.strand_setStrand_same]
        have hw := wakeWrs_woken { (s.strand e.tile e.slot) with resv := none } 0 (s.tile e.tile).cycle
        exact Strand.woken_trans (b := { (s.strand e.tile e.slot) with resv := none }) rfl hw
      · have hne : u ≠ e.tile ∨ k ≠ e.slot := by
          by_cases h1 : u = e.tile
          · exact Or.inr fun h2 => hk ⟨h1, h2⟩
          · exact Or.inl h1
        rw [State.strand_setStrand_other _ _ hne]
        rfl
  · exact ⟨rfl, fun _ => rfl, fun _ _ => rfl⟩

theorem loseResv_foldl_spec (t : Nat) (l : List ResvEnt) (s : State) :
    l.foldl (fun s e => loseResv s t e) s = { s with tiles := (l.foldl (fun s e => loseResv s t e) s).tiles } ∧
      (∀ u, (l.foldl (fun s e => loseResv s t e) s).tile u =
        { (s.tile u) with strands := ((l.foldl (fun s e => loseResv s t e) s).tile u).strands }) ∧
      ∀ u k, (s.strand u k).woken ((l.foldl (fun s e => loseResv s t e) s).strand u k) := by
  induction l generalizing s with
  | nil => exact ⟨rfl, fun _ => rfl, fun _ _ => rfl⟩
  | cons e r ih =>
    obtain ⟨a1, a2, a3⟩ := loseResv_spec s t e
    obtain ⟨b1, b2, b3⟩ := ih (loseResv s t e)
    simp only [List.foldl_cons]
    refine ⟨?_, ?_, ?_⟩
    · rw [b1, a1]
    · intro u
      rw [b2 u, a2 u]
    · intro u k
      exact Strand.woken_trans (a3 u k) (b3 u k)

/-- Breaking the reservations on some bytes changes nothing but strands and the tile's list of reservations. -/
theorem State.breakResv_spec (s : State) (t off n : Nat) :
    s.breakResv t off n = { s with tiles := (s.breakResv t off n).tiles } ∧
      (∀ u, (s.breakResv t off n).tile u =
        { (s.tile u) with strands := ((s.breakResv t off n).tile u).strands, resv := ((s.breakResv t off n).tile u).resv }) ∧
      ∀ u k, (s.strand u k).woken ((s.breakResv t off n).strand u k) := by
  obtain ⟨a1, a2, a3⟩ := loseResv_foldl_spec t ((s.tile t).resv.filter fun e => touches off n e.granule) s
  refine ⟨?_, ?_, ?_⟩
  · unfold State.breakResv State.setTile
    dsimp only
    rw [a1]
  · intro u
    unfold State.breakResv
    dsimp only
    by_cases hu : u = t
    · subst hu
      rw [State.tile_setTile_same, a2 u]
    · rw [State.tile_setTile_other _ _ hu, a2 u]
  · intro u k
    unfold State.breakResv
    dsimp only
    by_cases hu : u = t
    · subst hu
      have h2 := a3 u k
      unfold State.strand at *
      rw [State.tile_setTile_same]
      exact h2
    · have h2 := a3 u k
      unfold State.strand at *
      rw [State.tile_setTile_other _ _ hu]
      exact h2

/-- A pool write: the bytes stand where they were written, every other byte of that pool is as it was, other tiles keep all
but strands that were woken, and nothing outside the tiles changes. -/
theorem State.poolWrite_spec (s : State) (t off : Nat) (bs : List Byte) :
    s.poolWrite t off bs = { s with tiles := (s.poolWrite t off bs).tiles } ∧
      ((s.poolWrite t off bs).tile t).pool = (s.tile t).pool.writeBytes off bs ∧
      (∀ u, u ≠ t → ((s.poolWrite t off bs).tile u).pool = (s.tile u).pool) ∧
      ∀ u k, (s.strand u k).woken ((s.poolWrite t off bs).strand u k) := by
  unfold State.poolWrite
  dsimp only
  have hk : ∀ (x : Tile), x.strands = (s.tile t).strands → ∀ u k, (s.setTile t x).strand u k = s.strand u k := by
    intro x hx u k
    unfold State.strand Tile.strand
    by_cases hu : u = t
    · subst hu
      rw [State.tile_setTile_same, hx]
    · rw [State.tile_setTile_other _ _ hu]
  split
  · refine ⟨rfl, ?_, ?_, ?_⟩
    · rw [State.tile_setTile_same]
    · intro u hu
      rw [State.tile_setTile_other _ _ hu]
    · intro u k
      rw [hk { (s.tile t) with
        pool := (s.tile t).pool.writeBytes off bs, poolBad := clearBad (s.tile t).poolBad off bs.length } rfl u k]
      rfl
  · have hb := State.breakResv_spec (s.setTile t { (s.tile t) with
        pool := (s.tile t).pool.writeBytes off bs, poolBad := clearBad (s.tile t).poolBad off bs.length }) t off bs.length
    refine ⟨?_, ?_, ?_, ?_⟩
    · rw [hb.1]
      rfl
    · rw [hb.2.1 t, State.tile_setTile_same]
    · intro u hu
      rw [hb.2.1 u, State.tile_setTile_other _ _ hu]
    · intro u k
      have h3 := hb.2.2 u k
      rw [hk { (s.tile t) with
        pool := (s.tile t).pool.writeBytes off bs, poolBad := clearBad (s.tile t).poolBad off bs.length } rfl u k] at h3
      exact h3

/-- The bytes written are read back. -/
theorem State.poolRead_poolWrite_same (s : State) (t off : Nat) (bs : List Byte) :
    (s.poolWrite t off bs).poolRead t off bs.length = bs := by
  unfold State.poolRead
  rw [(State.poolWrite_spec s t off bs).2.1]
  exact Memory.readBytes_writeBytes_same _ _ _

/-! ## Physical memory -/

/-- The bytes written at a physical address are read back there. -/
theorem State.paRead_paWrite_same (s : State) (pa : Nat) (bs : List Byte) : (s.paWrite pa bs).paRead pa bs.length = bs := by
  unfold State.paRead State.paWrite
  by_cases hh : isHost pa = true
  · rw [if_pos hh, if_pos hh]
    exact Memory.readBytes_writeBytes_same _ _ _
  · rw [if_neg hh, if_neg hh]
    exact Memory.readBytes_writeBytes_same _ _ _

/-- A write at a physical address changes nothing but memory, HBM's latent errors and what the die L2s hold. -/
theorem State.paWrite_spec (s : State) (pa : Nat) (bs : List Byte) :
    s.paWrite pa bs = { s with
      hbm := (s.paWrite pa bs).hbm, hostMem := (s.paWrite pa bs).hostMem,
      hbmBad := (s.paWrite pa bs).hbmBad, l2Bad := (s.paWrite pa bs).l2Bad, l2 := (s.paWrite pa bs).l2 } ∧
      (isHost pa = false → (s.paWrite pa bs).hbm = s.hbm.writeBytes pa bs ∧ (s.paWrite pa bs).hostMem = s.hostMem) ∧
      (isHost pa = true → (s.paWrite pa bs).hbm = s.hbm) := by
  unfold State.paWrite
  cases isHost pa
  · exact ⟨rfl, fun _ => ⟨rfl, rfl⟩, fun h => absurd h Bool.false_ne_true⟩
  · exact ⟨rfl, fun h => absurd h.symm Bool.false_ne_true, fun _ => rfl⟩

@[simp] theorem State.paWrite_tiles (s : State) (pa : Nat) (bs : List Byte) : (s.paWrite pa bs).tiles = s.tiles := by
  rw [(State.paWrite_spec s pa bs).1]

@[simp] theorem State.paWrite_tile (s : State) (pa : Nat) (bs : List Byte) (t : Nat) :
    (s.paWrite pa bs).tile t = s.tile t := by
  unfold State.tile
  rw [State.paWrite_tiles]

@[simp] theorem State.paWrite_parts (s : State) (pa : Nat) (bs : List Byte) : (s.paWrite pa bs).parts = s.parts := by
  rw [(State.paWrite_spec s pa bs).1]

@[simp] theorem State.paWrite_launches (s : State) (pa : Nat) (bs : List Byte) : (s.paWrite pa bs).launches = s.launches := by
  rw [(State.paWrite_spec s pa bs).1]

@[simp] theorem State.paWrite_flight (s : State) (pa : Nat) (bs : List Byte) : (s.paWrite pa bs).flight = s.flight := by
  rw [(State.paWrite_spec s pa bs).1]

@[simp] theorem State.paWrite_hostOut (s : State) (pa : Nat) (bs : List Byte) : (s.paWrite pa bs).hostOut = s.hostOut := by
  rw [(State.paWrite_spec s pa bs).1]

/-! ## Results and latches -/

@[simp] theorem State.result_here_pool (s : State) (u : UnitId) (y : Word) (z : Option Word) (L : Nat) :
    (s.result u y z L).here.pool = s.here.pool := by
  unfold State.result
  rw [State.here_setMe]
  rfl

/-- A result joins the strand's results, due L issues on where the unit is free-running. -/
theorem Bank.mem_push (b : Bank) (u : UnitId) (y z : Option Word) (L c : Nat) (locked wait : Bool) :
    { unit := u, y := y, z := z, due := if locked || wait then none else some (b.clock + L), ready := c + L, wait := wait,
      lock := false } ∈
      (b.push u y z L c locked wait).res := by
  unfold Bank.push
  simp only [List.mem_append, List.mem_singleton, or_true]

/-- The operation stays latched with its trap. -/
theorem State.trapA_spec (s : State) (port : Nat) (v : Word) (cause : Nat) (info : Word) :
    s.trapA port v cause info = .next (s.setMe (s.me.addLatched
      { op := { port := port, v := v, g := true, chop := (s.opnd 0x1E2).toNat % 8 }, cause := cause, info := info,
        wgo := s.me.wgo })) := rfl

/-! ## Partitions -/

@[simp] theorem State.part_setPart_same (s : State) (p : Nat) (x : Part) : (s.setPart p x).part p = x := by
  unfold State.part State.setPart
  exact Map.find_set_same _ _ _ _

theorem State.part_setPart_other (s : State) {p q : Nat} (x : Part) (h : q ≠ p) : (s.setPart p x).part q = s.part q := by
  unfold State.part State.setPart
  exact Map.find_set_other _ _ _ h

@[simp] theorem State.part_setTile (s : State) (t : Nat) (x : Tile) (p : Nat) : (s.setTile t x).part p = s.part p := rfl

@[simp] theorem State.tile_setPart (s : State) (p : Nat) (x : Part) (t : Nat) : (s.setPart p x).tile t = s.tile t := rfl

@[simp] theorem State.part_paWrite (s : State) (pa : Nat) (bs : List Byte) (p : Nat) : (s.paWrite pa bs).part p = s.part p := by
  unfold State.part
  rw [State.paWrite_parts]

/-! ## The end of a strand and of a launch -/

@[simp] theorem Strand.ended_status (st : Strand) : st.ended.status = .free := rfl
@[simp] theorem Strand.ended_regs (st : Strand) : st.ended.regs = st.regs := rfl
@[simp] theorem Strand.ended_pw (st : Strand) : st.ended.pw = st.pw := rfl
@[simp] theorem endTile_loaded (x : Tile) : (endTile x).loaded = false := rfl
@[simp] theorem endTile_pool (x : Tile) : (endTile x).pool = x.pool := rfl
@[simp] theorem endTile_sems (x : Tile) : (endTile x).sems = x.sems := rfl

/-- The tiles of a launch that ends are unloaded and keep their pools and semaphores. -/
theorem endTiles_spec (ts : List Nat) : ∀ (s : State) (u : Nat),
    ((endTiles s ts).tile u).pool = (s.tile u).pool ∧ ((endTiles s ts).tile u).sems = (s.tile u).sems ∧
    ((s.tile u).loaded = false ∨ u ∈ ts → ((endTiles s ts).tile u).loaded = false) := by
  induction ts with
  | nil => intro s u; simp [endTiles]
  | cons t ts ih =>
    intro s u
    obtain ⟨h1, h2, h3⟩ := ih (s.setTile t (endTile (s.tile t))) u
    by_cases h : u = t
    · subst h
      exact ⟨by simpa [endTiles] using h1, by simpa [endTiles] using h2, fun _ => h3 (.inl (by simp))⟩
    · rw [State.tile_setTile_other s _ h] at h1 h2 h3
      exact ⟨h1, h2, fun hu => h3 (hu.imp id fun m => (List.mem_cons.mp m).resolve_left h)⟩

end Sys2Proof.Machine
end

