-- ==== Sys2Proof/Laws/PerInstr.lean ====
section
/-! SUPPORT. The encoding family: whatever an instruction is written down as, the decoder reads that instruction from it; one
lemma for each constructor. -/
namespace Sys2Proof.Laws

/-- The parcels of a number, put together again. -/
theorem concatParcels_wordParcels (n w : Nat) : concatParcels (wordParcels n w) = w % 65536 ^ n := by
  induction n generalizing w with
  | zero => simp [wordParcels, concatParcels, Nat.mod_one]
  | succ n ih =>
    have h : (BitVec.ofNat 16 w).toNat = w % 65536 := BitVec.toNat_ofNat w 16
    show (BitVec.ofNat 16 w).toNat + 65536 * concatParcels (wordParcels n (w / 65536)) = _
    rw [ih, h, Nat.pow_succ', Nat.mod_mul]

theorem length_wordParcels (n w : Nat) : (wordParcels n w).length = n := by
  induction n generalizing w with
  | zero => rfl
  | succ n ih => simp [wordParcels, ih]

namespace Enc

/-- The decoder reads the instruction from its code. -/
def Statement (i : Instr) : Prop := i.wf = true → ∀ c, encode i = some c → decodeCode c = some i

theorem tParcel (index : BitVec 9) (nm1 : BitVec 3) (g : BitVec 3) : Statement (.tParcel index nm1 g) := by
  intro _ c h
  cases h
  have h15 : (0#1 ++ index ++ nm1 ++ g).getLsbD 15 = false := by
    simp only [BitVec.getLsbD_append]
    rfl
  have hi : (0#1 ++ index ++ nm1 ++ g).extractLsb' 6 9 = index := by
    apply BitVec.eq_of_getLsbD_eq
    intro i hlt
    simp only [BitVec.getLsbD_extractLsb', BitVec.getLsbD_append, hlt, decide_true, Bool.true_and]
    rw [if_neg (by omega), if_neg (by omega), if_pos (by omega), show 6 + i - 3 - 3 = i from by omega]
  have hn : (0#1 ++ index ++ nm1 ++ g).extractLsb' 3 3 = nm1 := by
    apply BitVec.eq_of_getLsbD_eq
    intro i hlt
    simp only [BitVec.getLsbD_extractLsb', BitVec.getLsbD_append, hlt, decide_true, Bool.true_and]
    rw [if_neg (by omega), if_pos (by omega), show 3 + i - 3 = i from by omega]
  have hg : (0#1 ++ index ++ nm1 ++ g).extractLsb' 0 3 = g := by
    apply BitVec.eq_of_getLsbD_eq
    intro i hlt
    simp only [BitVec.getLsbD_extractLsb', BitVec.getLsbD_append, hlt, decide_true, Bool.true_and]
    rw [if_pos (by omega), show 0 + i = i from by omega]
  simp only [decodeCode, decodeParcels, h15, if_true, hi, hn, hg]

theorem repetition : Statement .repetition := by
  intro _ c h
  cases h

theorem iParcel (chunk : BitVec 14) : Statement (.iParcel chunk) := by
  intro _ c h
  cases h
  have h15 : (0b10#2 ++ chunk).getLsbD 15 = true := by
    rw [BitVec.getLsbD_append]
    rfl
  have h14 : (0b10#2 ++ chunk).getLsbD 14 = false := by
    rw [BitVec.getLsbD_append]
    rfl
  have hc : (0b10#2 ++ chunk).extractLsb' 0 14 = chunk := by
    apply BitVec.eq_of_getLsbD_eq
    intro i hlt
    simp only [BitVec.getLsbD_extractLsb', BitVec.getLsbD_append, hlt, decide_true, Bool.true_and]
    rw [if_pos (by omega), show 0 + i = i from by omega]
  simp only [decodeCode, decodeParcels, h15, h14, if_true, hc, Bool.true_eq_false, if_false]

theorem idle (arg : BitVec 8) : Statement (.idle arg) := by
  intro _ c h
  cases h
  have hall : ∀ x : BitVec 8, decodeCode (.parcels [0xC0#8 ++ x]) = some (.idle x) := by decide
  exact hall arg

theorem inline (w : BitVec 256) : Statement (.inline w) := by
  intro _ c h
  cases h
  have hl : ¬ (wordParcels 16 w.toNat).length < 16 := by rw [length_wordParcels]; omega
  have ht : (wordParcels 16 w.toNat).take 16 = wordParcels 16 w.toNat :=
    List.take_of_length_le (by simp only [length_wordParcels]; decide)
  have hw : concatParcels (wordParcels 16 w.toNat) = w.toNat := by
    rw [concatParcels_wordParcels]
    exact Nat.mod_eq_of_lt (by have := w.isLt; omega)
  have hd : decodeC 1 0 (wordParcels 16 w.toNat) = .ok (.inline w) := by
    simp only [decodeC, ne_eq, not_true_eq_false, if_false, if_neg hl, ht, hw, BitVec.ofNat_toNat, BitVec.setWidth_eq]
  have hp : decodeParcels (0xC100#16 :: wordParcels 16 w.toNat) = decodeC 1 0 (wordParcels 16 w.toNat) := rfl
  simp only [decodeCode, hp, hd]

theorem bank (n : BitVec 8) : Statement (.bank n) := by
  intro _ c h
  cases h
  have hall : ∀ x : BitVec 8, decodeCode (.parcels [0xC2#8 ++ x]) = some (.bank x) := by decide
  exact hall n

theorem annulledIssue : Statement .annulledIssue := by
  intro _ c h
  cases h

theorem issueChoice (t : Nat) : Statement (.issueChoice t) := by
  intro _ c h
  cases h

theorem resultDelivery (t k : Nat) (u : UnitId) : Statement (.resultDelivery t k u) := by
  intro _ c h
  cases h

theorem checkFail (t k : Nat) : Statement (.checkFail t k) := by
  intro _ c h
  cases h

theorem overlayLoaded (t : Nat) : Statement (.overlayLoaded t) := by
  intro _ c h
  cases h

theorem divideDeliver (t : Nat) : Statement (.divideDeliver t) := by
  intro _ c h
  cases h

theorem expansionStep (t k : Nat) : Statement (.expansionStep t k) := by
  intro _ c h
  cases h

theorem blkStep (t k : Nat) : Statement (.blkStep t k) := by
  intro _ c h
  cases h

theorem translationRequest (p : Nat) : Statement (.translationRequest p) := by
  intro _ c h
  cases h

theorem pageWalkDone (w : Nat) : Statement (.pageWalkDone w) := by
  intro _ c h
  cases h

theorem l2Access (p : Nat) : Statement (.l2Access p) := by
  intro _ c h
  cases h

theorem sorusPoolAccess (p : Nat) : Statement (.sorusPoolAccess p) := by
  intro _ c h
  cases h

theorem wrsTimeout (t k : Nat) : Statement (.wrsTimeout t k) := by
  intro _ c h
  cases h

theorem lockedReservationExpire (t g : Nat) : Statement (.lockedReservationExpire t g) := by
  intro _ c h
  cases h

theorem atomicPerform (p : Nat) : Statement (.atomicPerform p) := by
  intro _ c h
  cases h

theorem scWindowPerform (t : Nat) : Statement (.scWindowPerform t) := by
  intro _ c h
  cases h

theorem semWaitTimeout (t k : Nat) : Statement (.semWaitTimeout t k) := by
  intro _ c h
  cases h

theorem semSignalArrive (p : Nat) : Statement (.semSignalArrive p) := by
  intro _ c h
  cases h

theorem handlerStart (t : Nat) : Statement (.handlerStart t) := by
  intro _ c h
  cases h

theorem netPiece (t i : Nat) : Statement (.netPiece t i) := by
  intro _ c h
  cases h

theorem messageArrive (p : Nat) : Statement (.messageArrive p) := by
  intro _ c h
  cases h

theorem migrationArrive (p : Nat) : Statement (.migrationArrive p) := by
  intro _ c h
  cases h

theorem migrationRefused (p : Nat) : Statement (.migrationRefused p) := by
  intro _ c h
  cases h

theorem ipiArrive (p : Nat) : Statement (.ipiArrive p) := by
  intro _ c h
  cases h

theorem barrierReport (p : Nat) : Statement (.barrierReport p) := by
  intro _ c h
  cases h

theorem barrierRelease (p : Nat) : Statement (.barrierRelease p) := by
  intro _ c h
  cases h

theorem barrierReleaseDelayed (t b : Nat) : Statement (.barrierReleaseDelayed t b) := by
  intro _ c h
  cases h

theorem channelLineArrive (p : Nat) : Statement (.channelLineArrive p) := by
  intro _ c h
  cases h

theorem creditArrive (p : Nat) : Statement (.creditArrive p) := by
  intro _ c h
  cases h

theorem streamLineArrive (p : Nat) : Statement (.streamLineArrive p) := by
  intro _ c h
  cases h

theorem mergeRecord (t e : Nat) : Statement (.mergeRecord t e) := by
  intro _ c h
  cases h

theorem streamOutput (t e : Nat) : Statement (.streamOutput t e) := by
  intro _ c h
  cases h

theorem scaleupFrame (f : Frame) : Statement (.scaleupFrame f) := by
  intro _ c h
  cases h

theorem copyPiece (t e : Nat) : Statement (.copyPiece t e) := by
  intro _ c h
  cases h

theorem copyRecordPost (t e : Nat) : Statement (.copyRecordPost t e) := by
  intro _ c h
  cases h

theorem mxNop (t : Nat) : Statement (.mxNop t) := by
  intro _ c h
  cases h
  rfl

theorem mxClaim (t : Nat) : Statement (.mxClaim t) := by
  intro _ c h
  cases h
  rfl

theorem mxRelease (t : Nat) : Statement (.mxRelease t) := by
  intro _ c h
  cases h
  rfl

theorem mxLoad (t : Nat) : Statement (.mxLoad t) := by
  intro _ c h
  cases h
  rfl

theorem mxScale (t : Nat) : Statement (.mxScale t) := by
  intro _ c h
  cases h
  rfl

theorem mxMma (t : Nat) : Statement (.mxMma t) := by
  intro _ c h
  cases h
  rfl

theorem mxMmat (t : Nat) : Statement (.mxMmat t) := by
  intro _ c h
  cases h
  rfl

theorem mxZero (t : Nat) : Statement (.mxZero t) := by
  intro _ c h
  cases h
  rfl

theorem mxStore (t : Nat) : Statement (.mxStore t) := by
  intro _ c h
  cases h
  rfl

theorem mxFence (t : Nat) : Statement (.mxFence t) := by
  intro _ c h
  cases h
  rfl

theorem mxComplete (t : Nat) : Statement (.mxComplete t) := by
  intro _ c h
  cases h

theorem trapEntry (t k : Nat) : Statement (.trapEntry t k) := by
  intro _ c h
  cases h

theorem faultRecordPost (t : Nat) : Statement (.faultRecordPost t) := by
  intro _ c h
  cases h

theorem watchdog (t k : Nat) : Statement (.watchdog t k) := by
  intro _ c h
  cases h

theorem recover (p : Nat) : Statement (.recover p) := by
  intro _ c h
  cases h

theorem doorbell (iod off size : Nat) (v : Word) : Statement (.doorbell iod off size v) := by
  intro _ c h
  cases h

theorem recordTake (q : Nat) : Statement (.recordTake q) := by
  intro _ c h
  cases h

theorem placement (p : Nat) : Statement (.placement p) := by
  intro _ c h
  cases h

theorem controlStrandStart (l : Nat) : Statement (.controlStrandStart l) := by
  intro _ c h
  cases h

theorem sorusComplete (l o : Nat) : Statement (.sorusComplete l o) := by
  intro _ c h
  cases h

theorem launchComplete (l : Nat) : Statement (.launchComplete l) := by
  intro _ c h
  cases h

theorem hostPoolWrite (iod off : Nat) (d : List Byte) : Statement (.hostPoolWrite iod off d) := by
  intro _ c h
  cases h

theorem hostPieceApply (t : Nat) : Statement (.hostPieceApply t) := by
  intro _ c h
  cases h

theorem hostPoolRead (iod off n : Nat) : Statement (.hostPoolRead iod off n) := by
  intro _ c h
  cases h

theorem hostHbmAccess (a : HbmAccess) : Statement (.hostHbmAccess a) := by
  intro _ c h
  cases h

theorem xlinvAll : Statement .xlinvAll := by
  intro _ c h
  cases h

theorem xlinvCtx (ctx : BitVec 16) : Statement (.xlinvCtx ctx) := by
  intro _ c h
  cases h

theorem xlinvRange (ctx : BitVec 16) : Statement (.xlinvRange ctx) := by
  intro _ c h
  cases h

theorem xlinvComplete : Statement .xlinvComplete := by
  intro _ c h
  cases h

theorem hipi (v : Word) : Statement (.hipi v) := by
  intro _ c h
  cases h

theorem deviceRegisterWrite (host : Bool) (x : Word) (v : Word) : Statement (.deviceRegisterWrite host x v) := by
  intro _ c h
  cases h

theorem gangSwitch (p : Nat) : Statement (.gangSwitch p) := by
  intro _ c h
  cases h

theorem gangRestore (p : Nat) : Statement (.gangRestore p) := by
  intro _ c h
  cases h

theorem gangCheckpoint (p : Nat) : Statement (.gangCheckpoint p) := by
  intro _ c h
  cases h

theorem strandResume (p lt slot : Nat) : Statement (.strandResume p lt slot) := by
  intro _ c h
  cases h

theorem endPartition (p : Nat) : Statement (.endPartition p) := by
  intro _ c h
  cases h

theorem checkpointTimer (p : Nat) : Statement (.checkpointTimer p) := by
  intro _ c h
  cases h

theorem gangStop (t : Nat) : Statement (.gangStop t) := by
  intro _ c h
  cases h

theorem gangSpill (p : Nat) : Statement (.gangSpill p) := by
  intro _ c h
  cases h

theorem gangSave (t : Nat) : Statement (.gangSave t) := by
  intro _ c h
  cases h

theorem gangOut (p : Nat) : Statement (.gangOut p) := by
  intro _ c h
  cases h

theorem spillCapture (p : Nat) : Statement (.spillCapture p) := by
  intro _ c h
  cases h

theorem restoreStart (p : Nat) : Statement (.restoreStart p) := by
  intro _ c h
  cases h

theorem budgetRefill (t : Nat) : Statement (.budgetRefill t) := by
  intro _ c h
  cases h

theorem stipeUpdate (i : Nat) : Statement (.stipeUpdate i) := by
  intro _ c h
  cases h

theorem diePowerMeasure (d : Nat) : Statement (.diePowerMeasure d) := by
  intro _ c h
  cases h

theorem powerStateDescend : Statement .powerStateDescend := by
  intro _ c h
  cases h

theorem powerWake : Statement .powerWake := by
  intro _ c h
  cases h

theorem hbmTempPoll : Statement .hbmTempPoll := by
  intro _ c h
  cases h

theorem scrubVisit (l : ScrubLoc) : Statement (.scrubVisit l) := by
  intro _ c h
  cases h

theorem linkDown (iod link : Nat) : Statement (.linkDown iod link) := by
  intro _ c h
  cases h

theorem chctlWrite (st ch : Nat) (v : Word) : Statement (.chctlWrite st ch v) := by
  intro _ c h
  cases h

theorem trainEffect (st ch : Nat) : Statement (.trainEffect st ch) := by
  intro _ c h
  cases h

theorem readTest (st ch : Nat) : Statement (.readTest st ch) := by
  intro _ c h
  cases h

theorem writeTest (st ch : Nat) : Statement (.writeTest st ch) := by
  intro _ c h
  cases h

theorem patternTestDone (st ch : Nat) : Statement (.patternTestDone st ch) := by
  intro _ c h
  cases h

theorem patternTestTimeout (st ch : Nat) : Statement (.patternTestTimeout st ch) := by
  intro _ c h
  cases h

theorem hmodeWrite (st ch n : Nat) (v : Word) : Statement (.hmodeWrite st ch n v) := by
  intro _ c h
  cases h

theorem deviceReset : Statement .deviceReset := by
  intro _ c h
  cases h

theorem recoveryImage (image : List Byte) : Statement (.recoveryImage image) := by
  intro _ c h
  cases h

theorem getVersion (body : List Byte) : Statement (.getVersion body) := by
  intro _ c h
  cases h

theorem getCapabilities (body : List Byte) : Statement (.getCapabilities body) := by
  intro _ c h
  cases h

theorem negotiateAlgorithms (body : List Byte) : Statement (.negotiateAlgorithms body) := by
  intro _ c h
  cases h

theorem getDigests (body : List Byte) : Statement (.getDigests body) := by
  intro _ c h
  cases h

theorem getCertificate (body : List Byte) : Statement (.getCertificate body) := by
  intro _ c h
  cases h

theorem challenge (body : List Byte) : Statement (.challenge body) := by
  intro _ c h
  cases h

theorem getMeasurements (body : List Byte) : Statement (.getMeasurements body) := by
  intro _ c h
  cases h

theorem configurationRequest (iod : Nat) (req : List Byte) : Statement (.configurationRequest iod req) := by
  intro _ c h
  cases h

theorem cuJmp (v : Word) : Statement (.cuJmp v) := by
  intro _ c h
  cases h
  rfl

theorem cuBr (v : Word) : Statement (.cuBr v) := by
  intro _ c h
  cases h
  rfl

theorem cuCall (v : Word) : Statement (.cuCall v) := by
  intro _ c h
  cases h
  rfl

theorem cuRet (v : Word) : Statement (.cuRet v) := by
  intro _ c h
  cases h
  rfl

theorem cuBrl (g : Bool) (v : Word) : Statement (.cuBrl g v) := by
  intro _ c h
  cases h
  rfl

theorem cuBrk (g : Bool) (v : Word) : Statement (.cuBrk g v) := by
  intro _ c h
  cases h
  rfl

theorem cuStart (v : Word) : Statement (.cuStart v) := by
  intro _ c h
  cases h
  rfl

theorem cuHalt (v : Word) : Statement (.cuHalt v) := by
  intro _ c h
  cases h
  rfl

theorem cuYield (v : Word) : Statement (.cuYield v) := by
  intro _ c h
  cases h
  rfl

theorem cuMeet (v : Word) : Statement (.cuMeet v) := by
  intro _ c h
  cases h
  rfl

theorem cuTrymeet (v : Word) : Statement (.cuTrymeet v) := by
  intro _ c h
  cases h
  rfl

theorem cuTload (v : Word) : Statement (.cuTload v) := by
  intro _ c h
  cases h
  rfl

theorem cuScall (v : Word) : Statement (.cuScall v) := by
  intro _ c h
  cases h
  rfl

theorem cuBkpt (v : Word) : Statement (.cuBkpt v) := by
  intro _ c h
  cases h
  rfl

theorem crfRd (v : Word) : Statement (.crfRd v) := by
  intro _ c h
  cases h
  rfl

theorem crfWr (v : Word) : Statement (.crfWr v) := by
  intro _ c h
  cases h
  rfl

theorem aluMov (u : Alu) (v : Word) : Statement (.aluMov u v) := by
  intro _ c h
  cases h
  cases u <;> rfl

theorem aluAdd (u : Alu) (v : Word) : Statement (.aluAdd u v) := by
  intro _ c h
  cases h
  cases u <;> rfl

theorem aluSub (u : Alu) (v : Word) : Statement (.aluSub u v) := by
  intro _ c h
  cases h
  cases u <;> rfl

theorem aluAdds (u : Alu) (v : Word) : Statement (.aluAdds u v) := by
  intro _ c h
  cases h
  cases u <;> rfl

theorem aluSubs (u : Alu) (v : Word) : Statement (.aluSubs u v) := by
  intro _ c h
  cases h
  cases u <;> rfl

theorem aluAddus (u : Alu) (v : Word) : Statement (.aluAddus u v) := by
  intro _ c h
  cases h
  cases u <;> rfl

theorem aluSubus (u : Alu) (v : Word) : Statement (.aluSubus u v) := by
  intro _ c h
  cases h
  cases u <;> rfl

theorem aluAddw (u : Alu) (v : Word) : Statement (.aluAddw u v) := by
  intro _ c h
  cases h
  cases u <;> rfl

theorem aluSubw (u : Alu) (v : Word) : Statement (.aluSubw u v) := by
  intro _ c h
  cases h
  cases u <;> rfl

theorem aluNeg (u : Alu) (v : Word) : Statement (.aluNeg u v) := by
  intro _ c h
  cases h
  cases u <;> rfl

theorem aluAbs (u : Alu) (v : Word) : Statement (.aluAbs u v) := by
  intro _ c h
  cases h
  cases u <;> rfl

theorem aluMin (u : Alu) (v : Word) : Statement (.aluMin u v) := by
  intro _ c h
  cases h
  cases u <;> rfl

theorem aluMax (u : Alu) (v : Word) : Statement (.aluMax u v) := by
  intro _ c h
  cases h
  cases u <;> rfl

theorem aluMinu (u : Alu) (v : Word) : Statement (.aluMinu u v) := by
  intro _ c h
  cases h
  cases u <;> rfl

theorem aluMaxu (u : Alu) (v : Word) : Statement (.aluMaxu u v) := by
  intro _ c h
  cases h
  cases u <;> rfl

theorem aluAnd (u : Alu) (v : Word) : Statement (.aluAnd u v) := by
  intro _ c h
  cases h
  cases u <;> rfl

theorem aluOr (u : Alu) (v : Word) : Statement (.aluOr u v) := by
  intro _ c h
  cases h
  cases u <;> rfl

theorem aluXor (u : Alu) (v : Word) : Statement (.aluXor u v) := by
  intro _ c h
  cases h
  cases u <;> rfl

theorem aluAndn (u : Alu) (v : Word) : Statement (.aluAndn u v) := by
  intro _ c h
  cases h
  cases u <;> rfl

theorem aluOrn (u : Alu) (v : Word) : Statement (.aluOrn u v) := by
  intro _ c h
  cases h
  cases u <;> rfl

theorem aluNot (u : Alu) (v : Word) : Statement (.aluNot u v) := by
  intro _ c h
  cases h
  cases u <;> rfl

theorem aluShl (u : Alu) (v : Word) : Statement (.aluShl u v) := by
  intro _ c h
  cases h
  cases u <;> rfl

theorem aluShr (u : Alu) (v : Word) : Statement (.aluShr u v) := by
  intro _ c h
  cases h
  cases u <;> rfl

theorem aluSar (u : Alu) (v : Word) : Statement (.aluSar u v) := by
  intro _ c h
  cases h
  cases u <;> rfl

theorem aluRol (u : Alu) (v : Word) : Statement (.aluRol u v) := by
  intro _ c h
  cases h
  cases u <;> rfl

theorem aluRor (u : Alu) (v : Word) : Statement (.aluRor u v) := by
  intro _ c h
  cases h
  cases u <;> rfl

theorem aluShlw (u : Alu) (v : Word) : Statement (.aluShlw u v) := by
  intro _ c h
  cases h
  cases u <;> rfl

theorem aluShrw (u : Alu) (v : Word) : Statement (.aluShrw u v) := by
  intro _ c h
  cases h
  cases u <;> rfl

theorem aluSarw (u : Alu) (v : Word) : Statement (.aluSarw u v) := by
  intro _ c h
  cases h
  cases u <;> rfl

theorem aluEq (u : Alu) (v : Word) : Statement (.aluEq u v) := by
  intro _ c h
  cases h
  cases u <;> rfl

theorem aluNe (u : Alu) (v : Word) : Statement (.aluNe u v) := by
  intro _ c h
  cases h
  cases u <;> rfl

theorem aluLt (u : Alu) (v : Word) : Statement (.aluLt u v) := by
  intro _ c h
  cases h
  cases u <;> rfl

theorem aluLe (u : Alu) (v : Word) : Statement (.aluLe u v) := by
  intro _ c h
  cases h
  cases u <;> rfl

theorem aluLtu (u : Alu) (v : Word) : Statement (.aluLtu u v) := by
  intro _ c h
  cases h
  cases u <;> rfl

theorem aluLeu (u : Alu) (v : Word) : Statement (.aluLeu u v) := by
  intro _ c h
  cases h
  cases u <;> rfl

theorem aluClz (u : Alu) (v : Word) : Statement (.aluClz u v) := by
  intro _ c h
  cases h
  cases u <;> rfl

theorem aluCtz (u : Alu) (v : Word) : Statement (.aluCtz u v) := by
  intro _ c h
  cases h
  cases u <;> rfl

theorem aluPopc (u : Alu) (v : Word) : Statement (.aluPopc u v) := by
  intro _ c h
  cases h
  cases u <;> rfl

theorem aluBswap (u : Alu) (v : Word) : Statement (.aluBswap u v) := by
  intro _ c h
  cases h
  cases u <;> rfl

theorem aluSxb (u : Alu) (v : Word) : Statement (.aluSxb u v) := by
  intro _ c h
  cases h
  cases u <;> rfl

theorem aluSxh (u : Alu) (v : Word) : Statement (.aluSxh u v) := by
  intro _ c h
  cases h
  cases u <;> rfl

theorem aluSxw (u : Alu) (v : Word) : Statement (.aluSxw u v) := by
  intro _ c h
  cases h
  cases u <;> rfl

theorem aluZxb (u : Alu) (v : Word) : Statement (.aluZxb u v) := by
  intro _ c h
  cases h
  cases u <;> rfl

theorem aluZxh (u : Alu) (v : Word) : Statement (.aluZxh u v) := by
  intro _ c h
  cases h
  cases u <;> rfl

theorem aluZxw (u : Alu) (v : Word) : Statement (.aluZxw u v) := by
  intro _ c h
  cases h
  cases u <;> rfl

theorem aluExt (u : Alu) (v : Word) : Statement (.aluExt u v) := by
  intro _ c h
  cases h
  cases u <;> rfl

theorem aluExtu (u : Alu) (v : Word) : Statement (.aluExtu u v) := by
  intro _ c h
  cases h
  cases u <;> rfl

theorem aluIns (u : Alu) (v : Word) : Statement (.aluIns u v) := by
  intro _ c h
  cases h
  cases u <;> rfl

theorem aluSel (u : Alu) (v : Word) : Statement (.aluSel u v) := by
  intro _ c h
  cases h
  cases u <;> rfl

theorem aluLea (u : Alu) (v : Word) : Statement (.aluLea u v) := by
  intro _ c h
  cases h
  cases u <;> rfl

theorem prdAnd (v : Word) : Statement (.prdAnd v) := by
  intro _ c h
  cases h
  rfl

theorem prdOr (v : Word) : Statement (.prdOr v) := by
  intro _ c h
  cases h
  rfl

theorem prdXor (v : Word) : Statement (.prdXor v) := by
  intro _ c h
  cases h
  rfl

theorem prdAndn (v : Word) : Statement (.prdAndn v) := by
  intro _ c h
  cases h
  rfl

theorem prdOrn (v : Word) : Statement (.prdOrn v) := by
  intro _ c h
  cases h
  rfl

theorem prdNot (v : Word) : Statement (.prdNot v) := by
  intro _ c h
  cases h
  rfl

theorem prdNz (v : Word) : Statement (.prdNz v) := by
  intro _ c h
  cases h
  rfl

theorem prdEz (v : Word) : Statement (.prdEz v) := by
  intro _ c h
  cases h
  rfl

theorem prdBit (v : Word) : Statement (.prdBit v) := by
  intro _ c h
  cases h
  rfl

theorem mduMul (v : Word) : Statement (.mduMul v) := by
  intro _ c h
  cases h
  rfl

theorem mduMulh (v : Word) : Statement (.mduMulh v) := by
  intro _ c h
  cases h
  rfl

theorem mduMulhu (v : Word) : Statement (.mduMulhu v) := by
  intro _ c h
  cases h
  rfl

theorem mduMulhsu (v : Word) : Statement (.mduMulhsu v) := by
  intro _ c h
  cases h
  rfl

theorem mduMulw (v : Word) : Statement (.mduMulw v) := by
  intro _ c h
  cases h
  rfl

theorem mduMac (v : Word) : Statement (.mduMac v) := by
  intro _ c h
  cases h
  rfl

theorem mduDiv (v : Word) : Statement (.mduDiv v) := by
  intro _ c h
  cases h
  rfl

theorem mduDivu (v : Word) : Statement (.mduDivu v) := by
  intro _ c h
  cases h
  rfl

theorem mduDivw (v : Word) : Statement (.mduDivw v) := by
  intro _ c h
  cases h
  rfl

theorem mduDivuw (v : Word) : Statement (.mduDivuw v) := by
  intro _ c h
  cases h
  rfl

theorem fpaAddd (v : Word) : Statement (.fpaAddd v) := by
  intro _ c h
  cases h
  rfl

theorem fpaSubd (v : Word) : Statement (.fpaSubd v) := by
  intro _ c h
  cases h
  rfl

theorem fpaMuld (v : Word) : Statement (.fpaMuld v) := by
  intro _ c h
  cases h
  rfl

theorem fpaFmad (v : Word) : Statement (.fpaFmad v) := by
  intro _ c h
  cases h
  rfl

theorem fpaFmsd (v : Word) : Statement (.fpaFmsd v) := by
  intro _ c h
  cases h
  rfl

theorem fpaFnmad (v : Word) : Statement (.fpaFnmad v) := by
  intro _ c h
  cases h
  rfl

theorem fpaDivd (v : Word) : Statement (.fpaDivd v) := by
  intro _ c h
  cases h
  rfl

theorem fpaSqrtd (v : Word) : Statement (.fpaSqrtd v) := by
  intro _ c h
  cases h
  rfl

theorem fpaMind (v : Word) : Statement (.fpaMind v) := by
  intro _ c h
  cases h
  rfl

theorem fpaMaxd (v : Word) : Statement (.fpaMaxd v) := by
  intro _ c h
  cases h
  rfl

theorem fpaAbsd (v : Word) : Statement (.fpaAbsd v) := by
  intro _ c h
  cases h
  rfl

theorem fpaNegd (v : Word) : Statement (.fpaNegd v) := by
  intro _ c h
  cases h
  rfl

theorem fpaCeqd (v : Word) : Statement (.fpaCeqd v) := by
  intro _ c h
  cases h
  rfl

theorem fpaCltd (v : Word) : Statement (.fpaCltd v) := by
  intro _ c h
  cases h
  rfl

theorem fpaCled (v : Word) : Statement (.fpaCled v) := by
  intro _ c h
  cases h
  rfl

theorem fpaCund (v : Word) : Statement (.fpaCund v) := by
  intro _ c h
  cases h
  rfl

theorem fpaClassd (v : Word) : Statement (.fpaClassd v) := by
  intro _ c h
  cases h
  rfl

theorem fpaRintd (v : Word) : Statement (.fpaRintd v) := by
  intro _ c h
  cases h
  rfl

theorem fpaAddf (v : Word) : Statement (.fpaAddf v) := by
  intro _ c h
  cases h
  rfl

theorem fpaSubf (v : Word) : Statement (.fpaSubf v) := by
  intro _ c h
  cases h
  rfl

theorem fpaMulf (v : Word) : Statement (.fpaMulf v) := by
  intro _ c h
  cases h
  rfl

theorem fpaFmaf (v : Word) : Statement (.fpaFmaf v) := by
  intro _ c h
  cases h
  rfl

theorem fpaMinf (v : Word) : Statement (.fpaMinf v) := by
  intro _ c h
  cases h
  rfl

theorem fpaMaxf (v : Word) : Statement (.fpaMaxf v) := by
  intro _ c h
  cases h
  rfl

theorem fpaCeqf (v : Word) : Statement (.fpaCeqf v) := by
  intro _ c h
  cases h
  rfl

theorem fpaCltf (v : Word) : Statement (.fpaCltf v) := by
  intro _ c h
  cases h
  rfl

theorem fpaClef (v : Word) : Statement (.fpaClef v) := by
  intro _ c h
  cases h
  rfl

theorem fpaCvtfd (v : Word) : Statement (.fpaCvtfd v) := by
  intro _ c h
  cases h
  rfl

theorem fpaCvtdf (v : Word) : Statement (.fpaCvtdf v) := by
  intro _ c h
  cases h
  rfl

theorem fpaCvtdl (v : Word) : Statement (.fpaCvtdl v) := by
  intro _ c h
  cases h
  rfl

theorem fpaCvtld (v : Word) : Statement (.fpaCvtld v) := by
  intro _ c h
  cases h
  rfl

theorem fpaCvtdlu (v : Word) : Statement (.fpaCvtdlu v) := by
  intro _ c h
  cases h
  rfl

theorem fpaCvtlud (v : Word) : Statement (.fpaCvtlud v) := by
  intro _ c h
  cases h
  rfl

theorem fpaCvtfw (v : Word) : Statement (.fpaCvtfw v) := by
  intro _ c h
  cases h
  rfl

theorem fpaCvtwf (v : Word) : Statement (.fpaCvtwf v) := by
  intro _ c h
  cases h
  rfl

theorem fpaCvtdh (v : Word) : Statement (.fpaCvtdh v) := by
  intro _ c h
  cases h
  rfl

theorem fpaCvthd (v : Word) : Statement (.fpaCvthd v) := by
  intro _ c h
  cases h
  rfl

theorem fpaCvtdb (v : Word) : Statement (.fpaCvtdb v) := by
  intro _ c h
  cases h
  rfl

theorem fpaCvtbd (v : Word) : Statement (.fpaCvtbd v) := by
  intro _ c h
  cases h
  rfl

theorem sfuRcp (v : Word) : Statement (.sfuRcp v) := by
  intro _ c h
  cases h
  rfl

theorem sfuRsqrt (v : Word) : Statement (.sfuRsqrt v) := by
  intro _ c h
  cases h
  rfl

theorem sfuSqrt (v : Word) : Statement (.sfuSqrt v) := by
  intro _ c h
  cases h
  rfl

theorem sfuExp2 (v : Word) : Statement (.sfuExp2 v) := by
  intro _ c h
  cases h
  rfl

theorem sfuExp (v : Word) : Statement (.sfuExp v) := by
  intro _ c h
  cases h
  rfl

theorem sfuLog2 (v : Word) : Statement (.sfuLog2 v) := by
  intro _ c h
  cases h
  rfl

theorem sfuLn (v : Word) : Statement (.sfuLn v) := by
  intro _ c h
  cases h
  rfl

theorem sfuSinpi (v : Word) : Statement (.sfuSinpi v) := by
  intro _ c h
  cases h
  rfl

theorem sfuCospi (v : Word) : Statement (.sfuCospi v) := by
  intro _ c h
  cases h
  rfl

theorem sfuTanh (v : Word) : Statement (.sfuTanh v) := by
  intro _ c h
  cases h
  rfl

theorem sfuSigm (v : Word) : Statement (.sfuSigm v) := by
  intro _ c h
  cases h
  rfl

theorem sfuGelu (v : Word) : Statement (.sfuGelu v) := by
  intro _ c h
  cases h
  rfl

theorem sfuSilu (v : Word) : Statement (.sfuSilu v) := by
  intro _ c h
  cases h
  rfl

theorem sfuErf (v : Word) : Statement (.sfuErf v) := by
  intro _ c h
  cases h
  rfl

theorem lsuLdb (v : Word) : Statement (.lsuLdb v) := by
  intro _ c h
  cases h
  rfl

theorem lsuLdbu (v : Word) : Statement (.lsuLdbu v) := by
  intro _ c h
  cases h
  rfl

theorem lsuLdh (v : Word) : Statement (.lsuLdh v) := by
  intro _ c h
  cases h
  rfl

theorem lsuLdhu (v : Word) : Statement (.lsuLdhu v) := by
  intro _ c h
  cases h
  rfl

theorem lsuLdw (v : Word) : Statement (.lsuLdw v) := by
  intro _ c h
  cases h
  rfl

theorem lsuLdwu (v : Word) : Statement (.lsuLdwu v) := by
  intro _ c h
  cases h
  rfl

theorem lsuLdd (v : Word) : Statement (.lsuLdd v) := by
  intro _ c h
  cases h
  rfl

theorem lsuLdl (v : Word) : Statement (.lsuLdl v) := by
  intro _ c h
  cases h
  rfl

theorem lsuStb (v : Word) : Statement (.lsuStb v) := by
  intro _ c h
  cases h
  rfl

theorem lsuSth (v : Word) : Statement (.lsuSth v) := by
  intro _ c h
  cases h
  rfl

theorem lsuStw (v : Word) : Statement (.lsuStw v) := by
  intro _ c h
  cases h
  rfl

theorem lsuStd (v : Word) : Statement (.lsuStd v) := by
  intro _ c h
  cases h
  rfl

theorem lsuStl (v : Word) : Statement (.lsuStl v) := by
  intro _ c h
  cases h
  rfl

theorem lsuLdacq (v : Word) : Statement (.lsuLdacq v) := by
  intro _ c h
  cases h
  rfl

theorem lsuStrel (v : Word) : Statement (.lsuStrel v) := by
  intro _ c h
  cases h
  rfl

theorem lsuFence (v : Word) : Statement (.lsuFence v) := by
  intro _ c h
  cases h
  rfl

theorem lsuPf (v : Word) : Statement (.lsuPf v) := by
  intro _ c h
  cases h
  rfl

theorem lsuBlk (v : Word) : Statement (.lsuBlk v) := by
  intro _ c h
  cases h
  rfl

theorem atmAddw (v : Word) : Statement (.atmAddw v) := by
  intro _ c h
  cases h
  rfl

theorem atmAddd (v : Word) : Statement (.atmAddd v) := by
  intro _ c h
  cases h
  rfl

theorem atmAddf (v : Word) : Statement (.atmAddf v) := by
  intro _ c h
  cases h
  rfl

theorem atmMinw (v : Word) : Statement (.atmMinw v) := by
  intro _ c h
  cases h
  rfl

theorem atmMind (v : Word) : Statement (.atmMind v) := by
  intro _ c h
  cases h
  rfl

theorem atmMinuw (v : Word) : Statement (.atmMinuw v) := by
  intro _ c h
  cases h
  rfl

theorem atmMinud (v : Word) : Statement (.atmMinud v) := by
  intro _ c h
  cases h
  rfl

theorem atmMaxw (v : Word) : Statement (.atmMaxw v) := by
  intro _ c h
  cases h
  rfl

theorem atmMaxd (v : Word) : Statement (.atmMaxd v) := by
  intro _ c h
  cases h
  rfl

theorem atmMaxuw (v : Word) : Statement (.atmMaxuw v) := by
  intro _ c h
  cases h
  rfl

theorem atmMaxud (v : Word) : Statement (.atmMaxud v) := by
  intro _ c h
  cases h
  rfl

theorem atmAndw (v : Word) : Statement (.atmAndw v) := by
  intro _ c h
  cases h
  rfl

theorem atmAndd (v : Word) : Statement (.atmAndd v) := by
  intro _ c h
  cases h
  rfl

theorem atmOrw (v : Word) : Statement (.atmOrw v) := by
  intro _ c h
  cases h
  rfl

theorem atmOrd (v : Word) : Statement (.atmOrd v) := by
  intro _ c h
  cases h
  rfl

theorem atmXorw (v : Word) : Statement (.atmXorw v) := by
  intro _ c h
  cases h
  rfl

theorem atmXord (v : Word) : Statement (.atmXord v) := by
  intro _ c h
  cases h
  rfl

theorem atmSwpw (v : Word) : Statement (.atmSwpw v) := by
  intro _ c h
  cases h
  rfl

theorem atmSwpd (v : Word) : Statement (.atmSwpd v) := by
  intro _ c h
  cases h
  rfl

theorem atmCasw (v : Word) : Statement (.atmCasw v) := by
  intro _ c h
  cases h
  rfl

theorem atmCasd (v : Word) : Statement (.atmCasd v) := by
  intro _ c h
  cases h
  rfl

theorem atmLrw (v : Word) : Statement (.atmLrw v) := by
  intro _ c h
  cases h
  rfl

theorem atmLrd (v : Word) : Statement (.atmLrd v) := by
  intro _ c h
  cases h
  rfl

theorem atmScw (v : Word) : Statement (.atmScw v) := by
  intro _ c h
  cases h
  rfl

theorem atmScd (v : Word) : Statement (.atmScd v) := by
  intro _ c h
  cases h
  rfl

theorem atmWrs (v : Word) : Statement (.atmWrs v) := by
  intro _ c h
  cases h
  rfl

theorem semSig (v : Word) : Statement (.semSig v) := by
  intro _ c h
  cases h
  rfl

theorem semWait (v : Word) : Statement (.semWait v) := by
  intro _ c h
  cases h
  rfl

theorem semTrywait (v : Word) : Statement (.semTrywait v) := by
  intro _ c h
  cases h
  rfl

theorem semRd (v : Word) : Statement (.semRd v) := by
  intro _ c h
  cases h
  rfl

theorem semSet (v : Word) : Statement (.semSet v) := by
  intro _ c h
  cases h
  rfl

theorem semArm (v : Word) : Statement (.semArm v) := by
  intro _ c h
  cases h
  rfl

theorem semDisarm (v : Word) : Statement (.semDisarm v) := by
  intro _ c h
  cases h
  rfl

theorem netPut (v : Word) : Statement (.netPut v) := by
  intro _ c h
  cases h
  rfl

theorem netGet (v : Word) : Statement (.netGet v) := by
  intro _ c h
  cases h
  rfl

theorem netSend (v : Word) : Statement (.netSend v) := by
  intro _ c h
  cases h
  rfl

theorem netRecv (v : Word) : Statement (.netRecv v) := by
  intro _ c h
  cases h
  rfl

theorem netTryrecv (v : Word) : Statement (.netTryrecv v) := by
  intro _ c h
  cases h
  rfl

theorem netGo (v : Word) : Statement (.netGo v) := by
  intro _ c h
  cases h
  rfl

theorem netIpi (v : Word) : Statement (.netIpi v) := by
  intro _ c h
  cases h
  rfl

theorem netArrive (v : Word) : Statement (.netArrive v) := by
  intro _ c h
  cases h
  rfl

theorem netBarwait (v : Word) : Statement (.netBarwait v) := by
  intro _ c h
  cases h
  rfl

theorem netTrybarwait (v : Word) : Statement (.netTrybarwait v) := by
  intro _ c h
  cases h
  rfl

theorem chSend (v : Word) : Statement (.chSend v) := by
  intro _ c h
  cases h
  rfl

theorem chFree (v : Word) : Statement (.chFree v) := by
  intro _ c h
  cases h
  rfl

theorem chConf (v : Word) : Statement (.chConf v) := by
  intro _ c h
  cases h
  rfl

theorem stConf (v : Word) : Statement (.stConf v) := by
  intro _ c h
  cases h
  rfl

theorem chQuery (v : Word) : Statement (.chQuery v) := by
  intro _ c h
  cases h
  rfl

theorem dmaCopy (v : Word) : Statement (.dmaCopy v) := by
  intro _ c h
  cases h
  rfl

theorem dmaBind (v : Word) : Statement (.dmaBind v) := by
  intro _ c h
  cases h
  rfl

theorem dmaUnbind (v : Word) : Statement (.dmaUnbind v) := by
  intro _ c h
  cases h
  rfl

theorem dmaQuery (v : Word) : Statement (.dmaQuery v) := by
  intro _ c h
  cases h
  rfl

theorem dmaAbort (v : Word) : Statement (.dmaAbort v) := by
  intro _ c h
  cases h
  rfl

theorem stkW (k : Fin 4) (v : Word) : Statement (.stkW k v) := by
  intro _ c h
  cases h
  have hk : k = 0 ∨ k = 1 ∨ k = 2 ∨ k = 3 := by omega
  rcases hk with rfl | rfl | rfl | rfl <;> rfl

theorem vecShape (v : Word) : Statement (.vecShape v) := by
  intro _ c h
  cases h
  rfl

theorem vecRel (v : Word) : Statement (.vecRel v) := by
  intro _ c h
  cases h
  rfl

theorem vecEdge (v : Word) : Statement (.vecEdge v) := by
  intro _ c h
  cases h
  rfl

theorem vecLd (v : Word) : Statement (.vecLd v) := by
  intro _ c h
  cases h
  rfl

theorem vecSt (v : Word) : Statement (.vecSt v) := by
  intro _ c h
  cases h
  rfl

theorem vecGath (v : Word) : Statement (.vecGath v) := by
  intro _ c h
  cases h
  rfl

theorem vecScat (v : Word) : Statement (.vecScat v) := by
  intro _ c h
  cases h
  rfl

theorem vecAdd (v : Word) : Statement (.vecAdd v) := by
  intro _ c h
  cases h
  rfl

theorem vecSub (v : Word) : Statement (.vecSub v) := by
  intro _ c h
  cases h
  rfl

theorem vecMul (v : Word) : Statement (.vecMul v) := by
  intro _ c h
  cases h
  rfl

theorem vecFma (v : Word) : Statement (.vecFma v) := by
  intro _ c h
  cases h
  rfl

theorem vecFms (v : Word) : Statement (.vecFms v) := by
  intro _ c h
  cases h
  rfl

theorem vecFnma (v : Word) : Statement (.vecFnma v) := by
  intro _ c h
  cases h
  rfl

theorem vecMin (v : Word) : Statement (.vecMin v) := by
  intro _ c h
  cases h
  rfl

theorem vecMax (v : Word) : Statement (.vecMax v) := by
  intro _ c h
  cases h
  rfl

theorem vecAbs (v : Word) : Statement (.vecAbs v) := by
  intro _ c h
  cases h
  rfl

theorem vecNeg (v : Word) : Statement (.vecNeg v) := by
  intro _ c h
  cases h
  rfl

theorem vecAnd (v : Word) : Statement (.vecAnd v) := by
  intro _ c h
  cases h
  rfl

theorem vecOr (v : Word) : Statement (.vecOr v) := by
  intro _ c h
  cases h
  rfl

theorem vecXor (v : Word) : Statement (.vecXor v) := by
  intro _ c h
  cases h
  rfl

theorem vecShl (v : Word) : Statement (.vecShl v) := by
  intro _ c h
  cases h
  rfl

theorem vecShr (v : Word) : Statement (.vecShr v) := by
  intro _ c h
  cases h
  rfl

theorem vecSar (v : Word) : Statement (.vecSar v) := by
  intro _ c h
  cases h
  rfl

theorem vecCeq (v : Word) : Statement (.vecCeq v) := by
  intro _ c h
  cases h
  rfl

theorem vecCne (v : Word) : Statement (.vecCne v) := by
  intro _ c h
  cases h
  rfl

theorem vecClt (v : Word) : Statement (.vecClt v) := by
  intro _ c h
  cases h
  rfl

theorem vecCle (v : Word) : Statement (.vecCle v) := by
  intro _ c h
  cases h
  rfl

theorem vecSel (v : Word) : Statement (.vecSel v) := by
  intro _ c h
  cases h
  rfl

theorem vecCvt (v : Word) : Statement (.vecCvt v) := by
  intro _ c h
  cases h
  rfl

theorem vecCvtsr (v : Word) : Statement (.vecCvtsr v) := by
  intro _ c h
  cases h
  rfl

theorem vecBcrow (v : Word) : Statement (.vecBcrow v) := by
  intro _ c h
  cases h
  rfl

theorem vecBccol (v : Word) : Statement (.vecBccol v) := by
  intro _ c h
  cases h
  rfl

theorem vecBcs (v : Word) : Statement (.vecBcs v) := by
  intro _ c h
  cases h
  rfl

theorem vecRsum (v : Word) : Statement (.vecRsum v) := by
  intro _ c h
  cases h
  rfl

theorem vecRmax (v : Word) : Statement (.vecRmax v) := by
  intro _ c h
  cases h
  rfl

theorem vecRmin (v : Word) : Statement (.vecRmin v) := by
  intro _ c h
  cases h
  rfl

theorem vecRcp (v : Word) : Statement (.vecRcp v) := by
  intro _ c h
  cases h
  rfl

theorem vecRsqrt (v : Word) : Statement (.vecRsqrt v) := by
  intro _ c h
  cases h
  rfl

theorem vecExp2 (v : Word) : Statement (.vecExp2 v) := by
  intro _ c h
  cases h
  rfl

theorem vecMov (v : Word) : Statement (.vecMov v) := by
  intro _ c h
  cases h
  rfl

theorem vecTocr (v : Word) : Statement (.vecTocr v) := by
  intro _ c h
  cases h
  rfl

theorem vecFromcr (v : Word) : Statement (.vecFromcr v) := by
  intro _ c h
  cases h
  rfl

theorem vecAdds (v : Word) : Statement (.vecAdds v) := by
  intro _ c h
  cases h
  rfl

theorem vecSubs (v : Word) : Statement (.vecSubs v) := by
  intro _ c h
  cases h
  rfl

theorem vecClamp (v : Word) : Statement (.vecClamp v) := by
  intro _ c h
  cases h
  rfl

theorem vecIota (v : Word) : Statement (.vecIota v) := by
  intro _ c h
  cases h
  rfl

theorem vecMskand (v : Word) : Statement (.vecMskand v) := by
  intro _ c h
  cases h
  rfl

theorem vecMskor (v : Word) : Statement (.vecMskor v) := by
  intro _ c h
  cases h
  rfl

theorem vecMsknot (v : Word) : Statement (.vecMsknot v) := by
  intro _ c h
  cases h
  rfl

theorem vecRotr (v : Word) : Statement (.vecRotr v) := by
  intro _ c h
  cases h
  rfl

theorem sysEret (v : Word) : Statement (.sysEret v) := by
  intro _ c h
  cases h
  rfl

theorem sysRdsr (v : Word) : Statement (.sysRdsr v) := by
  intro _ c h
  cases h
  rfl

theorem sysWrsr (v : Word) : Statement (.sysWrsr v) := by
  intro _ c h
  cases h
  rfl

theorem sysXrd (v : Word) : Statement (.sysXrd v) := by
  intro _ c h
  cases h
  rfl

theorem sysXwr (v : Word) : Statement (.sysXwr v) := by
  intro _ c h
  cases h
  rfl

end Enc

end Sys2Proof.Laws
end

