-- ==== Sys2Proof/Tests/Slice0.lean ====
section
/-! SUPPORT. Tests: ill-formed terms that WellFormed refuses, words written out from the encodings of the manual, single
steps whose results the manual gives, and for every obligation with hypotheses a state and operands that meet them. -/
namespace Sys2Proof.Tests
set_option Elab.async false
open Sys2Proof Sys2Proof.Machine Sys2Proof.Claims

/-! ## Well-formedness -/

/-- A strand's event names a tile below 2^14 (R122) and a slot below 16 (R311). -/
theorem test_wf_places : (Instr.trapEntry 16383 15).wf = true ∧ (Instr.trapEntry 16384 0).wf = false ∧
    (Instr.trapEntry 0 16).wf = false ∧ (Instr.resultDelivery 0 16 .cu).wf = false ∧ (Instr.issueChoice 16384).wf = false := by
  decide

/-- Indices inside a tile: granules (R233), barriers (R338), stream entries (R274), copies (R101). -/
theorem test_wf_indices : (Instr.lockedReservationExpire 0 16384).wf = false ∧ (Instr.barrierReleaseDelayed 0 16).wf = false ∧
    (Instr.mergeRecord 0 64).wf = false ∧ (Instr.streamOutput 0 64).wf = false ∧ (Instr.copyPiece 0 32).wf = false ∧
    (Instr.copyRecordPost 0 32).wf = false := by decide

/-- Partitions, logical tiles, I/O dies, queues, stipes, dies, channels (R1, R5, R302, R356, R367). -/
theorem test_wf_device : (Instr.placement 288).wf = false ∧ (Instr.strandResume 0 65536 0).wf = false ∧
    (Instr.strandResume 0 0 16).wf = false ∧ (Instr.doorbell 2 0 8 0).wf = false ∧ (Instr.doorbell 0 0x80000 8 0).wf = false ∧
    (Instr.recordTake 131072).wf = false ∧ (Instr.stipeUpdate 1200).wf = false ∧ (Instr.diePowerMeasure 8).wf = false ∧
    (Instr.readTest 16 0).wf = false ∧ (Instr.readTest 0 32).wf = false ∧ (Instr.hmodeWrite 0 0 16 0).wf = false ∧
    (Instr.linkDown 0 65536).wf = false ∧ (Instr.configurationRequest 2 []).wf = false := by decide

/-- Payloads of the host, frames and scrubbed places (R391, R393, R382). -/
theorem test_wf_data : (Instr.hostPoolWrite 0 0 []).wf = false ∧ (Instr.hostPoolRead 0 0 4097).wf = false ∧
    (Instr.hostHbmAccess ⟨0, .cxl, 0, false, [], 0⟩).wf = false ∧ (Instr.hostHbmAccess ⟨0, .cxl, 0, true, [], 4⟩).wf = false ∧
    (Instr.scaleupFrame ⟨5, 0, 0, 0, 0, [], 0, 0⟩).wf = false ∧ (Instr.scaleupFrame ⟨1, 0, 0, 0, 64, [], 0, 0⟩).wf = false ∧
    (Instr.scaleupFrame ⟨1, 0, 0, 0, 0, List.replicate 65 0, 0, 0⟩).wf = false ∧ (Instr.scrubVisit (.pool 0 4)).wf = false ∧
    (Instr.scrubVisit (.opmem 0 0x20000)).wf = false ∧ (Instr.scrubVisit (.scale 0 0x2000)).wf = false ∧
    (Instr.scrubVisit (.l2 4)).wf = false ∧ (Instr.scrubVisit (.hbm 32)).wf = false := by decide

/-! ## Decoding -/

/-- T parcels: entry 5 with a repeat of four is 0x0158 (example under R39); an I parcel of chunk 0x2345 is 0xA345. -/
theorem test_decode_parcels : decodeParcels [0x0158] = .ok (.tParcel 5 3 0) ∧ decodeParcels [0xA345] = .ok (.iParcel 0x2345) ∧
    decodeParcels [0b1100000000000011] = .ok (.idle 3) ∧ decodeParcels [0b1100001000000010] = .ok (.bank 2) := by
  refine ⟨?_, ?_, ?_, ?_⟩ <;> rfl

/-- R27, R32: undefined forms, an undefined subcode, an inline word cut off, an inline parcel with an argument, no parcel. -/
theorem test_decode_refused : decodeParcels [0xD000] = .error 0 ∧ decodeParcels [0xC300] = .error 1 ∧
    decodeParcels [0xC100, 0] = .error 4 ∧ decodeParcels (0xC101 :: List.replicate 16 0) = .error 5 ∧
    decodeParcels [] = .error 4 := by
  refine ⟨?_, ?_, ?_, ?_, ?_⟩ <;> rfl

/-- An inline word: parcel j after the head holds bits [16j+15:16j] (R32). -/
theorem test_decode_inline : decodeParcels (0xC100 :: 0x0001 :: 0x0002 :: List.replicate 14 0) = .ok (.inline 0x20001) := by
  rfl

/-- Slots: s1 to alu1.a is 0x004_2400 and the short immediate 3 to alu1.shl is 0x080_64C8 (example under R143); s1 to lsu.a
with keep is 0x004_2B04 (example under R39); c17 to lsu.a under p2 is 0x262_2B00. -/
theorem test_decode_slots : decodeSlot 0x0042400 = ⟨0, 0x021, 0x080, false, 0⟩ ∧
    decodeSlot 0x08064C8 = ⟨0, 0x403, 0x099, false, 0⟩ ∧ decodeSlot 0x0042B04 = ⟨0, 0x021, 0x160, true, 0⟩ ∧
    decodeSlot 0x2622B00 = ⟨2, 0x311, 0x160, false, 0⟩ := by decide

/-- The whole word of the manual's first example of an encoding, and the word of eight empty slots (R16, R17, R35). -/
theorem test_decode_word :
    decodeWord 0x00000000800000080000008000000800000080000002622B0000482280046200#256 =
      { slots := [⟨0, 0x023, 0x040, false, 0⟩, ⟨0, 0x024, 0x045, false, 0⟩, ⟨2, 0x311, 0x160, false, 0⟩, ⟨8, 0, 0, false, 0⟩,
          ⟨8, 0, 0, false, 0⟩, ⟨8, 0, 0, false, 0⟩, ⟨8, 0, 0, false, 0⟩, ⟨8, 0, 0, false, 0⟩],
        limm := 0, hwin := false, syncpt := false, flagRes := 0 } ∧
    (decodeWord emptyWord).slots = List.replicate 8 ⟨8, 0, 0, false, 0⟩ := by decide

/-- Ports of each family (R40 to R43), the first and the last of a unit's triggers. -/
theorem test_decode_ports_scalar :
    decodeTrigger 0x003 1 false 0 = some (.cuJmp 1) ∧ decodeTrigger 0x010 1 false 0 = some (.cuBkpt 1) ∧
    decodeTrigger 0x099 3 false 0 = some (.aluShl .alu1 3) ∧ decodeTrigger 0x059 3 false 0 = some (.aluShl .alu0 3) ∧
    decodeTrigger 0x075 3 false 0 = some (.aluLea .alu0 3) ∧ decodeTrigger 0x0CD 3 false 0 = some (.mduDivuw 3) ∧
    decodeTrigger 0x0E3 3 false 0 = some (.prdAnd 3) ∧ decodeTrigger 0x0EB 3 false 0 = some (.prdBit 3) ∧
    decodeTrigger 0x0F2 3 false 0 = some (.crfRd 3) ∧ decodeTrigger 0x0F3 3 false 0 = some (.crfWr 3) ∧
    decodeTrigger 0x105 3 false 0 = some (.fpaAddd 3) ∧ decodeTrigger 0x12B 3 false 0 = some (.fpaCvtbd 3) ∧
    decodeTrigger 0x142 3 false 0 = some (.sfuRcp 3) ∧ decodeTrigger 0x14F 3 false 0 = some (.sfuErf 3) := by decide

theorem test_decode_ports_memory :
    decodeTrigger 0x164 1 false 0 = some (.lsuLdb 1) ∧ decodeTrigger 0x16F 1 false 0 = some (.lsuStd 1) ∧
    decodeTrigger 0x175 1 false 0 = some (.lsuBlk 1) ∧ decodeTrigger 0x1A5 1 false 0 = some (.atmAddw 1) ∧
    decodeTrigger 0x1BE 1 false 0 = some (.atmWrs 1) ∧ decodeTrigger 0x1C4 1 false 0 = some (.semSig 1) ∧
    decodeTrigger 0x1CA 1 false 0 = some (.semDisarm 1) ∧ decodeTrigger 0x1E5 1 false 0 = some (.netPut 1) ∧
    decodeTrigger 0x1EE 1 false 0 = some (.chSend 1) ∧ decodeTrigger 0x1EE 1 false 4 = some (.chQuery 1) ∧
    decodeTrigger 0x1EF 1 false 0 = some (.netIpi 1) ∧ decodeTrigger 0x203 1 false 0 = some (.dmaCopy 1) ∧
    decodeTrigger 0x225 1 false 0 = some (.stkW 2 1) ∧ decodeTrigger 0x244 1 false 0 = some (.vecShape 1) ∧
    decodeTrigger 0x275 1 false 0 = some (.vecRel 1) ∧ decodeTrigger 0x2C6 1 false 0 = some (.sysXwr 1) := by decide

/-- No operation at a port that is not a trigger (R19, R40), and no matrix opcode above 0x09 (R201). -/
theorem test_decode_ports_refused : decodeTrigger 0x002 1 false 0 = none ∧ decodeTrigger 0x076 1 false 0 = none ∧
    decodeTrigger 0x176 1 false 0 = none ∧ decodeTrigger 0x1F0 1 false 0 = none ∧ decodeTrigger 0x2C7 1 false 0 = none ∧
    decodeMx 9 0 = some (.mxFence 0) ∧ decodeMx 10 0 = none := by decide

/-- A T parcel placed where the next step fetches is what the decoder reads there (R30, R34). -/
theorem test_fetch_word : decodeParcels ((State.reset.withFetchWord 16 0x0158).parcels 0 0 17) = .ok (.tParcel 5 3 0) := by
  rfl

/-! ## Single steps -/

/-- Tile 0 runs a launch of one tile, and its strand 0 issues. -/
def one : State := State.reset.withParcels []

/-- The issuing strand changed. -/
def me (s : State) (f : Strand → Strand) : State := s.setMe (f s.me)

/-- Its tile changed. -/
def here (s : State) (f : Tile → Tile) : State := s.setHere (f s.here)

/-- Operand latches of its current bank. -/
def ops (s : State) (l : Map Word) : State := me s fun st => st.setBank { st.bank with ops := l }

/-- The y and the z of the latest result of the strand that issued. -/
def yOf (o : Out) : Option Word :=
  match o with
  | .next t => t.me.bank.res.getLast?.bind Res.y
  | _ => none

def zOf (o : Out) : Option Word :=
  match o with
  | .next t => t.me.bank.res.getLast?.bind Res.z
  | _ => none

/-- What holds of the next state, if there is one. -/
def after (o : Out) (p : State → Bool) : Bool :=
  match o with
  | .next t => p t
  | _ => false

/-- s3 = 0xF000_0000_0000_0000, b = 3 and v = 0x20 give 0xF000_0000_0000_0100 (the example under R143). -/
theorem test_alu_lea : yOf (exec (.aluLea .alu1 0x20) (ops one [(0x080, 0xF000000000000000), (0x081, 3)])) =
    some 0xF000000000000100 := by decide +kernel

/-- alu1.shl by 3 of 5 (R140). -/
theorem test_alu_shl : yOf (exec (.aluShl .alu1 3) (ops one [(0x080, 5)])) = some 40 := by decide +kernel

/-- 2^64 − 1 and 1 wrap to 0 with C set and V clear (R140). -/
theorem test_alu_add_wraps : yOf (exec (.aluAdd .alu0 1) (ops one [(0x040, 0xFFFFFFFFFFFFFFFF)])) = some 0 ∧
    zOf (exec (.aluAdd .alu0 1) (ops one [(0x040, 0xFFFFFFFFFFFFFFFF)])) = some 1 := by decide +kernel

/-- adds of the greatest number and 1 saturates with V and S (R140). -/
theorem test_alu_adds : yOf (exec (.aluAdds .alu0 1) (ops one [(0x040, 0x7FFFFFFFFFFFFFFF)])) = some 0x7FFFFFFFFFFFFFFF ∧
    zOf (exec (.aluAdds .alu0 1) (ops one [(0x040, 0x7FFFFFFFFFFFFFFF)])) = some 6 := by decide +kernel

/-- sarw works on 32 bits and sign-extends (R140); clz of 0 is 64. -/
theorem test_alu_sarw_clz : yOf (exec (.aluSarw .alu0 4) (ops one [(0x040, 0x80000000)])) = some 0xFFFFFFFFF8000000 ∧
    yOf (exec (.aluClz .alu0 0) one) = some 64 := by decide +kernel

/-- A field that would pass bit 63 is cut there and says so (R141): position 60, length 8. -/
theorem test_alu_ins : yOf (exec (.aluIns .alu0 (60 + 64 * 7)) (ops one [(0x040, 1), (0x041, 0xFF)])) = some 0xF000000000000001 ∧
    zOf (exec (.aluIns .alu0 (60 + 64 * 7)) (ops one [(0x040, 1), (0x041, 0xFF)])) = some 1 := by decide +kernel

/-- The keep-mask keeps bits of a (R149): the rest are a ∧ v. -/
theorem test_prd_and : yOf (exec (.prdAnd 0b0110) (ops one [(0x0E0, 0b1100), (0x0E1, 0b1000)])) = some 0b1100 := by decide +kernel

/-- −2 × 6: the product's halves (R144). -/
theorem test_mdu_mul : yOf (exec (.mduMul 6) (ops one [(0x0C0, -2)])) = some (-12) ∧
    zOf (exec (.mduMul 6) (ops one [(0x0C0, -2)])) = some (-1) := by decide +kernel

/-- A division by 0 without IDZE gives all ones and the dividend (R145), and with it traps 0x27 (R146). -/
theorem test_mdu_div : yOf (exec (.mduDiv 0) (ops one [(0x0C0, 7)])) = some (-1) ∧
    zOf (exec (.mduDiv 0) (ops one [(0x0C0, 7)])) = some 7 ∧
    after (exec (.mduDiv 0) (me one fun st => { st with mode := 0x40000 })) (fun t =>
      t.me.latched.map (fun l => (l.cause, l.op.port)) == [(0x27, 0x0CA)]) = true := by decide +kernel

/-- −7 / 2 truncates toward zero with remainder −1 (R145). -/
theorem test_mdu_div_trunc : yOf (exec (.mduDiv 2) (ops one [(0x0C0, -7)])) = some (-3) ∧
    zOf (exec (.mduDiv 2) (ops one [(0x0C0, -7)])) = some (-1) := by decide +kernel

/-- 1 + 1 = 2 in FP64, and 1 + 2^−53 ties to the even 1, inexact (R65, R155). -/
theorem test_fpa_addd : yOf (exec (.fpaAddd 0x3FF0000000000000) (ops one [(0x100, 0x3FF0000000000000)])) =
    some 0x4000000000000000 ∧
    yOf (exec (.fpaAddd 0x3CA0000000000000) (ops one [(0x100, 0x3FF0000000000000)])) = some 0x3FF0000000000000 ∧
    zOf (exec (.fpaAddd 0x3CA0000000000000) (ops one [(0x100, 0x3FF0000000000000)])) = some 1 := by decide +kernel

/-- −0 is the minimum of the zeros (R157); an FP64 NaN compares as unordered (R158). -/
theorem test_fpa_mind_cund : yOf (exec (.fpaMind 0) (ops one [(0x100, 0x8000000000000000)])) = some 0x8000000000000000 ∧
    yOf (exec (.fpaCund 0x7FF8000000000000) one) = some 1 := by decide +kernel

/-- With the invalid trap enabled 0 × inf delivers nothing and traps 0x28 (R164). -/
theorem test_fpa_trap : after (exec (.fpaMuld 0x7FF0000000000000) (me one fun st => { st with mode := 0x800000 })) (fun t =>
    t.me.latched.map (fun l => (l.cause, l.op.port)) == [(0x28, 0x107)] && t.me.bank.res == []) = true := by decide +kernel

/-- R71's table: FP32 values to FP8-E4M3. 470 overflows to NaN, saturates under SATF, and RTZ gives 448; −0.001 rounds up. -/
theorem test_convert_e4m3 :
    (e4m3.convert .rne false (fp32.decode 0x43EB0000)) = { code := 0x7F, flags := 5, sat := false } ∧
    (e4m3.convert .rne true (fp32.decode 0x43EB0000)).code = 0x7E ∧ (e4m3.convert .rtz false (fp32.decode 0x43EB0000)).code = 0x7E ∧
    (e4m3.convert .rtz false (fp32.decode 0x43EB0000)).flags = 1 ∧ (e4m3.convert .rtz false (fp32.decode 0x44160000)).flags = 5 ∧
    (e4m3.convert .rne false (fp32.decode 0x3E99999A)).code = 0x2A ∧ (e4m3.convert .rne false (fp32.decode 0x43E60000)).code = 0x7E ∧
    (e4m3.convert .rne false (fp32.decode 0xBA83126F)).code = 0x81 ∧ (e4m3.convert .rne true (fp32.decode 0xFF800000)).code = 0xFE ∧
    (e4m3.convert .rne false (fp32.decode 0xFFC00001)) = { code := 0x7F, flags := 0, sat := false } := by decide +kernel

/-- 2.6875 to FP4-E2M1 under SR with draws 0x4000 and 0x5000 (example under R67); 1, −1, 28 and 0.0625 in FP6-E3M2
(example under R56). -/
theorem test_convert_sr : (e2m1.convert (.sr 0x4000) false (fp32.decode 0x402C0000)).code = 4 ∧
    (e2m1.convert (.sr 0x5000) false (fp32.decode 0x402C0000)).code = 5 ∧
    packElems 6 [(e3m2.convert .rne false (fp32.decode 0x3F800000)).code, (e3m2.convert .rne false (fp32.decode 0xBF800000)).code,
      (e3m2.convert .rne false (fp32.decode 0x41E00000)).code, (e3m2.convert .rne false (fp32.decode 0x3D800000)).code] =
      0x05FB0C + 2 ^ 18 * 0 + 0 := by decide +kernel

/-- sfu.rcp of −0 in FP32 is −infinity (R168). -/
theorem test_sfu_rcp : yOf (exec (.sfuRcp 0x80000000) one) = some 0xFF800000 := by decide +kernel

/-- A store writes the low bytes little-endian (R125), and a load sign-extends them. -/
theorem test_lsu_store_load :
    after (exec (.lsuSth 0x8102) (ops one [(0x160, 0xF000000000004010)])) (fun t =>
      t.here.pool == [(0x4010, 0x02), (0x4011, 0x81)] &&
        yOf (exec (.lsuLdh 0x4010) (ops t [(0x160, 0xF000000000000000)])) == some 0xFFFFFFFFFFFF8102) = true := by decide +kernel

/-- A misaligned word load is latched with trap 0x0E (R126), a user's access to the register partition with 0x0F (R113). -/
theorem test_lsu_traps :
    after (exec (.lsuLdw 0x4012) (ops one [(0x160, 0xF000000000000000)])) (fun t => t.me.latched.map Latched.cause == [0x0E]) = true ∧
    after (exec (.lsuLdw 0x3FFC) (ops one [(0x160, 0xF000000000000000)])) (fun t => t.me.latched.map Latched.cause == [0x0F]) = true := by
  decide +kernel

/-- A tile with two register groups and two accumulator groups. -/
def wide : State := here one fun x => { x with partword := 0x0202 }

/-- cas writes when the compare operand matches and returns the old value (R232). -/
theorem test_atm_cas : after (exec (.atmCasw 9) (ops wide [(0x1A0, 0xF000000000008000)])) (fun t =>
    t.here.pool == [(0x8000, 9)] && yOf (.next t) == some 0) = true ∧
    after (exec (.atmCasw 9) (ops wide [(0x1A0, 0xF000000000008000), (0x1A1, 1)])) (fun t => t.here.pool == []) = true := by
  decide +kernel

/-- minw compares as signed values, minuw as unsigned ones (R232). -/
theorem test_atm_min : after (exec (.atmMinw 0xFFFFFFFF) (ops wide [(0x1A0, 0xF000000000008000)])) (fun t =>
      leNat (t.here.pool.readBytes 0x8000 4) == 0xFFFFFFFF) = true ∧
    after (exec (.atmMinuw 0xFFFFFFFF) (ops wide [(0x1A0, 0xF000000000008000)])) (fun t => t.here.pool == []) = true := by
  decide +kernel

/-- A signal adds to its semaphore and a read shows it (R332, R334); S = 3 satisfies 0xFFFF_FFFE (example under R11). -/
theorem test_sem : after (exec (.semSig 3) (ops one [(0x1C0, 5)])) (fun t =>
      yOf (exec (.semRd 0) (ops t [(0x1C0, 5)])) == some 3 &&
        yOf (exec (.semTrywait 0xFFFFFFFE) (ops t [(0x1C0, 5)])) == some 0x200000003) = true := by decide +kernel

/-- A jump opens two delay issues, a false brl annuls them (R288, R289). -/
theorem test_cu_delay : after (exec (.cuJmp 0x123) one) (fun t => t.me.delay == some ⟨2, false, true, 0x123⟩) = true ∧
    after (exec (.cuBrl false 0x123) one) (fun t => t.me.delay == some ⟨2, true, false, 0⟩) = true := by decide +kernel

/-- A return with nothing stored traps 0x08 (R295). -/
theorem test_cu_ret : after (exec (.cuRet 0) one) (fun t => t.me.latched.map Latched.cause == [0x08]) = true := by decide +kernel

/-- SSTAT reads 0x1A02 after reset (R347); common register 2 reads the pool's bytes 16 to 23 (R119). -/
theorem test_registers : yOf (exec (.sysRdsr 0) one) = some 0x1A02 ∧
    yOf (exec (.crfRd 2) (here one fun x => { x with pool := [(16, 0x34), (17, 0x12)] })) = some 0x1234 := by decide +kernel

/-- A system call is latched with trap 0x2C and its number (R301). -/
theorem test_cu_scall : after (exec (.cuScall 0x12345) one) (fun t =>
    t.me.latched.map (fun l => (l.cause, l.info)) == [(0x2C, 0x2345)] && t.me.latchedDue) = true := by decide +kernel

/-- A vector strand: grant of one row of five, in a tile with two register groups. -/
def vecd : State := me wide fun st => { st with vgrant := (1, 5) }

/-- Its register v0 holds the row 1, 2^24, 1, −2^24, 1. -/
def rowPool : Memory :=
  Memory.writeBytes [] (vecPlace 0 0)
    ([0x3F800000, 0x4B800000, 0x3F800000, 0xCB800000, 0x3F800000].flatMap fun c => leBytes c 4)

/-- The row 1, 2^24, 1, −2^24, 1 sums to 2 in the pairwise tree, inexact (the example under R189). -/
theorem test_vec_rsum : after (exec (.vecRsum 0x1) (here vecd fun x => { x with pool := rowPool })) (fun t =>
    leNat (t.here.pool.readBytes (vecPlace 0 1) 4) == 0x40000000 && zOf (.next t) == some 1) = true := by decide +kernel

/-- vec.iota counts along the row from vec.a (R186): element 4 of INT32 is vec.a + 4. -/
theorem test_vec_iota : after (exec (.vecIota 0x30001) (ops vecd [(0x240, 10)])) (fun t =>
    leNat (t.here.pool.readBytes (vecPlace 0 1 + 16) 4) == 14) = true := by decide +kernel

/-- SDS holds [63] 1, CNT in [29:28], ANNUL, TAKEN and the target (R293). -/
theorem test_sds : encodeSds (some ⟨2, true, true, 0x123⟩) = 0x800000002C000123 ∧ encodeSds none = 0 := by decide +kernel

/-- A strand between issues whose kernel binds cause 0x2C enters the handler: SPC is its issue address (R348, R349). -/
def bound : State :=
  { one with objects := [{ probeObject [] with handlers := [(0x2C, 0x100), (0x2F, 0x200), (1, 0x300), (0x32, 0x500)] }] }

def called : State :=
  me bound fun st => { st with latched := [⟨⟨0x00F, 7, false, 0⟩, 0x2C, 7, false⟩], latchedDue := true, ia := 0x40, pc := 0x40 }

theorem test_trap_entry : after (exec (.trapEntry 0 0) called) (fun t =>
    t.me.pc == 0x100 && t.me.spc == 0x40 && t.me.scause == 0x2C && t.me.sinfo == 7 && t.me.sup && t.me.tl && !t.me.ie) = true := by
  decide +kernel

/-- sys.eret restores mode and enables and goes back to SPC (R350). -/
theorem test_eret : after (exec (.sysEret 0) (me one fun st => { st with sstat := 0x9A05, spc := 0x40 })) (fun t =>
    t.me.pc == 0x40 && !t.me.sup && t.me.ie && !t.me.tl) = true := by decide +kernel

/-! ## Hypotheses of the obligations: states and operands that meet them -/

/-- The answer is a next state. -/
def runs (o : Out) : Bool := after o fun _ => true

/-- MODE with IDZE set. -/
def idz : State := me one fun st => { st with mode := 0x40000 }

/-- A divide of strand 0 begun at cycle 0, at cycle 6. -/
def dividing : State :=
  here (me one fun st => { st with user := { st.user with res := [⟨.mdu, some 3, some 1, none, 6, true, false⟩] } })
    fun x => { x with divOwner := some (0, 0), cycle := 6 }

/-- MultiplyDivide: no trap for a divisor of 0 without IDZE, one with it, and for each width; the least cycle of a delivery. -/
theorem test_hyp_MultiplyDivide :
    ¬ ((0 : Word) = 0 ∧ one.me.mode.getLsbD 18 = true) ∧ ¬ ((1 : Word) = 0 ∧ idz.me.mode.getLsbD 18 = true) ∧
    idz.me.mode.getLsbD 18 = true ∧ (0x100000000 : Word).toNat % 2 ^ 32 = 0 ∧
    (dividing.tile 0).divOwner = some (0, 0) ∧ 0 + 6 ≤ (dividing.tile 0).cycle ∧
    (∀ r ∈ (dividing.strand 0 0).user.res, r.ready ≤ (dividing.tile 0).cycle) := by decide +kernel

/-- ResultLatches: issues before and at the latency, in a bank that holds nothing of the unit. -/
theorem test_hyp_ResultLatches : 0 < 1 ∧ 1 ≤ 1 ∧ (∀ r ∈ Bank.reset.res, r.unit = .alu0 → ∀ d, r.due = some d → d ≤ Bank.reset.clock + 1) ∧
    (∀ r ∈ Bank.reset.res, r.unit = .alu0 → ∃ d, r.due = some d ∧ d ≤ Bank.reset.clock) ∧ 5 + 3 ≤ 8 ∧ 7 < 5 + 3 := by
  refine ⟨by decide, by decide, ?_, ?_, by decide, by decide⟩ <;> intro r h <;> cases h

/-- Frames: one port of each stretch of the operations that only deliver a result. -/
theorem test_hyp_Frames_results :
    (resultOnly 0x075 ∧ decodeTrigger 0x075 3 false 0 = some (.aluLea .alu0 3)) ∧
    (resultOnly 0x084 ∧ decodeTrigger 0x084 3 false 0 = some (.aluMov .alu1 3)) ∧
    (resultOnly 0x0C9 ∧ decodeTrigger 0x0C9 3 false 0 = some (.mduMac 3)) ∧
    (resultOnly 0x0E3 ∧ decodeTrigger 0x0E3 3 false 0 = some (.prdAnd 3)) ∧
    (resultOnly 0x0F2 ∧ decodeTrigger 0x0F2 3 false 0 = some (.crfRd 3)) ∧
    (resultOnly 0x2C3 ∧ decodeTrigger 0x2C3 3 false 0 = some (.sysRdsr 3)) ∧
    runs (exec (.aluLea .alu0 3) one) = true ∧ runs (exec (.sysRdsr 3) one) = true := by
  refine ⟨⟨?_, rfl⟩, ⟨?_, rfl⟩, ⟨?_, rfl⟩, ⟨?_, rfl⟩, ⟨?_, rfl⟩, ⟨?_, rfl⟩, by decide +kernel, by decide +kernel⟩ <;>
    (unfold resultOnly; decide)

/-- Frames: operations of the units, one of each, that the frame of the control registers covers. -/
theorem test_hyp_Frames_control :
    encode (.aluMov .alu0 1) = some (.move 0x044 1 false 0) ∧ encode (.lsuFence 0) = some (.move 0x173 0 false 0) ∧
    encode (.vecCvtsr 1) = some (.move 0x260 1 false 0) ∧
    0x040 ≤ 0x044 ∧ 0x260 < 0x2C0 ∧ 0x173 ∉ [0x1C5, 0x1E8, 0x1EA, 0x1EB, 0x1EC, 0x221, 0x223, 0x225, 0x227] ∧
    runs (exec (.aluMov .alu0 1) one) = true ∧ runs (exec (.lsuFence 0) one) = true ∧
    runs (exec (.vecCvtsr 1) one) = true := by decide +kernel

/-- FloatRoundedArithmetic: a magnitude above and one below the lowest kept bit; and a strand without float traps. -/
theorem test_hyp_FloatRoundedArithmetic :
    0 < 2 ∧ ((1 : Int) = 0 + (1 : Nat) ∧ 6 = 3 * 2 ^ 1 ∧ 2 = 2) ∧ ((0 : Int) = -1 + (1 : Nat) ∧ 3 = 3 ∧ 4 = 2 * 2 ^ 1) ∧
    noFloatTraps one.me := by unfold noFloatTraps; decide +kernel

/-- FloatSelectAndCompare: both kinds of operand for each clause. -/
theorem test_hyp_FloatSelectAndCompare : nan64 0x7FF0000000000001 ∧ ¬ nan64 0x7FF0000000000000 ∧ nan32 0x7F800001 ∧
    ¬ nan32 0x7F800000 ∧ noFloatTraps one.me := by unfold noFloatTraps; decide +kernel

/-- An expansion of divd at a step. -/
def divExp (n : Nat) : Exp :=
  { id := 1, op := .divd, v := 1, a := 1, b := 0, c := 0, step := n, trap := false, ia := 0, rep := 0, last := none, resumed := false, fault := none }
def expanding (n : Nat) : State :=
  here (me one fun st => { st with exp := some (divExp n) })
    fun x => { x with fpaOwner := some 0 }

/-- FloatExpansionAndTraps: the last counting step, the step that delivers, and the first and last trigger of fpa. -/
theorem test_hyp_FloatExpansionAndTraps :
    mayStep (expanding 4) 0 0 (divExp 4) ∧ (divExp 4).step < 5 ∧
    mayStep (expanding 5) 0 0 (divExp 5) ∧ noFloatTraps ((expanding 5).strand 0 0) ∧
    decodeTrigger 0x105 1 false 0 = some (.fpaAddd 1) ∧ decodeTrigger 0x12B 1 false 0 = some (.fpaCvtbd 1) := by
  unfold mayStep noFloatTraps; decide +kernel

/-- SpecialFunctions: FP32, and the inputs whose values are special. -/
theorem test_hyp_SpecialFunctions : noFloatTraps one.me ∧ (one.opnd 0x140).toNat % 4 = 0 ∧
    (0x180000000 : Word).toNat % 2 ^ 32 = 0x80000000 := by unfold noFloatTraps; decide +kernel

/-- The strand with n entries stored and d spilled. -/
def stored (n d : Nat) : State := me one fun st => { st with ret := List.replicate n 7, sdepth := d }

/-- The strand's kernel holds two T parcels at its address. -/
def twoT : State := State.reset.withParcels [0x0040, 0x0080]

/-- Transfers: each depth at which calls and returns differ, and a parcel and its delay parcels. -/
theorem test_hyp_Transfers : (stored 15 0).me.ret.length < 16 ∧ ((stored 16 63).me.ret.length = 16 ∧ (stored 16 63).me.sdepth < 64) ∧
    (16 ≤ (stored 16 64).me.ret.length ∧ 64 ≤ (stored 16 64).me.sdepth) ∧ (stored 1 0).me.ret = 7 :: [] ∧
    ((stored 0 1).me.ret = [] ∧ (stored 0 1).me.sdepth = 0 + 1) ∧ ((stored 0 0).me.ret = [] ∧ (stored 0 0).me.sdepth = 0) ∧
    twoT.parcels twoT.cur.1 twoT.me.pc.toNat 256 = 0x0040 :: 0x0080 :: [] ∧ (0x0040 : BitVec 16).toNat < 2 ^ 15 ∧
    (0x0040 : BitVec 16).toNat / 8 % 8 = 0 ∧ twoT.me.ret.length < 16 := by decide +kernel

/-- Every slot of the tile is taken. -/
def fullTile : State := here one fun x => { x with strands := (List.range 16).map fun k => (k, { Strand.reset with status := .live }) }

/-- The strand waits at a meet point whose generation has passed; a point at which one of two has arrived. -/
def met : State := here (me one fun st => { st with meets := [(3, 0)] }) fun x => { x with meets := [(3, ⟨0, 0, 1⟩), (4, ⟨1, 3, 0⟩)] }

/-- A kernel with overlays 1 and 2, and overlay 1 being loaded while the strand waits for it. -/
def overlaid : State :=
  here (me { one with objects := [{ probeObject [] with overlays := [(1, [1]), (2, [])] }] }
    fun st => { st with block := some (.tload 1) }) fun x => { x with loading := some 1 }

/-- StrandControl. -/
theorem test_hyp_StrandControl : fullTile.freeSlots fullTile.cur.1 = [] ∧
    one.freeSlots one.cur.1 = 1 :: [2, 3, 4, 5, 6, 7, 8, 9, 10, 11, 12, 13, 14, 15] ∧ one.me.status = .live ∧
    (met.me.meets.find? fun e => e.1 == (3 : Word).toNat % 8) = some (3, 0) ∧ (met.here.meet 3).gen ≠ 0 ∧
    (∀ e ∈ met.me.meets, e.1 ≠ (0x104 : Word).toNat % 8) ∧ (met.here.meet 4).count + 1 ≠ (met.here.meet 4).parties ∧
    (met.here.meet 5).count + 1 ≠ (0x105 : Word).toNat / 256 % 16 + 1 ∧
    overlaid.objOf overlaid.cur.1 = some { probeObject [] with overlays := [(1, [1]), (2, [])] } ∧
    (overlaid.tile 0).loading = some 1 ∧ (overlaid.strand 0 0).block = some (.tload 1) ∧
    ([(1, [(1 : BitVec 256)]), (2, [])].find? fun e => e.1 == 1) = some (1, [1]) := by decide +kernel

/-- Registers: every stretch of common-register and system-register numbers at its ends. -/
theorem test_hyp_Registers : (0x3FF : Word).toNat % 2 ^ 11 < 0x400 ∧ 0x402 < (0x7FF : Word).toNat % 2 ^ 11 ∧
    (ops one [(0x0F0, 0x3FF)]).opnd 0x0F0 = 0x3FF ∧ (ops one [(0x0F0, 0x402)]).opnd 0x0F0 = 0x402 ∧
    0x0A < (0x0B : Word).toNat % 128 ∧ (0x3F : Word).toNat % 128 < 0x40 ∧ 0x49 < (0x4A : Word).toNat % 128 := by decide +kernel

/-- A hold since time 0. -/
def holdOf (port : Nat) (sem : Option SemHold) (bar : Bool) : Hold :=
  { since := 0, first := 0, held := true, seq := 0, port := port, sem := sem, recv := false, bar := bar, want := [], clear := false }

/-- A held word of a kernel that binds the watchdog's cause, past the limit of its SSTAT. -/
def held : State :=
  me { bound with time := 2 ^ 30 } fun st => { st with hold := some (holdOf 0x163 none false) }

/-- TrapEntry. -/
theorem test_hyp_TrapEntry : (called.strand 0 0).boundary = some (.latched ⟨⟨0x00F, 7, false, 0⟩, 0x2C, 7, false⟩) ∧
    (called.strand 0 0).tl = false ∧ (called.strand 0 0).exp = none ∧ called.bankAhead 0 (called.strand 0 0).pc = none ∧
    called.vector 0 0x2C = some 0x100 ∧ (held.strand 0 0).hold = some (holdOf 0x163 none false) ∧ (holdOf 0x163 none false).clear = false ∧
    (held.strand 0 0).boundary = none ∧ (held.strand 0 0).refire = false ∧ (held.tile 0).stopped = false ∧
    entryReady held 0 0 = true ∧ entryReady called 0 0 = true ∧
    (held.strand 0 0).status = .live ∧ (held.strand 0 0).wdl ≠ 0 ∧ 0 + 2 ^ (held.strand 0 0).wdl ≤ held.time ∧
    (held.strand 0 0).tl = false ∧ held.vector 0 0x2F = some 0x200 := by decide +kernel

/-- A delay state at the bounds of its fields. -/
theorem test_hyp_TrapEntry_sds : (⟨2, true, false, 0⟩ : Delay).cnt ≤ 2 ∧ ((⟨2, true, false, 0⟩ : Delay).taken = false →
    (⟨2, true, false, 0⟩ : Delay).target = 0) := by decide

/-- A latched cause without a handler whose default is Stop; and a latched cause in a handler. -/
def unbound : State := me one fun st => { st with latched := [⟨⟨0x16A, 4, false, 0⟩, 0x0E, 4, false⟩], latchedDue := true }
def twiceTrapped : State :=
  me one fun st => { st with latchedT := [⟨⟨0x16A, 4, false, 0⟩, 0x0E, 4, false⟩], latchedDue := true, sstat := 0x1A05, scause := 0x2C }

/-- TrapStopsAndReturns. -/
theorem test_hyp_TrapStopsAndReturns : (unbound.strand 0 0).boundary = some (.latched ⟨⟨0x16A, 4, false, 0⟩, 0x0E, 4, false⟩) ∧
    (unbound.strand 0 0).tl = false ∧ (unbound.strand 0 0).exp = none ∧ unbound.bankAhead 0 (unbound.strand 0 0).pc = none ∧
    unbound.vector 0 0x0E = none ∧ 0x0E ∉ [0x2A, 0x2B, 0x2E, 0x31, 0x32, 0x34, 0x35, 0x36] ∧
    (twiceTrapped.strand 0 0).boundary = some (.latched ⟨⟨0x16A, 4, false, 0⟩, 0x0E, 4, false⟩) ∧ (twiceTrapped.strand 0 0).tl = true ∧
    (twiceTrapped.strand 0 0).exp = none ∧ twiceTrapped.bankAhead 0 (twiceTrapped.strand 0 0).pc = none := by decide +kernel

/-- A strand about to return, with an SDS, NORF as given. -/
def returning (sds : Word) (norf : Bool) : State :=
  me one fun st => { st with sstat := if norf then 0x9A15 else 0x9A05, sds := sds }

/-- TrapStopsAndReturns: the delay states of SDS, and NORF. -/
theorem test_hyp_TrapReturn : (returning 0 false).me.sds.getLsbD 63 = false ∧
    ((returning 0x8000000010000000 true).me.sds.getLsbD 63 = true ∧ (returning 0x8000000010000000 true).me.sds.extractLsb' 28 2 ≠ 0 ∧
      (returning 0x8000000010000000 true).me.norf = true) ∧
    ((returning 0x8000000000000000 false).me.sds.getLsbD 63 = true ∧ (returning 0x8000000000000000 false).me.sds.extractLsb' 28 2 = 0 ∧
      (returning 0x8000000000000000 false).me.savedExp = none ∧ (returning 0x8000000000000000 false).me.norf = false) := by
  decide +kernel

/-- A strand whose word has failed n times. -/
def failed (n : Nat) : State := me bound fun st => { st with attempts := n }

/-- ReplayAndDelivery: the last attempt and the failure after it. -/
theorem test_hyp_ReplayAndDelivery : ((failed 2).strand 0 0).status = .live ∧ ((failed 2).strand 0 0).hold = none ∧
    ((failed 2).strand 0 0).block = none ∧ ((failed 2).strand 0 0).exp = none ∧ ((failed 2).strand 0 0).boundary = none ∧
    ((failed 2).strand 0 0).attempts < 3 ∧ ((failed 3).strand 0 0).boundary = none ∧ 3 ≤ ((failed 3).strand 0 0).attempts ∧
    ((failed 3).strand 0 0).tl = false ∧ (failed 3).vector 0 0x32 = some 0x500 := by decide +kernel

/-- A strand whose run of I parcels is n long. -/
def runOf (n : Nat) : State := me bound fun st => { st with pimRun := n }

/-- A kernel without overlays that binds cause 0x01. -/
def flat : State := { bound with objects := [{ probeObject [] with overlays := [], handlers := [(1, 0x300)] }] }

/-- Parcels: the lengths of a run where I parcels stop being legal, and the places of an IDLE. -/
theorem test_hyp_Parcels : plainTurn (runOf 3) ∧ (runOf 3).me.pimRun < 4 ∧ (runOf 3).me.pimRun ≠ 0 ∧ plainTurn (runOf 4) ∧
    4 ≤ (runOf 4).me.pimRun ∧ plainTurn bound ∧ bound.me.pimRun = 0 ∧ bound.hasOverlays bound.cur.1 = true ∧ plainTurn flat ∧
    flat.me.pimRun = 0 ∧ flat.hasOverlays flat.cur.1 = false ∧ flat.vector flat.cur.1 0x01 = some 0x300 ∧ flat.me.tl = false ∧
    bound.me.delay = none ∧ bound.me.rep < (1 : BitVec 8).toNat ∧ (0 : BitVec 8).toNat ≤ bound.me.rep := by
  unfold plainTurn; decide +kernel

/-- An annulled delay issue at a parcel. -/
def annulled (ps : List (BitVec 16)) (n : Nat) : State :=
  me (State.reset.withParcels ps) fun st => { st with delay := some ⟨n, true, true, 0x50⟩ }

/-- Parcels, the annulled issues: an inline word and a T parcel, at each count. -/
theorem test_hyp_AnnulledIssues : plainTurn (annulled [0x0040] 1) ∧
    (annulled [0x0040] 1).me.delay = some ⟨1, true, true, 0x50⟩ ∧ (annulled [0x0040] 1).me.rword = none ∧
    tableAt (annulled [0x0040] 1) (1 : BitVec 9).toNat emptyWord ∧
    decodeParcels ((annulled [0x0040] 1).parcels 0 (annulled [0x0040] 1).me.pc.toNat 17) = .ok (.tParcel 1 0 0) ∧
    decodeParcels ((annulled (0xC100 :: List.replicate 16 0) 2).parcels 0
      (annulled (0xC100 :: List.replicate 16 0) 2).me.pc.toNat 17) = .ok (.inline 0) ∧
    (annulled (0xC100 :: List.replicate 16 0) 2).me.delay = some ⟨2, true, true, 0x50⟩ := by
  refine ⟨?_, ?_, ?_, ?_, rfl, rfl, ?_⟩ <;> (first | unfold plainTurn | unfold tableAt | skip) <;> decide +kernel

/-- The word whose one move is s1 > s2, kept. -/
def moveWord : BitVec 256 := encodeWord
  { slots := ⟨0, 0x021, 0x022, true, 0⟩ :: List.replicate 7 ⟨8, 0, 0, false, 0⟩, limm := 0, hwin := false, syncpt := false,
    flagRes := 0 }

/-- A strand at a T parcel of that word, repeated twice, under p1 or unguarded. -/
def atWord : State := here (State.reset.withParcels [0x0008]) fun x => { x with table := [(0, moveWord)] }

/-- It has issued once. -/
def atRepetition : State := me atWord fun st => { st with rword := some ⟨moveWord, true, 0, false, false⟩, rep := 1 }

/-- A kernel that binds cause 0x02. -/
def bindsTwo : State := { one with objects := [{ probeObject [] with handlers := [(2, 0x600)] }] }

/-- Words. -/
theorem test_hyp_Words : plainTurn atWord ∧ movesOnly (decodeWord moveWord) ∧ judge atWord (decodeWord moveWord) 1 0 = .go none ∧
    atWord.me.rword = none ∧ tableAt atWord (0 : BitVec 9).toNat moveWord ∧ atWord.me.guard (0 : BitVec 3).toNat = true ∧
    judge (withWord atWord 0 moveWord true) (decodeWord moveWord) ((1 : BitVec 3).toNat + 1) 0 = .go none ∧
    atWord.me.guard (1 : BitVec 3).toNat = false ∧ plainTurn atRepetition ∧ 0 < atRepetition.me.rep ∧
    judge (withWord atRepetition 0 moveWord true) (decodeWord moveWord) ((1 : BitVec 3).toNat + 1) atRepetition.me.rep = .go none := by
  unfold plainTurn movesOnly tableAt; decide +kernel

/-- Words, the repetition's parcel; and a word with a reserved bit set, which traps 0x02 (R18). -/
theorem test_hyp_WordTraps : decodeParcels (atRepetition.parcels atRepetition.cur.1 atRepetition.me.pc.toNat 1) = .ok (.tParcel 0 1 0) ∧
    judge bindsTwo (decodeWord (emptyWord ||| BitVec.twoPow 256 250)) 1 0 = .trap 0x02 0x100 ∧ bindsTwo.vector bindsTwo.cur.1 0x02 = some 0x600 ∧
    bindsTwo.me.tl = false ∧ plainTurn bindsTwo := by
  refine ⟨rfl, ?_, ?_, ?_, ?_⟩ <;> (first | unfold plainTurn | skip) <;> decide +kernel

/-- No turn is running. -/
def between : State := { atWord with turn := none }

/-- IssueChoice: a stopped tile, a tile with one eligible strand, and one with none. -/
theorem test_hyp_IssueChoice : ((here between fun x => { x with stopped := true }).tile 0).stopped = true ∧ between.turn = none ∧
    (here between fun x => { x with stopped := true }).pausedAt 0 = false ∧ between.pausedAt 4 = true ∧
    between.pausedAt 0 = false ∧ between.pausedAt 1 = false ∧ (between.tile 0).stopped = false ∧
    (between.tile 1).stopped = false ∧ slots.filter (eligible (attempts between 0) 0) = [0] ∧
    slots.filter (eligible (attempts between 1) 1) = [] := by decide +kernel

/-- The strand in supervisor mode. -/
def superior : State := me one fun st => { st with sstat := 0x1A03 }

/-- LoadsAndStores: the last byte and the lowest byte a user may name, a supervisor's offset 0, a global address, and where
accesses trap. -/
theorem test_hyp_LoadsAndStores :
    ownAt (ops one [(0x160, 0xF000000000000000)]) ((ops one [(0x160, 0xF000000000000000)]).opnd 0x160 + 0xFFFFF) 0xFFFFF ∧
    0xFFFFF % 1 = 0 ∧ ownAt (ops one [(0x160, 0xF000000000004000)]) ((ops one [(0x160, 0xF000000000004000)]).opnd 0x160) 0x4000 ∧
    0x4000 % 8 = 0 ∧ hasBad one.here.poolBad 0x4000 8 = none ∧
    ownAt (ops superior [(0x160, 0xF000000000000000)]) ((ops superior [(0x160, 0xF000000000000000)]).opnd 0x160) 0 ∧
    globalAt (ops one [(0x160, 0x10000)]) ((ops one [(0x160, 0x10000)]).opnd 0x160) ∧ (0x10000 : Word).toNat % 8 = 0 ∧
    0x4001 % 2 ≠ 0 ∧ ownAt (ops one [(0x160, 0xF000000000004001)]) ((ops one [(0x160, 0xF000000000004001)]).opnd 0x160) 0x4001 ∧
    one.me.sup = false ∧ 0x3FF8 < 0x4000 * (one.here.partword.toNat % 256) := by unfold ownAt globalAt; decide +kernel

/-- Operands of a line or block operation. -/
def lines : State := ops one [(0x160, 0xF000000000004000), (0x161, 0xF000000000008000), (0x162, 0x48)]

/-- A supervisor's block copy of 72 bytes at a step. -/
def blkExp (n : Nat) : Exp :=
  { id := 1, op := .blk, v := 0, a := 0xF000000000004000, b := 0xF000000000008000, c := 0x48, step := n, trap := false, ia := 0
    rep := 0, last := none, resumed := false, fault := none }
def copying (n : Nat) : State :=
  me superior fun st => { st with exp := some (blkExp n) }

/-- LinesFenceBlock. -/
theorem test_hyp_LinesFenceBlock : ownAt lines (lines.opnd 0x160) 0x4000 ∧ 0x4000 % 64 = 0 ∧ (0xFC040 : Word).toNat % 64 = 0 ∧
    0x4000 * (lines.here.partword.toNat % 256) ≤ (0xFC040 : Word).toNat % 2 ^ 20 ∧ hasBad lines.here.poolBad 0x4000 64 = none ∧
    globalAt (ops one [(0x160, 0x10000)]) ((ops one [(0x160, 0x10000)]).opnd 0x160 + 8) ∧ ownAt lines (lines.opnd 0x160 + 8) 0x4008 ∧
    ownAt lines (lines.opnd 0x161) 0x8000 ∧ 0x8000 % 8 = 0 ∧ (lines.opnd 0x162).toNat % 8 = 0 ∧ (lines.opnd 0x162).toNat ≤ 0x400000 ∧
    ((copying 1).strand 0 0).exp = some (blkExp 1) ∧ vecLoadDue (copying 1) 0 0 = false ∧ ((copying 1).tile 0).poolBad = [] ∧
    ((copying 1).strand 0 0).status = .live ∧ ((copying 1).tile 0).stopped = false ∧ ((copying 1).strand 0 0).sup = true ∧
    ((copying 1).tile 0).resv = [] ∧ 64 * 1 < (0x48 : Word).toNat ∧ 0x4000 + 0x48 ≤ 2 ^ 20 := by
  unfold ownAt globalAt; decide +kernel

/-- A packet of strand 0 of tile 0 to tile u. -/
def packet (u : Nat) (b : Payload) : Packet := { id := 7, src := 0, slot := 0, dst := u, body := b, after := [], stop := false }

/-- It alone is in flight. -/
def flying (s : State) (u : Nat) (b : Payload) : State := { s with flight := [packet u b] }

/-- LinesFenceBlock, the fence: an outstanding store before it. -/
theorem test_hyp_fence : packet 1 (.pool (.store 8 1) 0x4000 false) ∈ (flying one 1 (.pool (.store 8 1) 0x4000 false)).flight ∧
    (0x7F : Word).toNat / 16 % 8 ≠ 0 ∧
    (flying one 1 (.pool (.store 8 1) 0x4000 false)).packetScope (packet 1 (.pool (.store 8 1) 0x4000 false)) ≤ (0x7F : Word).toNat / 16 % 8 ∧
    countsAs (packet 1 (.pool (.store 8 1) 0x4000 false)) false = true ∧ (0x7F : Word).getLsbD (2 + 0) = true := by decide +kernel

/-- A request at its station. -/
def requested : State := flying one 0 (.lsu (.load 8 false) 0x10000 false none)

/-- A walk for a request's page. -/
def walk (p : Nat) (b : Bool) : Walk :=
  { id := 9, station := stationOf 0 0x10000, ctx := 0, va := 0x10000, joined := [(p, 0x10000)], stale := b }

/-- A walk for it, and the page tables of context 0: a page of 1 GiB at 0x4000_0000, readable and writable. -/
def walking (b : Bool) : State :=
  { requested with
    hbmCh := (List.range 512).map fun c => (c, { HbmCh.reset with ctl := 1 })
    walks := [walk 7 b]
    hbm := [(0, 0x01), (2, 0x01), (0x10000, 3), (0x10002, 2), (0x20000, 0x0D), (0x20003, 0x40)] }

/-- RemoteAccesses: a request without a walk and one whose walk is under way; the end of a stale and of a live walk. -/
theorem test_hyp_GlobalAccesses :
    atStation requested 7 (packet 0 (.lsu (.load 8 false) 0x10000 false none)) (.load 8 false) 0x10000 false ∧
    requested.walkOn (stationOf 0 0x10000) 0 0x10000 = none ∧ requested.cached (stationOf 0 0x10000) 0 0x10000 = none ∧
    (requested.walks.filter fun w => w.station == stationOf 0 0x10000).length < 4096 ∧
    ({ requested with walks := [walk 8 false] } : State).walkOn (stationOf 0 0x10000) 0 0x10000 = some (walk 8 false) ∧
    ((walking true).walks.find? fun v => v.id == 9) = some (walk 7 true) ∧
    ((walking false).walks.find? fun v => v.id == 9) = some (walk 7 false) ∧
    (walking false).packet 7 = some (packet 0 (.lsu (.load 8 false) 0x10000 false none)) ∧
    walkTables (walking false) 0 0x10000 = .page 0x40000000 30 true true ∧
    isHost (0x40000000 + (0x10000 : Word).toNat % 2 ^ 56 % 2 ^ 30) = false ∧
    homeDie (0x40000000 + (0x10000 : Word).toNat % 2 ^ 56 % 2 ^ 30) = dieOf 0 := by unfold atStation; decide +kernel

/-- Channel 0 of stack 0 is in service. -/
def trained (s : State) : State := { s with hbmCh := [(0, { HbmCh.reset with ctl := 1 })] }

/-- RemoteAccesses: a load and a store at their home. -/
theorem test_hyp_HomeAccesses :
    atHome (trained (flying one 0 (.lsu (.load 8 false) 0x10000 false (some 0)))) 7 (packet 0 (.lsu (.load 8 false) 0x10000 false (some 0)))
      (.load 8 false) 0x10000 false 0 ∧
    atHome (trained (flying one 0 (.lsu (.store 8 5) 0x10000 false (some 0)))) 7 (packet 0 (.lsu (.store 8 5) 0x10000 false (some 0)))
      (.store 8 5) 0x10000 false 0 := by unfold atHome; decide +kernel

/-- RemoteAccesses: a load and a store at another tile of the sorus. -/
theorem test_hyp_SorusAccesses :
    (flying one 1 (.pool (.load 4 true) 0x4000 false)).packet 7 = some (packet 1 (.pool (.load 4 true) 0x4000 false)) ∧
    (flying one 1 (.pool (.load 4 true) 0x4000 false)).performed [] = true ∧
    aheadInPool (flying one 1 (.pool (.load 4 true) 0x4000 false)) (packet 1 (.pool (.load 4 true) 0x4000 false)) 1 0x4000 4 = false ∧
    (flying one 1 (.pool (.store 4 6) 0x4000 false)).packet 7 = some (packet 1 (.pool (.store 4 6) 0x4000 false)) ∧
    aheadInPool (flying one 1 (.pool (.store 4 6) 0x4000 false)) (packet 1 (.pool (.store 4 6) 0x4000 false)) 1 0x4000 4 = false ∧
    (one.tile 1).resv = [] ∧ (one.tile 0).resv = [] ∧ (one.tile 1).poolBad = [] := by decide +kernel

/-- The strand holds a reservation on granule 0x200 of its own tile, and addresses offset 0x8000. -/
def reserving (hnd : Bool) : State :=
  me (ops wide [(0x1A0, 0xF000000000008000)]) fun st =>
    { st with resv := some ⟨0, 0x200⟩, sstat := if hnd then 0x1A22 else 0x1A02 }

/-- Reservations: without, with and, in a handler, with a reservation; a wait at its limit. -/
theorem test_hyp_Reservations : atmAt (reserving false) 0x8000 8 ∧ (reserving false).here.resv.length < 64 ∧
    (reserving false).me.resv = some ⟨(reserving false).cur.1, 0x8000 / 64⟩ ∧ (reserving false).me.hnd = false ∧
    atmAt (reserving true) 0x8000 8 ∧ (reserving true).me.hnd = true ∧
    atmAt (ops wide [(0x1A0, 0xF00000000000FFF8)]) 0xFFF8 8 ∧
    (ops wide [(0x1A0, 0xF00000000000FFF8)]).me.resv ≠ some ⟨(ops wide [(0x1A0, 0xF00000000000FFF8)]).cur.1, 0xFFF8 / 64⟩ ∧
    ((me { one with time := 10 } fun st => { st with block := some (.wrs 0 5 0 10) }).strand 0 0).block = some (.wrs 0 5 0 10) ∧
    0 + 10 ≤ ({ one with time := 10 } : State).time := by unfold atmAt; decide +kernel

/-- An atomic in flight, plain or in SC window 0. -/
def addReq (sc : Option (Nat × Nat × Nat × Nat)) : AtmReq := ⟨.add, 8, 0x8000, 1, 0, false, false, sc⟩

/-- AtomicOperations: the lowest and the highest location, a plain packet, and an SC window before and at its time. -/
theorem test_hyp_AtomicOperations : atmAt (ops wide [(0x1A0, 0xF000000000008000)]) 0x8000 4 ∧
    atmAt (ops wide [(0x1A0, 0xF00000000000FFF8)]) 0xFFF8 8 ∧ (ops wide [(0x1A0, 0xF00000000000FFF8)]).here.resv = [] ∧
    (flying one 1 (.atomic (addReq none))).packet 7 = some (packet 1 (.atomic (addReq none))) ∧
    (flying one 1 (.atomic (addReq none))).performed [] = true ∧
    (flying one 1 (.atomic (addReq none))).routeAhead (packet 1 (.atomic (addReq none))) = false ∧
    rmwNew .add 8 (leNat ((one.tile 1).pool.readBytes 0x8000 8)) 1 0 = some 1 ∧
    scNext (flying one 1 (.atomic (addReq (some (0, 0, 0, 0))))) 1 =
      some (packet 1 (.atomic (addReq (some (0, 0, 0, 0)))), addReq (some (0, 0, 0, 0)), 0) ∧
    32 * (0 + 1) + 96 ≤ ({ one with time := 128 } : State).time ∧ one.time < 32 * (0 + 1) + 96 := by unfold atmAt; decide +kernel

/-- Semaphore 5 stands at 3, and the strand's operands name it. -/
def semd : State := here (ops one [(0x1C0, 5)]) fun x => { x with sems := [(5, ⟨3, false⟩)] }

/-- Semaphores: nothing outstanding and something outstanding; a threshold that is met. -/
theorem test_hyp_Semaphores : semAt semd 5 ∧ semd.earlier semd.cur.1 semd.cur.2 4 = [] ∧
    semAt (ops one [(0x1C0, 254)]) 254 ∧ (flying semd 1 (.sem 1 1 false)).earlier 0 0 4 = [7] ∧ semd.me.hnd = false ∧
    semd.me.hold = none ∧ geq32 (semd.here.sem 5).s (3 : Word).toNat = true := by unfold semAt semClean; decide +kernel

/-- One waiting-task entry. -/
def entry (st : Nat) : Wtt := ⟨st, 5, 3, 0x40, 9, false, 0, 0, 0, 0⟩

/-- WaitingTasks: entry 0 taken and 1 free; a satisfied entry with a free slot; an arriving signal; a wait at its limit. -/
theorem test_hyp_WaitingTasks :
    (0x500000003 : Word).toNat / 2 ^ 42 = 0 ∧ (0x500000003 : Word).getLsbD 40 = false ∧
    (0x500000003 : Word).toNat / 2 ^ 32 % 256 = 5 ∧
    Map.get? (here one fun x => { x with wtt := [(0, entry 1)] }).here.wtt 1 = none ∧
    (∀ j, j < 1 → (Map.get? (here one fun x => { x with wtt := [(0, entry 1)] }).here.wtt j).isSome) ∧
    Map.get? (here one fun x => { x with wtt := [(0, entry 1)] }).here.wtt ((32 : Word).toNat % 32) = some (entry 1) ∧
    Map.get? one.here.wtt ((31 : Word).toNat % 32) = none ∧
    ((here one fun x => { x with wtt := [(4, entry 2)] }).tile 0).wtt = [(4, entry 2)] ∧ (entry 2).state = 2 ∧
    (one.tile 0).arrq = [] ∧ one.freeSlots 0 = 1 :: [2, 3, 4, 5, 6, 7, 8, 9, 10, 11, 12, 13, 14, 15] ∧
    (flying one 1 (.sem 254 3 true)).packet 7 = some (packet 1 (.sem 254 3 true)) ∧
    (flying one 1 (.sem 254 3 true)).routeAhead (packet 1 (.sem 254 3 true)) = false ∧ (one.tile 1).wtt = [] := by decide +kernel

theorem test_hyp_WaitingTasks_limit :
    ((me { one with time := 10 } fun st => { st with hold := some (holdOf 0x1C5 (some ⟨5, 3, 10, none, false⟩) false) }).strand
      0 0).hold = some (holdOf 0x1C5 (some ⟨5, 3, 10, none, false⟩) false) ∧
    0 + 10 ≤ ({ one with time := 10 } : State).time := by decide +kernel

/-- DeviceRegisters: addresses at the ends of their ranges, values that are written and values that are not. -/
theorem test_hyp_DeviceRegisters : (0x10 : Word).toNat = 0x10 ∧ (0xFFFFF00100000 : Word) &&& 0xFFF00000000FFFFF = 0 ∧
    one.xlinv.getLsbD 63 = false ∧ (0xFFFFFFFFFFFFFF : Word).toNat < 2 ^ 56 ∧ 2 ^ 56 ≤ (0x100000000000000 : Word).toNat ∧
    (0xFFFFFFFFFF000 : Word) &&& 0xFFF0000000000FFF = 0 ∧ (0xFFFFFFFF : Word).toNat < 2 ^ 32 ∧
    (0xFFFF01 : Word) &&& 0xFFFFFFFF000000FE = 0 ∧ (BitVec.ofNat 64 (2 ^ 24 + 32 * 287 + 8)).toNat = 2 ^ 24 + 32 * 287 + 8 ∧
    (BitVec.ofNat 64 (2 ^ 25 + 8 * 1023)).toNat = 2 ^ 25 + 8 * 1023 ∧
    (BitVec.ofNat 64 ((8 + 7) * 2 ^ 24 + 8 * (2048 * (25 * 23 + 24) + 0x408 + 5))).toNat =
      (8 + 7) * 2 ^ 24 + 8 * (2048 * (25 * 23 + 24) + 0x408 + 5) ∧
    (0x7FFFFF8 : Word).toNat < 8 * 2 ^ 24 ∧ (0x7FFFFF8 : Word).toNat % 8 = 0 ∧ 2 ^ 32 ≤ (0x100000000 : Word).toNat ∧
    (0xFFFFFFFF : Word).toNat % 8 ≠ 0 := by decide +kernel

/-- An invalidation under way, with a walk as given. -/
def invalidating (b : Bool) : State :=
  { one with xlinv := 0xC000000000000003, walks := [⟨9, 0, 0, 0x10000, [], b⟩] }

/-- A kernel that binds the host's and the tiles' interrupts. -/
def interruptible : State := { one with objects := [{ probeObject [] with handlers := [(0x35, 0x10), (0x36, 0x20)] }] }

/-- InvalidationAndHostInterrupt: idle and busy, a walk it waits for and none; a strand that takes 0x35. -/
theorem test_hyp_InvalidationAndHostInterrupt : (invalidating true).xlinv.getLsbD 63 = true ∧ one.xlinv.getLsbD 63 = false ∧
    (⟨9, 0, 0, 0x10000, [], true⟩ : Walk) ∈ (invalidating true).walks ∧ (∀ w ∈ (invalidating false).walks, w.stale = false) ∧
    (invalidating false).xlinv.toNat / 2 ^ 61 % 4 = 2 ∧
    (0x500000000 : Word).toNat = (5 : BitVec 32).toNat * 2 ^ 32 + 0 * 2 ^ 16 + 0 * 2 ^ 12 + 0 ∧
    ((interruptible.partTiles 0).find? fun t => (interruptible.tile t).ltile == 0) = some 0 ∧
    interruptible.takesIrq 0 0 0x35 = true := by decide +kernel

/-- A put or get of eight bytes between two own-pool addresses. -/
def putting (get : Bool) : NetOp :=
  { id := 7, slot := 0, get := get, far := 0xF000000000008000, near := 0x4000, n := 8, left := [(0, 8)], got := [], inc := 1
    lsem := 255, sem := 5, after := [], suspended := false }

/-- PutsAndGets. -/
theorem test_hyp_PutsAndGets :
    nearAt (ops one [(0x1E0, 0x10000), (0x1E1, 0xF0000000000FFFF8), (0x1E3, 0xFFFFFFFF)]) 0xF0000000000FFFF8 0xFFFF8 (8 : Word).toNat ∧
    globalAt (ops one [(0x1E0, 0x10000)]) ((ops one [(0x1E0, 0x10000)]).opnd 0x1E0) ∧ 0 < (8 : Word).toNat ∧
    (0xFFFFFFFF : Word).toNat < 2 ^ 32 ∧ (0xFFFFFFFF : Word).toNat / 256 % 256 = 255 ∧
    ((here one fun x => { x with gets := [putting true] }).tile 0).gets = [putting true] ∧ one.performed (putting true).after = true ∧
    (putting true).left = [(0, (putting true).n)] ∧ (putting true).near + (putting true).n ≤ 2 ^ 20 ∧
    (putting true).far.toNat = 0xF0 * 2 ^ 56 + 0x8000 ∧ ((here one fun x => { x with gets := [putting false] }).tile 0).gets = [putting false] ∧
    (one.tile 0).stopped = false ∧ (one.tile 0).poolBad = [] ∧ (one.tile 0).resv = [] ∧ (one.tile 0).wtt = [] ∧
    (one.tile 0).arrq = [] ∧ (putting true).lsem = 255 ∧ (putting true).sem < 255 := by unfold nearAt globalAt; decide +kernel

/-- A message, and an inbox of n of them. -/
def note : InMsg := ⟨List.replicate 64 1, 0, 0, 0⟩
def inboxed (n : Nat) : State := here one fun x => { x with inbox := List.replicate n note }

/-- Messages: a target, an inbox with room and a full one, a head entry and none. -/
theorem test_hyp_Messages : one.physical one.cur.1 (one.opnd 0x1E0).toNat = some 0 ∧ (0x4000 : Word).toNat % 64 = 0 ∧
    0x4000 * (one.here.partword.toNat % 256) ≤ (0x4000 : Word).toNat % 2 ^ 20 ∧ one.here.poolBad = [] ∧
    (flying (inboxed 63) 0 (.msg note)).packet 7 = some (packet 0 (.msg note)) ∧
    (flying (inboxed 63) 0 (.msg note)).routeAhead (packet 0 (.msg note)) = false ∧ ((inboxed 63).tile 0).inbox.length < 64 ∧
    64 ≤ ((inboxed 64).tile 0).inbox.length ∧ (inboxed 1).here.inbox = note :: [] ∧ note.data.length = 64 ∧
    (inboxed 1).here.resv = [] ∧ (inboxed 1).me.hnd = false ∧
    (∀ e ∈ (inboxed 1).here.strands, e.1 ≠ (inboxed 1).cur.2 → e.2.hold = none) ∧ (inboxed 0).here.inbox = [] := by decide +kernel

/-- A launch of two tiles; strand 1 of tile 0 issues. -/
def two : State :=
  { one with
    launches := [(1, { probeLaunch 0 with record := { probeRecord with x := 2 }, tiles := [0, 1] })]
    tiles := one.tiles ++ [(1, { one.tile 0 with ltile := 1, strands := [] })]
    cur := (0, 1) }

/-- The packet of a migrating strand. -/
def leaving : MigPkt := ⟨List.replicate 10 4, 1, 0x40, 0, [], 0, 0, 1, 0, 0⟩

/-- Every slot of tile 1 is taken. -/
def twoFull : State :=
  two.setTile 1 { two.tile 1 with strands := (List.range 16).map fun k => (k, { Strand.reset with status := .live }) }

/-- Migration: a strand that may go; a target of another launch, one without and one with a free slot; a refusal. -/
theorem test_hyp_Migration : (two.poolTarget two.cur.1 (.remote 1 0)).isSome = true ∧ two.cur.2 ≠ 0 ∧ two.me.wgo = false ∧
    two.me.ret.length ≤ 4 ∧ two.me.sdepth = 0 ∧ two.poolTarget 0 (.remote 1 0) = some (1, 0) ∧
    (flying one 1 (.migrate leaving)).packet 7 = some (packet 1 (.migrate leaving)) ∧
    (flying two 1 (.migrate leaving)).routeAhead (packet 1 (.migrate leaving)) = false ∧
    sameLaunch (flying one 1 (.migrate leaving)) 0 1 = false ∧ sameLaunch (flying two 1 (.migrate leaving)) 0 1 = true ∧
    (two.tile 0).wtt = [] ∧ (two.tile 0).arrq = [] ∧ twoFull.freeSlots 1 = [] ∧ (twoFull.tile 1).arrq.length < 8 ∧
    two.freeSlots 1 = 1 :: [2, 3, 4, 5, 6, 7, 8, 9, 10, 11, 12, 13, 14, 15] ∧ (two.tile 1).arrq = [] ∧ leaving.regs.length = 10 ∧
    ((two.setStrand 0 0 { Strand.reset with block := some (.going 0xE000000100000000) }).strand 0 0).block =
      some (.going 0xE000000100000000) := by decide +kernel

theorem test_hyp_Migration_target : classify 0xE000000100000000 = .ok (.remote 1 0) := rfl

/-- The strand's queue of 0x36 holds n. -/
def queued (n : Nat) : State := flying (me interruptible fun st => { st with irq36 := List.replicate n 3 }) 0 (.ipi 0 9)

/-- TileInterrupts: a queue with room, a full queue, and a kernel that binds no handler. -/
theorem test_hyp_TileInterrupts : one.physical one.cur.1 ((0xF0000 : Word).toNat % 2 ^ 16) = some 0 ∧ one.here.ltile < 2 ^ 16 ∧
    one.cur.2 < 16 ∧ (queued 3).packet 7 = some (packet 0 (.ipi 0 9)) ∧ (queued 3).routeAhead (packet 0 (.ipi 0 9)) = false ∧
    ((queued 3).tile 0).wait36 = [] ∧ (queued 3).takesIrq 0 0 0x36 = true ∧ ((queued 3).strand 0 0).irq36.length < 4 ∧
    4 ≤ ((queued 4).strand 0 0).irq36.length ∧ (queued 4).takesIrq 0 0 0x36 = true ∧
    (flying one 0 (.ipi 0 9)).takesIrq 0 0 0x36 = false := by decide +kernel

/-- A state with a barrier as given, and the strand holding a barwait or not. -/
def barred (x : Bar) (h : Bool) : State :=
  here (me (ops one [(0x1E2, 0xF0F)]) fun st =>
    { st with hold := if h then some (holdOf 0x1EB none true) else none }) fun t => { t with bars := [(15, x)] }

/-- A barrier in phase 1. -/
def phase1 (d : Option Nat) : Bar := ⟨1, 0, 0, false, [], [], d⟩

/-- Barriers: an arrival of 16 parties at barrier 15, waits past, and before, their phase. -/
theorem test_hyp_Barriers : ((barred (phase1 none) false).opnd 0x1E2).toNat = 256 * 15 + 15 ∧
    (∀ e ∈ (barred (phase1 none) false).me.bars, e.1 ≠ 15) ∧ ((barred (phase1 none) false).here.bar 15).cont = false ∧
    ((barred (phase1 none) false).here.bar 15).acnt = 0 ∧ (barred (phase1 none) false).me.hnd = false ∧
    (barred (phase1 none) false).me.hold = none ∧
    (((barred (phase1 none) false).here.bar 15).ph.toNat + 2 ^ 16 - (0 : Word).toNat % 2 ^ 16) % 2 ^ 16 ≠ 0 ∧
    (barred (phase1 none) true).me.hold = some (holdOf 0x1EB none true) ∧
    ((barred (phase1 (some 9)) false).tile 0).bar 15 = phase1 (some 9) ∧ (barred (phase1 (some 9)) false).time < 9 ∧
    ((barred (phase1 (some 0)) false).tile 0).bar 15 = phase1 (some 0) ∧ 0 ≤ (barred (phase1 (some 0)) false).time ∧
    ((barred (phase1 (some 0)) false).tile 0).done = false := by decide +kernel

/-- Barriers: a report at a tile of no launch and at the only tile of one; a release at once, and one held back. -/
theorem test_hyp_Barriers_packets : (flying State.reset 3 (.barReport 2 0)).packet 7 = some (packet 3 (.barReport 2 0)) ∧
    (State.reset.shape 3).1 = 0 ∧ (flying one 0 (.barReport 2 0)).performed [] = true ∧ one.shape 0 = (1, 1) ∧
    (one.tile 0).ltile = 0 ∧ (one.tile 0).done = false ∧
    (flying one 0 (.barRelease 2 0 0)).packet 7 = some (packet 0 (.barRelease 2 0 0)) ∧ (0 : Word).getLsbD 0 = false ∧
    (flying one 0 (.barRelease 2 0 0x10001)).packet 7 = some (packet 0 (.barRelease 2 0 0x10001)) ∧
    (0x10001 : Word).getLsbD 0 = true ∧
    one.time < 0 + (0x10001 : Word).toNat / 2 ^ 16 % 2 ^ 16 + (0x10001 : Word).toNat / 2 ^ 8 % 2 ^ 8 * colOf 0 := by decide +kernel

/-- A data line, and channel 63 of tile 0, whose peer and source is logical tile 0. -/
def dataLine : Line := ⟨List.replicate 56 2, 0, 0, 0, false⟩
def chan (done : Nat) (errs : Map Word) (resync : Bool) : Chan :=
  ⟨0x8000, 256, 16, 5, 0, 0, 63, 6, 2, 16, 0, 0, 2, 0, 0, done, resync, errs⟩
def chanState (c : Nat) (ch : Chan) : State := here (ops one [(0x1E2, BitVec.ofNat 64 c)]) fun x => { x with chans := [(63, ch)] }

/-- A configuration line for CHCONF at offset 0x4000: base, depth and lines at the ends of their ranges. -/
def chLine : List Byte :=
  leBytes 0x4000 4 ++ leBytes 2 2 ++ [16, 255] ++ leBytes 0xFFFF 2 ++ leBytes 0 2 ++ [63, 255] ++ leBytes 256 2 ++ [16]
def confState (c : Nat) (l : List Byte) : State :=
  here (ops one [(0x1E2, BitVec.ofNat 64 c)]) fun x => { x with pool := Memory.writeBytes [] 0x4000 l }

/-- ChannelOperations: SEND, FREE of 256 chunks, CHCONF, QUERY, and QUERY with an error pending. -/
theorem test_hyp_ChannelOperations :
    ((chanState (256 * 63) (chan 0 [] false)).opnd 0x1E2).toNat = 256 * 63 ∧ (chan 0 [] false).peer ≠ 0xFFFF ∧
    (chanState (256 * 63) (chan 0 [] false)).physical 0 (chan 0 [] false).peer = some 0 ∧
    lineAt (chanState (256 * 63) (chan 0 [] false)) ((0x4000 : Word).toNat % 2 ^ 20) ∧
    ((chanState (256 * 63 + 1) (chan 256 [] false)).opnd 0x1E2).toNat = 256 * 63 + 1 ∧ (256 : Word).toNat ≤ 256 ∧
    (256 : Word).toNat ≤ (chan 256 [] false).done ∧ (chan 256 [] false).errs = [] ∧ (chan 256 [] false).src ≠ 0xFFFF ∧
    ((confState (256 * 63 + 2) chLine).opnd 0x1E2).toNat = 256 * 63 + 2 ∧ lineAt (confState (256 * 63 + 2) chLine) 0x4000 ∧
    ((confState (256 * 63 + 2) chLine).here.chan 63).errs = [] ∧
    chconfBad (confState (256 * 63 + 2) chLine) ((confState (256 * 63 + 2) chLine).here.pool.readBytes 0x4000 64) = false ∧
    ringBad (confState (256 * 63 + 2) chLine) ((confState (256 * 63 + 2) chLine).here.pool.readBytes 0x4000 64) = false ∧
    ((chanState (256 * 63 + 4) (chan 0 [(0x21, 0)] false)).opnd 0x1E2).toNat = 256 * 63 + 4 ∧
    ((chanState (256 * 63 + 4) (chan 0 [(0x21, 0)] false)).here.chan 63).errs = (0x21, 0) :: [] := by
  unfold lineAt; decide +kernel

/-- Tile 0 as the receiver of a line of channel 63, the last line of chunk 0. -/
def lineTo (line : Nat) : Payload := .chLine 63 0 line dataLine 63 256
def receiving (ch : Chan) (line : Nat) : State := flying (chanState 0 ch) 0 (lineTo line)

/-- ChannelArrivals: the line that comes next, another one, an unconfigured channel, and a credit. -/
theorem test_hyp_ChannelArrivals :
    arrives (receiving { chan 0 [] false with rline := 15 } 15) 7 (packet 0 (lineTo 15)) ∧
    ({ chan 0 [] false with rline := 15 } : Chan).depth ≠ 0 ∧ (chan 0 [] false).src = (one.tile 0).ltile ∧ 15 < (chan 0 [] false).lines ∧
    dataLine.data.length = 56 ∧ arrives (receiving (chan 0 [] false) 1) 7 (packet 0 (lineTo 1)) ∧
    ¬ (1 = (chan 0 [] false).rline) ∧ (chan 0 [] false).resync = false ∧
    arrives (flying one 0 (lineTo 0)) 7 (packet 0 (lineTo 0)) ∧ ((one.tile 0).chan 63).depth = 0 ∧
    arrives (flying (chanState 0 (chan 0 [] false)) 0 (.credit 63 1 false)) 7 (packet 0 (.credit 63 1 false)) ∧
    (((chanState 0 (chan 0 [] false)).tile 0).chans.find? fun e => e.2.peer == (one.tile 0).ltile && e.2.pch == 63) =
      some (63, chan 0 [] false) := by unfold arrives; decide +kernel

/-- A configuration line for STCONF: one set, from input 1 to output 1; its reservation is f × 2^k / 16 + 1 places. -/
def stLine (k f : Nat) : List Byte :=
  [1, 1, BitVec.ofNat 8 k, BitVec.ofNat 8 f, 255, 255, 0, 0, 2, 2, 0, 0, 0, 0, 0, 0, 255]

/-- StreamEntries: a configuration that fits and one that does not. -/
theorem test_hyp_StreamEntries_configure :
    ((confState (256 * 63 + 3) (stLine 16 15)).opnd 0x1E2).toNat = 256 * 63 + 3 ∧ lineAt (confState (256 * 63 + 3) (stLine 16 15)) 0x4000 ∧
    stconfBad ((confState (256 * 63 + 3) (stLine 16 15)).here.pool.readBytes 0x4000 64) = false ∧
    8192 < reserved (field (confState (256 * 63 + 3) (stLine 16 15)) 0x4000 1) (field (confState (256 * 63 + 3) (stLine 16 15)) 0x4002 1)
      (field (confState (256 * 63 + 3) (stLine 16 15)) 0x4003 1) ∧
    stconfBad ((confState (256 * 63 + 3) (stLine 6 0)).here.pool.readBytes 0x4000 64) = false ∧
    reserved (field (confState (256 * 63 + 3) (stLine 6 0)) 0x4000 1) (field (confState (256 * 63 + 3) (stLine 6 0)) 0x4002 1)
      (field (confState (256 * 63 + 3) (stLine 6 0)) 0x4003 1) ≤ 8192 := by unfold lineAt field; decide +kernel

/-- Entry 0 of tile 0, merging INT32 lines from the inputs of mask i, with the lines given. -/
def merging (i : Nat) (bufs : Map (List Line)) (out : List (Nat × Line)) : State :=
  here one fun x => { x with ents := [(0, ⟨1, 1, 6, 0, 255, 5, [i], [2], 255, 0, 0, 0, 0, bufs, [], [], [], [], 0, [], out⟩)] }

/-- A sparse line of one record, a segment's end, and a line with a kind that does not exist. -/
def record (i v : Nat) : Line := ⟨leBytes i 4 ++ List.replicate 24 0 ++ leBytes v 4 ++ List.replicate 24 0, 1, 1, 1, false⟩
def ending : Line := ⟨List.replicate 56 0, 3, 0, 1, false⟩
def wrong : Line := ⟨List.replicate 56 0, 5, 0, 1, false⟩

/-- StreamEntries, the merge: a sole input with a data line, records of equal and of rising index on two inputs, a terminator,
a fault. -/
theorem test_hyp_StreamEntries_merge :
    ((merging 2 [(1, [{ dataLine with fmt := 1 }])] []).tile 0).stopped = false ∧
    ((merging 2 [(1, [{ dataLine with fmt := 1 }])] []).tile 0 |>.ent 0).inPorts = [1] ∧
    ((merging 2 [(1, [{ dataLine with fmt := 1 }])] []).tile 0 |>.ent 0).nsets ≠ 0 ∧
    lineFault 1 { dataLine with fmt := 1 } = false ∧
    ((merging 6 [(1, [record 8 3]), (2, [record 8 4])] []).tile 0 |>.ent 0).inPorts = [1, 2] ∧
    headOf ((merging 6 [(1, [record 8 3]), (2, [record 8 4])] []).tile 0 |>.ent 0) 1 = some (.record 8 3) ∧
    headOf ((merging 6 [(1, [record 8 3]), (2, [record 8 4])] []).tile 0 |>.ent 0) 2 = some (.record 8 4) ∧
    headOf ((merging 6 [(1, [record 8 3]), (2, [record 9 4])] []).tile 0 |>.ent 0) 2 = some (.record 9 4) ∧
    lineFault 1 ending = false ∧ ending.kind = 3 ∧ lineFault 1 wrong = true ∧
    ((merging 2 [(1, [wrong])] []).tile 0 |>.ent 0).esem < 255 := by decide +kernel

/-- 3 from one side and 4 from the other add to 7 (the example of the sharded optimiser, R278). -/
theorem test_merge_adds : after (exec (.mergeRecord 0 0) (merging 6 [(1, [record 8 3]), (2, [record 8 4])] [])) (fun t =>
    ((t.tile 0).ent 0).span == [(8, 7)]) = true := by decide +kernel

/-- StreamEntries: a line into an input with room and into a full one; an output with room and without; frames. -/
theorem test_hyp_StreamEntries_lines :
    arrives (flying (merging 2 [(1, List.replicate 15 dataLine)] []) 0 (.stLine 0 1 dataLine)) 7 (packet 0 (.stLine 0 1 dataLine)) ∧
    (List.replicate 15 dataLine).length < 16 ∧
    arrives (flying (merging 2 [(1, List.replicate 16 dataLine)] []) 0 (.stLine 0 1 dataLine)) 7 (packet 0 (.stLine 0 1 dataLine)) ∧
    16 ≤ (Map.find [] ((merging 2 [(1, List.replicate 16 dataLine)] []).tile 0 |>.ent 0).bufs 1).length ∧
    ((merging 2 [] [(2, dataLine)]).tile 0 |>.ent 0).out = (2 ^ 1, dataLine) :: [] ∧
    (merging 2 [] [(2, dataLine)]).physical 0 (neighbour 1 1 0 1) = some 0 ∧
    inputRoom (merging 2 [] [(2, dataLine)]) 0 0 (facing 1) = true ∧
    inputRoom (merging 2 [(3, List.replicate 16 dataLine)] [(2, dataLine)]) 0 0 (facing 1) = false ∧
    isHole (0xBFFFFFFC0 % 2 ^ 40) = false ∧ frameTiles one 0 ≠ [] := by unfold arrives; decide +kernel

theorem test_hyp_StreamEntries_frame :
    (⟨1, 0, Config.deviceNumber % 1024, 0, 0, [], 0, 0⟩ : Frame).destDev = Config.deviceNumber % 1024 := rfl

/-- A copy of eight bytes inside the own pool, described at offset 0xFC000; and an outbound bind of socket 1. -/
def descBytes (bind : Bool) : List Byte :=
  leBytes (if bind then 1 else 0xF000000000004000) 8 ++ leBytes 0xF000000000008000 8 ++ leBytes 8 4 ++ leBytes 1 2 ++ leBytes 1 2 ++
    List.replicate 16 0 ++ [255, 0, 0, 0] ++ List.replicate 14 0 ++ [if bind then 2 else 0]
def described (bind : Bool) : State := here one fun x => { x with pool := Memory.writeBytes [] 0xFC000 (descBytes bind) }

/-- CopyOperations: descriptors that pass their checks. -/
theorem test_hyp_CopyOperations_descriptor : (copyCheck (described false) false 0xFC000).toBool = true ∧
    (copyCheck (described true) true 0xFC000).toBool = true ∧ freeCopy (described true).here = some 0 ∧
    nearAt (described false) (BitVec.ofNat 64 (field (described false) 0xFC000 8)) 0x4000 (field (described false) 0xFC010 4) ∧
    nearAt (described false) (BitVec.ofNat 64 (field (described false) 0xFC008 8)) 0x8000 (field (described false) 0xFC010 4) ∧
    0x4000 * ((described false).here.partword.toNat % 256) ≤ 0xFC000 ∧ 0 < field (described false) 0xFC010 4 ∧
    field (described false) 0xFC014 2 = 1 ∧ field (described false) 0xFC016 2 = 1 ∧ field (described false) 0xFC029 1 = 0 ∧
    field (described false) 0xFC02C 4 = 0 ∧ field (described false) 0xFC03A 6 = 0 := by unfold nearAt field; decide +kernel

/-- Entry 31 of the copy queue in a state, owned by a slot; socket 3 bound outbound by slot 0 or not. -/
def copyEnt (state owner : Nat) (abort inbox : Bool) : CopyEnt :=
  ⟨2047, state, owner, ⟨0xF000000000004000, 0xF000000000008000, 8, 1, 1, 0, 0, 0, 0, 5, inbox, 1, 0, 0xFFFF, 0, 0⟩, 0, 7, [], abort, none, 0⟩
def queueing (c : CopyEnt) : State := here one fun x => { x with copies := [(31, c)] }
def socketed (o : Option Nat) (n : Nat) : State :=
  here one fun x => { x with socks := [(3, ⟨o, true, [], [], 0, n, 16, false, none⟩)] }

/-- CopyOperations: every case of query and abort, and of the sockets. -/
theorem test_hyp_CopyOperations :
    ((queueing (copyEnt 3 0 false false)).here.copy ((0xFFFF : Word).toNat % 32)).state ≠ 0 ∧
    ((queueing (copyEnt 3 0 false false)).here.copy ((0xFFFF : Word).toNat % 32)).gen = (0xFFFF : Word).toNat / 32 % 2048 ∧
    ((queueing (copyEnt 3 0 false false)).here.copy 31).owner = (queueing (copyEnt 3 0 false false)).cur.2 ∧
    ((queueing (copyEnt 3 1 false false)).here.copy 31).owner ≠ (queueing (copyEnt 3 1 false false)).cur.2 ∧
    3 < ((queueing (copyEnt 4 0 false true)).here.copy 31).state ∧ (one.here.copy 31).state = 0 ∧
    ((queueing (copyEnt 3 0 false false)).here.copy 31).gen ≠ (0x1F : Word).toNat / 32 % 2048 ∧
    ((socketed none 0).here.sock (3 : Word).toNat).owner ≠ some (socketed none 0).cur.2 ∧
    ((socketed (some 0) 1).here.sock 3).owner = some (socketed (some 0) 1).cur.2 ∧
    ((socketed (some 0) 1).here.sock 3).outbound = true ∧
    8 * ((socketed (some 0) 1).here.sock 3).appended < ((socketed (some 0) 1).here.sock 3).total := by decide +kernel

/-- CopyPieces: a running copy, one to be aborted, and records that wait for the inbox. -/
theorem test_hyp_CopyPieces :
    ((queueing (copyEnt 2 0 false false)).tile 0 |>.copy 31).state = 2 ∧ ((queueing (copyEnt 2 0 false false)).tile 0 |>.copy 31).abort = false ∧
    (queueing (copyEnt 2 0 false false)).performed [] = true ∧ (copyEnt 2 0 false false).done = 0 ∧
    (copyEnt 2 0 false false).desc.src.toNat = 0xF0 * 2 ^ 56 + 0x4000 ∧ (copyEnt 2 0 false false).desc.dst.toNat = 0xF0 * 2 ^ 56 + 0x8000 ∧
    ((queueing (copyEnt 2 0 false false)).tile 0).stopped = false ∧ ((queueing (copyEnt 2 0 false false)).tile 0).poolBad = [] ∧
    ((queueing (copyEnt 2 0 false false)).tile 0).wtt = [] ∧ ((queueing (copyEnt 2 0 false false)).tile 0).arrq = [] ∧
    ((queueing (copyEnt 1 0 true true)).tile 0 |>.copy 31).abort = true ∧ ((queueing (copyEnt 4 0 false true)).tile 0 |>.copy 31).state = 4 ∧
    (copyEnt 5 0 false true).desc.itile = 0xFFFF ∧ ((queueing (copyEnt 5 0 false true)).tile 0).inbox.length < 64 ∧
    64 ≤ ((here (inboxed 64) fun x => { x with copies := [(31, copyEnt 5 0 false true)] }).tile 0).inbox.length := by decide +kernel

/-- The copy whose piece has been read. -/
def copyRead : State := here (queueing { copyEnt 2 0 false false with buf := some [0, 0, 0, 9, 0, 0, 0, 0] }) fun x => { x with pool := [(0x4003, 9)] }

/-- The piece of the running copy is read, then written as it was read, and its entry is free (R97, R102). -/
theorem test_copy_piece : after (exec (.copyPiece 0 31) (here (queueing (copyEnt 2 0 false false)) fun x =>
      { x with pool := [(0x4003, 9)] })) (fun t =>
      ((t.tile 0).copy 31).buf == some [0, 0, 0, 9, 0, 0, 0, 0] && ((t.tile 0).copy 31).done == 0) = true ∧
    after (exec (.copyPiece 0 31) copyRead) (fun t =>
      (t.tile 0).pool == [(0x4003, 9), (0x8003, 9)] && ((t.tile 0).copy 31).state == 0 && ((t.tile 0).sem 5).s == 1) = true := by
  decide +kernel

/-- CopyPieces: the read and the write of a piece, the read of one with an error in it, an abort, a record that can be posted. -/
theorem test_hyp_CopyPieces_steps : (let c := ((queueing (copyEnt 1 0 false false)).tile 0).copy 31; (c.state = 1 ∧ mayStart ((queueing (copyEnt 1 0 false false)).tile 0) c = true) ∧ c.buf = none ∧ c.desc.skind = 0 ∧
      (srcAt c.desc c.done).toNat = 0xF0 * 2 ^ 56 + 0x4000 ∧ pieceLen c.desc c.done = 8 ∧ 0x4000 % 64 + 8 ≤ 64) ∧
    hasBad [0x4000] 0x4000 8 = some 0x4000 ∧
    (let c := (copyRead.tile 0).copy 31; c.state = 2 ∧ c.buf = some [0, 0, 0, 9, 0, 0, 0, 0] ∧ c.desc.dkind = 0 ∧
      (dstAt c.desc c.done).toNat = 0xF0 * 2 ^ 56 + 0x8000 ∧ c.desc.n0 * c.desc.n1 * c.desc.n2 ≤ c.done + 8) ∧
    (copyRead.tile 0).resv = [] ∧ (((queueing (copyEnt 1 0 true true)).tile 0).copy 31).buf = none ∧
    ((queueing (copyEnt 4 0 false true)).tile 0).halted = false := by decide +kernel

/-- A tile with a grant of n rows of l; the vector and matrix obligations. -/
def grantee (r l : Nat) : State := me wide fun st => { st with vgrant := (r, l) }

/-- VectorArithmetic, VectorLogic, VectorPlaces: each type class, float and integer; a row of 64. -/
theorem test_hyp_Vector : vecOk (grantee 4 64) ∧ anyT (typeOf 0x70000) ∧ arithT (typeOf 0x50000) ∧ intT (typeOf 0x30000) ∧
    intT (typeOf 0x50000) ∧ floatT (typeOf 0x20000) ∧ typeOf 0 = 0 ∧ cvtsrTo ((0x80000 : Word).toNat / 2 ^ 19 % 8) = some bf16 ∧
    0 < (grantee 4 64).me.vgrant.2 ∧ (grantee 4 64).me.vgrant.2 ≤ 64 ∧ granted (grantee 4 64) ≤ 1024 := by
  unfold vecOk anyT arithT intT floatT granted; decide +kernel

/-- Two elements that vec.ld and vec.gath read from 0x8000 on. -/
def loading : State := ops (grantee 1 2) [(0x240, 0xF000000000008000), (0x241, 8)]

/-- VectorMemoryAndClaims: elements, a request, an empty one, and none before. -/
theorem test_hyp_VectorMemoryAndClaims : vecOk loading ∧ elemsOwn loading 0 (rowAt loading 0) (fun q => 0x8000 + 4 * q) ∧
    elemsOwn loading 0 (indexAt loading 0) (fun _ => 0x8000) ∧ (0x1004 : Word).toNat % 32 = 4 ∧
    (0x4004 : Word).toNat / 256 % 128 = 64 ∧ wide.here.hasVec wide.cur.2 = true ∧ 4 * 64 ≤ 256 ∧ (0 : Word).toNat % 32 = 0 ∧
    wide.me.vreq.1 = 0 := by unfold vecOk elemsOwn; decide +kernel

/-- A matrix command: opcode and flags, WSEM 255, SSEM 255, at row r of its work; INT8 operands, INT32 accumulators. -/
def command (opc fl : Nat) (phase row flags : Nat) (buf : List Byte) : MxCmd :=
  { id := 7
    line := [BitVec.ofNat 8 opc, BitVec.ofNat 8 fl, 255, 255] ++ List.replicate 12 0 ++ leBytes 0x8000 4 ++ leBytes 0 4 ++
      (if opc = 5 ∨ opc = 6 then leBytes 16 8 else leBytes 0xF000000000004000 8) ++ leBytes 128 4 ++
      (if opc = 4 then leBytes 256 4 else leBytes 0x0C 4) ++ List.replicate 24 0
    fmt := 0x130C, satf := false, slot := 0, after := [], phase := phase, row := row, buf := buf, key := 0, flags := flags,
    suspended := false, seen := [], met := false, fails := 0 }

/-- It alone is in the queue. -/
def commanded (c : MxCmd) : State := here wide fun x => { x with mxq := [c] }

/-- MatrixSequencer: each command ready to start, one whose semaphore is below its threshold, and one completed. -/
theorem test_hyp_MatrixSequencer : mxReady (commanded (command 0 0 0 0 0 [])) 0 (command 0 0 0 0 0 []) 0 ∧
    mxReady (commanded (command 1 0 0 0 0 [])) 0 (command 1 0 0 0 0 []) 1 ∧
    mxReady (commanded (command 2 0 0 0 0 [])) 0 (command 2 0 0 0 0 []) 2 ∧
    mxReady (commanded (command 9 0x40 0 0 0 [])) 0 (command 9 0x40 0 0 0 []) 9 ∧ cfield (command 9 0x40 0 0 0 []) 1 1 = 0x40 ∧
    mxReady (commanded (command 9 0 0 0 0 [])) 0 (command 9 0 0 0 0 []) 9 ∧ cfield (command 9 0 0 0 0 []) 1 1 = 0 ∧
    ((commanded (command 0 0 2 0 0 [])).tile 0).mxq = command 0 0 2 0 0 [] :: [] ∧ (command 0 0 2 0 0 []).phase = 2 ∧
    ((commanded (command 0 0 2 0 0 [])).tile 0).copies = [] := by unfold mxReady; decide +kernel

/-- A command that waits for semaphore 5 to reach 3. -/
def waiting : MxCmd := { command 5 0 0 0 0 [] with line := [5, 0, 5, 255] ++ leBytes 3 4 ++ List.replicate 56 0 }

theorem test_hyp_MatrixSequencer_wait : ((commanded waiting).tile 0).mxq = [waiting] ∧ waiting.phase = 0 ∧ cfield waiting 2 1 ≠ 255 ∧
    geq32 (((commanded waiting).tile 0).sem (cfield waiting 2 1)).s (cfield waiting 4 4) = false := by decide +kernel

/-- Accumulator lines read so far. -/
def readLines (n : Nat) : List Byte := List.replicate (64 * n) 0

/-- MatrixWork: a command of each kind, at the rows where its work changes. -/
theorem test_hyp_MatrixWork : mxRunning (commanded (command 3 0 1 31 0 [])) 0 (command 3 0 1 31 0 []) 3 ∧
    (command 3 0 1 31 0 []).fmt.toNat % 64 = 0x0C ∧ mxOwn (command 3 0 1 31 0 []) 31 (0x4000 + 128 * 31) 128 ∧
    mxRunning (commanded (command 4 0 1 0 0 [])) 0 (command 4 0 1 0 0 []) 4 ∧
    mxOwn (command 4 0 1 0 0 []) 0 0x4000 (cfield (command 4 0 1 0 0 []) 36 2) ∧
    mxRunning (commanded (command 7 0 1 63 0 [])) 0 (command 7 0 1 63 0 []) 7 ∧ 63 < blockLines (command 7 0 1 63 0 []) ∧
    mxRunning (commanded (command 5 0 1 63 0 [])) 0 (command 5 0 1 63 0 []) 5 ∧ 63 < blockLines (command 5 0 1 63 0 []) ∧
    cfield (command 5 0 1 63 0 []) 1 1 = 0 ∧ mxRunning (commanded (command 6 1 1 0 0 [])) 0 (command 6 1 1 0 0 []) 6 ∧
    cfield (command 6 1 1 0 0 []) 1 1 = 1 ∧ (command 6 1 1 0 0 []).fmt.toNat % 2 ^ 14 = 0x130C ∧
    cfield (command 6 1 1 0 0 []) 24 2 = 16 ∧ mxRunning (commanded (command 8 0 1 63 0 [])) 0 (command 8 0 1 63 0 []) 8 ∧ (command 5 0 1 64 0 []).row = blockLines (command 5 0 1 64 0 []) := by
  unfold mxRunning mxOwn; decide +kernel

/-- A write of the last line of a product, and the last row of a store. -/
def lastLine : MxCmd := command 5 0 1 127 256 (readLines 64)
def lastRow : MxCmd := command 8 0 1 95 0 (readLines 64)

theorem test_hyp_MatrixWork_write : mxRunning (commanded lastLine) 0 lastLine 5 ∧ lastLine.row = blockLines lastLine + 63 ∧
    lastLine.flags / 256 = 1 ∧ lastLine.buf.length = 64 * blockLines lastLine :=
  ⟨⟨rfl, rfl, rfl, by decide +kernel, rfl, rfl⟩, by decide +kernel, rfl, by
    rw [show blockLines lastLine = 64 by decide +kernel]; exact List.length_replicate⟩

theorem test_hyp_MatrixWork_store : mxRunning (commanded lastRow) 0 lastRow 8 ∧ lastRow.row = blockLines lastRow + 31 ∧
    cfield lastRow 1 1 = 0 ∧ cfield lastRow 36 1 = 0x0C ∧ lastRow.fmt.toNat / 2 ^ 12 % 4 = 1 ∧ lastRow.buf.length = 4096 ∧
    mxOwn lastRow 31 (0x4000 + 128 * 31) 32 :=
  ⟨⟨rfl, rfl, rfl, by decide +kernel, rfl, rfl⟩, by decide +kernel, by decide +kernel, by decide +kernel, by decide +kernel,
    List.length_replicate, by unfold mxOwn; decide +kernel⟩

/-- An MXFP4 block of 30, 20 and zeros under RNE: scale byte 0x81, elements 0b0111 and 0b0110 (the example under R220). -/
theorem test_store_mxfp4 : blockScale ⟨.float e2m1, .mx⟩ (.fin false 1 0) [ofInteger 30, ofInteger 20] =
      (0x81, some (.fin false 1 2), 0) ∧
    ((NumFmt.float e2m1).convertQuot .rne (ofInteger 30) (.fin false 1 2)).code = 7 ∧
    ((NumFmt.float e2m1).convertQuot .rne (ofInteger 20) (.fin false 1 2)).code = 6 := by decide +kernel

/-- A queue table whose queue 0 has a ring of 16 at 0x10000 in context 0, and the queue's HEAD and TAIL. -/
def queueTable : Memory := Memory.writeBytes [] 0x100000 (leBytes 0x10000 8 ++ [4, 1, 0, 0, 0, 0, 1, 0])
def rung (head tail : Nat) : State := { one with hbm := queueTable, qtbase := 0x100000, queues := [(0, ⟨head, tail⟩)] }

/-- LaunchSequence: doorbells up to the ring's length and past it; a record that can be taken. -/
theorem test_hyp_LaunchSequence_queues : (rung 0 0).qent (65536 * 0 + 0 / 8) = some ⟨0x10000, 4, 1, 0, 0⟩ ∧
    ((16 : Word).toNat + 2 ^ 32 - ((rung 0 0).queue 0).head) % 2 ^ 32 ≤ 2 ^ 4 ∧
    2 ^ 4 < ((17 : Word).toNat + 2 ^ 32 - ((rung 0 0).queue 0).head) % 2 ^ 32 ∧ 0x7FFF8 % 8 = 0 ∧
    ((rung 0 1).queue 0).head ≠ ((rung 0 1).queue 0).tail ∧ (rung 0 1).waiting 0 = none ∧ seqXl (rung 0 1) 0 0x10000 true = none ∧
    ((rung 0 0).queue 0).head = ((rung 0 0).queue 0).tail := by decide +kernel

/-- A launch of queue 0 that waits for a place on partition 0, which has n sori; its object's data. -/
def placing (n : Nat) (d : List Byte) : State :=
  { State.reset with
    objects := [{ probeObject [] with data := d }], launches := [(5, { probeLaunch 0 with phase := 0, sori := [], tiles := [] })]
    parts := [(0, { Part.reset with sori := List.range n })], arb := [(0, ⟨0, 0, some 5⟩)], nextId := 6 }

/-- LaunchSequence: a candidate without room, one that is loaded, and one whose data does not fit. -/
theorem test_hyp_LaunchSequence_placement : ((placing 0 []).part 0).state < 2 ∧ ((placing 0 []).part 0).phase = 0 ∧
    ((placing 0 []).candOf 0).map Prod.fst = some 5 ∧ ((placing 0 []).freeSori 0).length < soriOf 1 1 ∧
    (placing 2 []).started 5 0 = true ∧ soriOf 1 1 ≤ ((placing 2 []).freeSori 0).length ∧ ((placing 2 []).freeSori 0).Nodup ∧
    checkLoad probeRecord (probeObject []) = 0 ∧ 2 ≤ ((State.reset.setPart 0 { Part.reset with state := 2 }).part 0).state := by
  decide +kernel

theorem test_hyp_LaunchSequence_tooLong :
    checkLoad probeRecord { probeObject [] with data := List.replicate 0x3C0001 0 } ≠ 0 ∨
    checkLoad probeRecord { probeObject [] with badBody := true } ≠ 0 := by right; decide +kernel

/-- The launch of tile 0, loaded, running with its tile complete, or complete. -/
def launched (phase : Nat) (tiles sori : List Nat) : State :=
  { one with launches := [(1, { probeLaunch 0 with phase := phase, doneTiles := tiles, doneSori := sori,
                                                   record := { probeRecord with pa := 0x200000, csem := some 0x300000 } })] }

/-- LaunchSequence: starting, completing sori and the launch. -/
theorem test_hyp_LaunchSequence_end : (Map.get? (launched 1 [] []).launches 1).map Launch.phase = some 1 ∧
    ((launched 1 [] []).part 0).phase = 0 ∧ (launched 1 [] []).objects[0]? = some (probeObject []) ∧ ([0] : List Nat).Nodup ∧
    (Map.get? (launched 2 [0] []).launches 1).map (fun l => (l.phase, l.doneTiles, l.doneSori)) = some (2, [0], []) ∧
    sorusTiles 1 1 0 ≠ [] ∧ (∀ lt ∈ sorusTiles 1 1 0, lt ∈ [0]) ∧ (∃ lt ∈ sorusTiles 1 1 0, lt ∉ ([] : List Nat)) ∧
    (∀ u ∈ [0], ((launched 2 [0] [0]).tile u).faultq = []) ∧ (launched 2 [0] [0]).psd 0 84 4 = 0 ∧
    ([] : List Nat).length < soriOf 1 1 ∧ soriOf 1 1 ≤ ([0] : List Nat).length ∧ (0x00FF0000 : Nat) / 2 ^ 31 ≠ 1 ∧
    (0x00FF0000 : Nat) / 2 ^ 16 % 256 = 255 := by decide +kernel

theorem test_hyp_LaunchSequence_record :
    recordApart (launched 2 [0] [0]) 0 { probeRecord with pa := 0x200000, csem := some 0x300000 } := by
  refine ⟨by decide +kernel, by decide +kernel, fun c h => ?_⟩
  cases h
  decide +kernel

/-- A waiting fault record, with the ring's tail; a strand that waits for recovery. -/
def faulted (tail : Nat) : State :=
  (here one fun x => { x with faultq := [⟨0x0E, 0, 0, 0, false, 0, 0, 0, 0, 0, 0⟩] }).setPart 0 { Part.whole with ftail := tail }
/-- An image of these launches. -/
def imageOf (ls : List (Nat × Launch)) : Image := { ts := 0, base := 0, tiles := [], launches := ls, spill := [], late := [] }
def recovering (im : Option Image) : State :=
  { one with hbm := [(84, 1)] }.setPart 0 { Part.whole with state := 1, recov := [(0, 0, 0x2E)], last := im }

/-- FaultRecords. -/
theorem test_hyp_FaultRecords : ((faulted 0).tile 0).faultq = ⟨0x0E, 0, 0, 0, false, 0, 0, 0, 0, 0, 0⟩ :: [] ∧
    ((faulted 0).launchOf 0).map Launch.part = some 0 ∧ (faulted 0).faultRoom 0 = true ∧ (faulted 1).faultRoom 0 = false ∧
    (one.part 0).recov = [] ∧ ((recovering none).part 0).recov = (0, 0, 0x2E) :: [] ∧ ((recovering none).part 0).state = 1 ∧
    ((recovering none).part 0).phase = 0 ∧ (recovering none).faultRoom 0 = true ∧ (recovering none).recurs = [] ∧
    ((recovering none).part 0).last = none ∧ isService 0 = false ∧ (recovering none).psd 0 84 4 ≠ 0 := by decide +kernel

/-- FaultRecords: a ring apart from the partition's descriptor. -/
theorem test_hyp_FaultRecords_ring :
    ({ faulted 0 with hbm := Memory.writeBytes [] 48 (leBytes 0x1000 8) } : State).psd 0 48 8 = 0x1000 ∧ isHost 0x1000 = false ∧
    (faulted 0).psdAt 0 + 128 ≤ 0x1000 := by decide +kernel

/-- FaultRecords, a recovery from a checkpoint. -/
theorem test_hyp_FaultRecords_restore :
    ((recovering (some (imageOf one.launches))).part 0).last = some (imageOf one.launches) ∧
    (∀ e ∈ (recovering (some (imageOf one.launches))).placedOn 0, Map.get? one.launches e.1 ≠ none) ∧
    (one.launches.map fun e => soriOf e.2.record.x e.2.record.y).sum ≤
      ((recovering (some (imageOf one.launches))).freeSori 0).length := by decide +kernel

/-- A window of kind 0 on tile 0's pool, and n pieces in its ingress buffer. -/
def windowed (n : Nat) : State :=
  { (here one fun x => { x with ingress := List.replicate n ⟨0x4000, [1], 0, false⟩ }) with windows := [(0, 0x8000000000000001)] }

/-- HostAccesses: an ingress buffer with room and a full one, no window, pieces to apply and one that waits, and HBM. -/
theorem test_hyp_HostAccesses : (windowed 31).hostWin 0 0x403F 1 = some ⟨0, 0, 0, 0x403F⟩ ∧ 1 ≤ 64 - 0x403F % 64 ∧
    (windowed 31).bootst.toNat % 256 ≠ 0x80 ∧ ({ one with bootst := 0x80 } : State).bootst.toNat % 256 = 0x80 ∧
    (windowed 31).hostWin 0 0xFFFFF 2 = none ∧ (∃ k e, (k, e) ∈ ((windowed 1).tile 0).strands ∧ e.status = .live) ∧
    ((here (windowed 1) fun x => { x with pieced := true }).tile 0).pieced = true ∧ ((windowed 1).tile 0).resv = [] ∧
    ({ one with windows := [(0, 0xC000000000000001), (1, 0x10000)] } : State).hostWin 0 0x40 64 = some ⟨2, 0, 0x10000, 0x40⟩ ∧
    isHole (((0x10000 : Word).toNat + 0x40) % 2 ^ 52) = false ∧ (0x7FFF8 : Nat) % 8 = 0 ∧
    (windowed 31).hostTile 0 ((0 : Word).toNat / 2 ^ 32 % 2 ^ 16 + 0x403F / 2 ^ 20) = .live 0 ∧
    0x4000 * (((windowed 31).tile 0).partword.toNat % 256) ≤ 0x403F % 2 ^ 20 ∧ ((windowed 31).tile 0).ingress.length < 32 ∧
    ((windowed 32).tile 0).ingress.length = 32 ∧ ((windowed 31).tile 0).poolBad = [] ∧ ((windowed 31).tile 0).poolWeak = [] ∧
    one.hostWin 0 0 1 = none ∧ ((windowed 1).tile 0).ingress = ⟨0x4000, [1], 0, false⟩ :: [] ∧ ((windowed 1).tile 0).stopped = false ∧
    ((windowed 1).tile 0).pieced = false ∧ ((windowed 1).tile 0).hwin = false ∧ (trained one).chanCtl 0 = 1 ∧
    (trained one).hbmBad = [] ∧ (trained one).hbmWeak = [] ∧ (trained one).l2Bad = [] ∧ (trained one).l2Weak = [] ∧ 64 ≤ 64 - 0 % 64 := by
  refine ⟨?_, ?_, ?_, ?_, ?_, ⟨0, (windowed 1).strand 0 0, ?_, ?_⟩, ?_⟩ <;> decide +kernel

/-- Partition 0 in a STATE. -/
def gang (state : Nat) (busy : Bool) (im : Option Image) (n : Nat) : State :=
  { one with parts := [(0, { Part.reset with state := state, busy := busy, image := im, sori := List.range n })] }

/-- GangCommands: busy, each STATE, an image with and without room, a stopped strand and none. -/
theorem test_hyp_GangCommands : ((gang 1 true none 1).part 0).busy = true ∧ ((gang 1 false none 1).part 0).busy = false ∧
    ((gang 1 false none 1).part 0).state = 1 ∧ ((gang 0 false none 1).part 0).state ≠ 1 ∧ ((gang 0 false none 1).part 0).state ≠ 2 ∧
    ((gang 2 false (some (imageOf one.launches)) 1).part 0).image = some (imageOf one.launches) ∧
    (∀ e ∈ one.launches, ((gang 2 false none 1).rebind (imageOf one.launches) e.1 e.2).isSome = true) ∧
    ((gang 2 false (some (imageOf one.launches)) 1).freeSori 0).length < (one.launches.map fun e => soriOf e.2.record.x e.2.record.y).sum ∧
    (one.launches.map fun e => soriOf e.2.record.x e.2.record.y).sum ≤ ((gang 2 false (some (imageOf one.launches)) 2).freeSori 0).length ∧
    (∀ u ∈ (gang 1 false none 1).partTiles 0,
      ¬ (((gang 1 false none 1).tile u).ltile = 0 ∧ 0 < 16 ∧ ((gang 1 false none 1).strand u 0).status = .stopped)) ∧
    (((me (gang 1 false none 1) fun st => { st with status := .stopped }).partTiles 0).find? fun t =>
      ((me (gang 1 false none 1) fun st => { st with status := .stopped }).tile t).ltile == 0 && decide (0 < 16) &&
        ((me (gang 1 false none 1) fun st => { st with status := .stopped }).strand t 0).status == .stopped) = some 0 := by
  decide +kernel

/-- Partition 0 in a phase of a switch or checkpoint, its time agreed as 5. -/
def phased (ph : Nat) (ck : Bool) (time : Nat) (f : Tile → Tile) : State :=
  { (here one f) with time := time, hbm := [(84, 1)], parts := [(0, { Part.whole with state := 1, phase := ph, ckpt := ck, ts := 5, nextCk := some 5 })] }

/-- GangSequence: each phase before and at its time. -/
theorem test_hyp_GangSequence : ((phased 0 false 5 id).part 0).nextCk = some 5 ∧ (phased 0 false 5 id).psd 0 84 4 ≠ 0 ∧
    (phased 0 false 4 id).time < 5 ∧ ((phased 1 false 5 id).launchOf 0).map Launch.part = some 0 ∧ ((phased 1 false 5 id).part 0).phase = 1 ∧
    ((phased 1 false 5 id).part 0).ts ≤ (phased 1 false 5 id).time ∧ ((phased 1 false 5 id).tile 0).stopped = false ∧
    (phased 2 false 5 fun x => { x with stopped := true }).unsettled 0 = false ∧
    (∀ t ∈ (phased 2 false 5 fun x => { x with stopped := true }).partTiles 0,
      ((phased 2 false 5 fun x => { x with stopped := true }).tile t).stopped = true) ∧
    (flying (phased 2 false 5 id) 1 (.pool (.store 4 6) 0x4000 false)).unsettled 0 = true ∧
    (phased 3 false 5 id).inbound 0 = [] ∧ ((phased 3 false 5 id).tile 0).halted = false ∧ (phased 4 true 5 id).balanced 0 = true ∧
    (phased 4 false 5 fun x => { x with sent := 1 }).balanced 0 = false ∧ ((phased 6 false 5 id).part 0).ts ≤ (phased 6 false 5 id).time := by
  decide +kernel

/-- GangSequence: packets that fall into the ring, and a full ring. -/
theorem test_hyp_GangSequence_spill : (flying (phased 3 false 5 id) 0 (.msg note)).packet 7 = some (packet 0 (.msg note)) ∧
    ((flying (phased 3 false 5 id) 0 (.msg note)).launchOf 0).map Launch.part = some 0 ∧
    (flying (phased 3 false 5 id) 0 (.msg note)).spillRoom 0 = true ∧
    ({ (phased 3 false 5 id) with parts := [(0, { Part.whole with state := 1, phase := 3, sptail := 1 })] } : State).spillRoom 0 = false ∧
    (flying (phased 4 false 5 id) 0 (.sem 254 3 false)).packet 7 = some (packet 0 (.sem 254 3 false)) := by decide +kernel

/-- PowerAndReliability: refills, controllers, the power states, and what a scrub finds. -/
theorem test_hyp_PowerAndReliability : (one.launchOf 0).map Launch.phase = some 2 ∧ (one.tile 0).cycle < (one.tile 0).refillAt ∧
    ((here one fun x => { x with cycle := 256 }).tile 0).refillAt ≤ ((here one fun x => { x with cycle := 256 }).tile 0).cycle ∧
    (Map.find Stipe.reset one.stipes 1199).next ≤ ({ one with time := 1000 } : State).time ∧
    one.time < (Map.find Stipe.reset one.stipes 1199).next ∧
    ({ one with time := 10000 } : State).time ≥ Map.find 10000 one.dieNext 0 ∧ one.time < Map.find 10000 one.dieNext 0 ∧
    State.reset.idle = true ∧ (gang 1 false none 1).idle = false ∧
    ({ State.reset with pwrst := 2, ltol := 2000, time := 8000000 } : State).idle = true ∧ latencyOf 3 ≤ (2000 : Word).toNat * 1000 ∧
    0 + 4 * latencyOf 3 ≤ 8000000 ∧ ({ State.reset with tempNext := 1 } : State).time < 1 ∧ one.tempNext ≤ one.time ∧
    Map.find 0 one.scrub 0 ≠ 0 ∧ Map.find 0 one.scrub 1 ≠ 0 ∧ Map.find 0 one.scrub 2 ≠ 0 ∧ (trained one).chanCtl 0 = 1 ∧ isHost 0 = false := by decide +kernel

/-- Channel 31 of stack 15 with CHCTL as given, a test running or not. -/
def channelled (ctl : BitVec 2) (busy : Bool) (time : Nat) (tr : Option (BitVec 2)) : State :=
  { one with time := time, hbmCh := [(511, { HbmCh.reset with ctl := ctl, busy := busy, trainTo := tr })] }

/-- HbmChannels: every case, and the last tick and the first past a test's limit. -/
theorem test_hyp_HbmChannels : (1 : Word).getLsbD 1 = false ∧ (2 : Word).getLsbD 1 = true ∧
    ((channelled 1 false 0 none).channel 15 31).ctl.getLsbD 1 = false ∧ ((channelled 2 false 0 none).channel 15 31).ctl.getLsbD 1 = true ∧
    ((channelled 2 false 0 none).channel 15 31).busy = false ∧ ((channelled 1 false 0 none).channel 15 31).trainTo = none ∧
    ((channelled 1 false 0 (some 2)).channel 15 31).trainTo = some 2 ∧ ((channelled 2 true 0 none).channel 15 31).busy = true ∧
    (channelled 2 true 9999 none).time < ((channelled 2 true 9999 none).channel 15 31).started + 10000 ∧
    ((channelled 2 true 10000 none).channel 15 31).started + 10000 ≤ (channelled 2 true 10000 none).time := by decide +kernel

/-- StartUp: every stage, an image that is refused, and the last tick of Retry Status. -/
theorem test_hyp_StartUp : State.reset.bootst.toNat % 256 = 0 ∧ ({ State.reset with bootst := 4 } : State).bootst.toNat % 256 = 4 ∧
    ({ State.reset with bootst := 0x80 } : State).bootst.toNat % 256 = 0x80 ∧ ({ one with bootst := 1 } : State).bootst.toNat % 256 = 1 ∧
    imageAccepted State.reset.flash State.reset.rollback = false ∧
    ({ State.reset with bootst := 2 } : State).bootst.toNat % 256 = 2 ∧ ({ State.reset with bootst := 3 } : State).bootst.toNat % 256 = 3 ∧
    ({ State.reset with time := 999999999 } : State).time < 1000000000 := by decide +kernel

/-- EncodeDecode: a well-formed instruction of each way of writing one down. -/
theorem test_hyp_EncodeDecode : (Instr.tParcel 511 7 7).wf = true ∧ encode (.tParcel 511 7 7) = some (.parcels [0x7FFF]) ∧
    (Instr.vecRel 3).wf = true ∧ encode (.vecRel 3) = some (.move 0x275 3 false 0) ∧ (Instr.mxFence 16383).wf = true ∧
    encode (.mxFence 16383) = some (.command 9 16383) ∧ (decodeWord emptyWord).slots.length = 8 := by decide +kernel

theorem test_hyp_EncodeDecode_parcels : decodeParcels [0x7FFF, 1] = .ok (.tParcel 511 7 7) := rfl

/-- TriggerFires: a trigger. -/
theorem test_hyp_TriggerFires : decodeTrigger 0x099 3 false 0 = some (.aluShl .alu1 3) := rfl

/-- StepRunsDecoded: a parcel, a repetition, an annulled issue; and no turn. -/
theorem test_hyp_StepRunsDecoded : atWord.turn = some (0, 0) ∧ canAttempt (atWord.strand 0 0) = true ∧ (atWord.strand 0 0).delay = none ∧
    (atWord.strand 0 0).rep = 0 ∧ canAttempt (atRepetition.strand 0 0) = true ∧ (atRepetition.strand 0 0).rep ≠ 0 ∧
    canAttempt ((annulled [0x0040] 1).strand 0 0) = true ∧ ((annulled [0x0040] 1).strand 0 0).delay = some ⟨1, true, true, 0x50⟩ ∧
    (annulled [0x0040] 1).turn = some (0, 0) ∧ between.turn = none := by decide +kernel

theorem test_hyp_StepRunsDecoded_parcel : decodeParcels (atWord.parcels 0 (atWord.strand 0 0).pc.toNat 17) = .ok (.tParcel 0 1 0) := rfl

/-- R384: a word's correctable error at the third scrub on end retires the stipe, by a recovery of its partition (R381). -/
theorem test_scrub_third : after (exec (.scrubVisit (.pool 0 8)) { (here one fun x => { x with poolWeak := [8] }) with
      weakRun := [(.pool 0 8, 2)] })
    (fun t => (t.part 0).recov == [(0, 16, 0x32)] && t.here.poolWeak.isEmpty && t.weakRun.isEmpty) = true := by decide +kernel

/-- R379, R380: a read of a word with an uncorrectable error in a dirty line of the die L2 is a fault of level 2. -/
theorem test_l2_error : (({ one with l2Bad := [72] } : State).hbmFault 64 64, ({ one with l2Bad := [72] } : State).errLevel 64 64) =
    (true, 2) ∧ (({ one with l2Bad := [72] } : State).paWrite 72 (leBytes 5 8)).l2Bad = [] := by decide +kernel

/-- MemoryStaysCanonical: a state with a memory that lists something, whose step answers. -/
theorem test_hyp_MemoryStaysCanonical : (atWord.hbm.wf && atWord.hostMem.wf && atWord.far.wf) = true ∧
    atWord.tiles.all (fun e => e.2.pool.wf && e.2.opmem.wf && e.2.scale.wf) = true ∧ runs (step atWord) = true := by decide +kernel

/-! ## Hypotheses of the obligations, their further clauses -/

/-- ReplayAndDelivery: what a check may fail on is the word, a running copy, or a running command; the first failures and the
fourth. -/
def waitingFor (f : Tile → Tile) : State := here (me one fun st => { st with block := some (.tload 1) }) f
def copyFailing (n : Nat) : State := waitingFor fun x => { x with copies := [(31, { copyEnt 2 0 false false with fails := n })] }
def mxFailing (n : Nat) : State := waitingFor fun x => { x with mxq := [{ command 5 0 1 0 0 [] with fails := n }] }

/-- A strand whose word has failed n times, with the kernel's word before it. -/
def failedWord (n : Nat) : State := here (me bound fun st => { st with attempts := n }) id

theorem test_hyp_ReplayAndDelivery_checked :
    checkedOf (copyFailing 2) 0 0 = [.copy 31 { copyEnt 2 0 false false with fails := 2 }] ∧
    checkedOf (copyFailing 3) 0 0 = [.copy 31 { copyEnt 2 0 false false with fails := 3 }] ∧
    checkedOf (mxFailing 2) 0 0 = [.mx { command 5 0 1 0 0 [] with fails := 2 }] ∧
    checkedOf (mxFailing 3) 0 0 = [.mx { command 5 0 1 0 0 [] with fails := 3 }] ∧
    checkedOf atWord 0 0 = [.word] ∧ (atWord.strand 0 0).attempts < 3 := by decide +kernel

/-- The same word at its fourth attempt, in a kernel that binds 0x32. -/
def fourth : State := me { atWord with objects := [{ probeObject [0x0008] with handlers := [(0x32, 0x500)] }] } fun st =>
  { st with attempts := 3 }

theorem test_hyp_ReplayAndDelivery_fourth : checkedOf fourth 0 0 = [.word] ∧ 3 ≤ (fourth.strand 0 0).attempts ∧
    (fourth.strand 0 0).tl = false ∧ fourth.vector 0 0x32 = some 0x500 := by decide +kernel

/-- TrapStopsAndReturns: entry can be made; and a return with an operation to re-fire, NORF clear. -/
theorem test_hyp_TrapStops_ready : entryReady unbound 0 0 = true ∧ entryReady twiceTrapped 0 0 = true ∧
    (me (returning 0 false) fun st => { st with latched := [⟨⟨0x16A, 4, false, 0⟩, 0x0E, 4, false⟩] }).me.norf = false ∧
    (me (returning 0 false) fun st => { st with latched := [⟨⟨0x16A, 4, false, 0⟩, 0x0E, 4, false⟩] }).me.latched ≠ [] ∧
    (returning 0 false).me.latched = [] := by decide +kernel

/-- Words: the kept copy of a repetition. -/
theorem test_hyp_Words_kept : atRepetition.me.rword = some ⟨moveWord, true, 0, false, false⟩ ∧
    movesOnly (decodeWord moveWord) := by unfold movesOnly; decide +kernel

/-- RemoteAccesses: the joined request of a walk that ends, its page and its rights. -/
theorem test_hyp_GlobalAccesses_joined : (walk 7 false).joined = [(7, 0x10000)] ∧ LsuKind.load 8 false ≠ .pf ∧
    (0x10000 : Word).toNat % 2 ^ 56 / 2 ^ 30 = (walk 7 false).va.toNat % 2 ^ 56 / 2 ^ 30 ∧
    (LsuKind.load 8 false).writes = false ∧ (LsuKind.store 8 5).writes = true ∧ (packet 0 (.lsu (.load 8 false) 0x10000 false none)).src < 8192 := by
  decide +kernel

/-- A vec.ld or vec.st of two rows of one element in tile 1, at row p. -/
def rowsOp (ld : Bool) (p : Nat) : VecOp := ⟨ld, 4, 0, [], [⟨1, 0x4000, [(0, 0)], [1, 2, 3, 4]⟩, ⟨1, 0x4100, [(0, 4)], [5, 6, 7, 8]⟩], p, [], false⟩

/-- RemoteAccesses: a load's row before the last, its last, and a store's last row. -/
theorem test_hyp_SorusAccesses_rows :
    (flying one 1 (.vmem (rowsOp true 0))).packet 7 = some (packet 1 (.vmem (rowsOp true 0))) ∧ (packet 1 (.vmem (rowsOp true 0))).stop = false ∧
    (rowsOp true 0).rows[(rowsOp true 0).pos]? = some ⟨1, 0x4000, [(0, 0)], [1, 2, 3, 4]⟩ ∧
    aheadInPool (flying one 1 (.vmem (rowsOp true 0))) (packet 1 (.vmem (rowsOp true 0))) 1 0x4000 (VecRow.bytes ⟨1, 0x4000, [(0, 0)], [1, 2, 3, 4]⟩ 4) = false ∧
    (rowsOp true 0).pos + 1 < (rowsOp true 0).rows.length ∧ (rowsOp true 1).pos + 1 = (rowsOp true 1).rows.length ∧
    (rowsOp true 1).rows[(rowsOp true 1).pos]? = some ⟨1, 0x4100, [(0, 4)], [5, 6, 7, 8]⟩ ∧ (rowsOp false 1).load = false ∧
    aheadInPool (flying one 1 (.vmem (rowsOp true 1))) (packet 1 (.vmem (rowsOp true 1))) 1 0x4100 (VecRow.bytes ⟨1, 0x4100, [(0, 4)], [5, 6, 7, 8]⟩ 4) = false ∧
    aheadInPool (flying one 1 (.vmem (rowsOp false 1))) (packet 1 (.vmem (rowsOp false 1))) 1 0x4100 (VecRow.bytes ⟨1, 0x4100, [(0, 4)], [5, 6, 7, 8]⟩ 4) = false ∧
    ([5, 6, 7, 8] : List Byte).take 4 = [5, 6, 7, 8] ∧ (one.tile 1).poolBad = [] := by decide +kernel

/-- Reservations: a tile that runs, a limit, and entries of a granule before and at their 256 cycles. -/
def lockedAt (c : Nat) : State := here one fun x => { x with cycle := c, resv := [⟨0, 0, 0x200, some 0⟩] }
theorem test_hyp_Reservations_locked : (reserving false).here.stopped = false ∧ (10 : Nat) ≠ 0 ∧
    ((lockedAt 256).tile 0).resv[0]? = some ⟨0, 0, 0x200, some 0⟩ ∧ 0 + 256 ≤ ((lockedAt 256).tile 0).cycle ∧
    ((lockedAt 255).tile 0).cycle < 0 + 256 := by decide +kernel

/-- AtomicOperations: an atomic that leaves: to another tile, and, under SC, to the own one; and nothing before a packet. -/
def sorusOps (sc : Word) : State := ops (here wide fun x => { x with ltile := 0 }) [(0x1A0, 0xF000000000008000), (0x1A3, sc)]
theorem test_hyp_AtomicsSent : atmCheck (sorusOps 8) ((sorusOps 8).opnd 0x1A0 + (sorusOps 8).opnd 0x1A2) 4 = .ok (0, 0x8000) ∧
    ((sorusOps 8).opnd 0x1A3).getLsbD 3 = true ∧
    aheadInPool (flying one 1 (.atomic (addReq none))) (packet 1 (.atomic (addReq none))) 1 0x8000 8 = false := by
  refine ⟨?_, ?_, ?_⟩ <;> first | rfl | decide +kernel

/-- AtomicOperations: each form is one of those listed, the first of them. -/
theorem test_hyp_AtomicsSent_form : (Instr.atmAddw, RmwOp.add, 4) ∈ atmForms := by unfold atmForms; exact List.mem_cons_self ..

/-- Semaphores: a wait that was held, met at a change or out of time; a semaphore that cannot be read. -/
def semHeldOf (w : SemHold) : State := me semd fun st => { st with hold := some (holdOf 0x1C5 (some w) false) }
theorem test_hyp_Semaphores_held : (semHeldOf ⟨5, 9, 10, some (9, false), false⟩).me.hold = some (holdOf 0x1C5 (some ⟨5, 9, 10, some (9, false), false⟩) false) ∧
    (holdOf 0x1C5 (some ⟨5, 9, 10, some (9, false), false⟩) false).sem = some ⟨5, 9, 10, some (9, false), false⟩ ∧
    (⟨5, 9, 10, none, true⟩ : SemHold).met = none ∧ (semHeldOf ⟨5, 9, 10, none, true⟩).me.hnd = false ∧
    (here semd fun x => { x with cellBad := [.sem 0 5] }).here.isBad (.sem 0 5) = true ∧ semAt (semHeldOf ⟨5, 9, 10, none, true⟩) 5 := by
  unfold semAt semClean; decide +kernel

/-- WaitingTasks: a sound semaphore, and a tile that runs. -/
theorem test_hyp_WaitingTasks_clean : semClean one 5 ∧ (one.tile 0).stopped = false ∧ (entry 2).sem = 5 := by
  unfold semClean; decide +kernel

/-- InvalidationAndHostInterrupt: the tile is not halted; and DeviceRegisters, in recovery and not. -/
theorem test_hyp_recovery : (interruptible.tile 0).halted = false ∧ one.bootst.toNat % 256 ≠ 0x80 ∧
    ({ one with bootst := 0x80 } : State).bootst.toNat % 256 = 0x80 := by decide +kernel

/-- The one thing that can be chosen. -/
theorem choice_one (s : State) : s.choice 1 = 0 := Nat.mod_one _

/-- PutsAndGets: the piece to read, and, once it is read, the piece to write. -/
def readPut : NetOp := { putting false with left := [], got := [(0, List.replicate 8 1)] }
theorem test_hyp_PutsAndGets_pieces :
    pieceDue (here one fun x => { x with gets := [putting false] }) 0 (putting false) (.read 0 8) ∧
    ((putting false).ends 0).1.toNat = 0xF0 * 2 ^ 56 + 0x4000 ∧ hasBad (one.tile 0).poolBad 0x4000 8 = none ∧
    pieceDue (here one fun x => { x with gets := [readPut] }) 0 readPut (.write 0 (List.replicate 8 1)) ∧
    (readPut.ends 0).2.toNat = 0xF0 * 2 ^ 56 + 0x8000 ∧ readPut.left = [] ∧ (readPut.got.filter fun q => q.1 != 0) = [] ∧
    readPut.semTile (here one fun x => { x with gets := [readPut] }) 0 = 0 := by
  refine ⟨⟨?_, rfl, ?_, ?_⟩, ?_, ?_, ⟨?_, rfl, ?_, ?_⟩, ?_, rfl, ?_, ?_⟩ <;>
    first
    | decide +kernel
    | (rw [show readyPieces (here one fun x => { x with gets := [putting false] }) 0 (putting false) = [.read 0 8] by decide +kernel]
       exact congrArg _ (choice_one _))
    | (rw [show readyPieces (here one fun x => { x with gets := [readPut] }) 0 readPut = [.write 0 (List.replicate 8 1)] by decide +kernel]
       exact congrArg _ (choice_one _))

/-- Messages: a head entry that can be read, and one that cannot. -/
theorem test_hyp_Messages_cells : (inboxed 1).here.isBad (.inbox (inboxed 1).cur.1 0) = false ∧
    (here (inboxed 1) fun x => { x with cellBad := [.inbox 0 0] }).here.isBad (.inbox 0 0) = true ∧ (inboxed 1).here.inbox ≠ [] := by
  decide +kernel

/-- Migration: the departure to another tile; the packet's way. -/
theorem test_hyp_Migration_depart : two.poolTarget 0 (.remote 1 0) = some (1, 0) ∧ (1 : Nat) ≠ 0 ∧
    (flying two 1 (.migrate leaving)).performed (packet 1 (.migrate leaving)).after = true ∧
    (packet 1 (.migrate leaving)).dst ≠ (packet 1 (.migrate leaving)).src := by decide +kernel

/-- A launch of two tiles side by side; reports at tile 1, whose router has nothing below it, and at the root. -/
def routed (l : List Nat) : State := flying (two.setTile 0 { two.tile 0 with bars := [(2, { Bar.reset with reports := l })] }) 0 (.barReport 2 1)
theorem test_hyp_Barriers_routers : (flying two 1 (.barReport 2 1)).shape 1 = (2, 1) ∧ ((flying two 1 (.barReport 2 1)).tile 1).ltile = 1 ∧
    (flying two 1 (.barReport 2 1)).physical 1 0 = some 0 ∧ 1 % 2 ≠ 0 ∧ 0 + 1 = 1 ∧ (1 : Nat) ∈ (1 : Nat) :: ((two.tile 1).bar 2).reports ∧
    ¬ 1 % 2 + 1 < 2 ∧ (routed []).shape 0 = (2, 1) ∧ ((routed []).tile 0).ltile = 0 ∧ 0 ∉ (1 : Nat) :: (((routed []).tile 0).bar 2).reports ∧
    ((routed [0]).tile 0).ltile = 0 ∧ 0 ∈ (1 : Nat) :: (((routed [0]).tile 0).bar 2).reports ∧
    1 ∈ (1 : Nat) :: (((routed [0]).tile 0).bar 2).reports ∧ ¬ 0 / 2 + 1 < 1 ∧ 7 < ({ flying one 0 (.barRelease 2 0 0) with nextId := 8 } : State).nextId := by
  decide +kernel

/-- ChannelOperations: the kinds that SEND takes, to a channel and to the own entry; FREE of the own entry's chunks. -/
theorem test_hyp_ChannelOperations_send : sendBad 0 0 (List.replicate 56 1) = false ∧ sendBad 1 11 (List.replicate 56 1) = false ∧
    sendBad 2 13 (List.replicate 56 1) = false ∧ sendBad 3 0 (List.replicate 56 0) = false ∧ sendBad 4 0 (List.replicate 56 0) = false ∧
    sendBad 3 0 ((chanState (3 * 2 ^ 16 + 256 * 63) (chan 0 [] false)).here.pool.readBytes 0x4000 56) = false ∧
    ((chanState (3 * 2 ^ 16 + 256 * 63) (chan 0 [] false)).opnd 0x1E2).toNat = 0 * 2 ^ 20 + 3 * 2 ^ 16 + 256 * 63 ∧
    ((chanState (256 * 63 + 8) (chan 0 [] false)).opnd 0x1E2).toNat = 0 * 2 ^ 20 + 0 * 2 ^ 16 + 256 * 63 + 8 ∧
    sendBad 0 0 ((chanState (256 * 63 + 8) (chan 0 [] false)).here.pool.readBytes 0x4000 56) = false ∧
    lineAt (chanState (256 * 63 + 8) (chan 0 [] false)) 0x4000 ∧ ({ chan 256 [] false with src := 0xFFFF } : Chan).src = 0xFFFF ∧
    ((chanState (256 * 63 + 4) (chan 0 [] false)).opnd 0x1E2).toNat = 256 * 63 + 4 ∧ (chan 0 [] false).errs = [] ∧
    0x21 ≤ 0x21 ∧ ((chanState (256 * 63 + 4) (chan 0 [(0x21, 0)] false)).here.chan 63).errs = (0x21, 0) :: [] := by
  unfold lineAt; decide +kernel

/-- ChannelArrivals: the PDEPTH of the line, one that differs, a channel that waits for a chunk, and the tile's own credit. -/
theorem test_hyp_ChannelArrivals_depth : (256 : Nat) = (chan 0 [] false).depth ∧ (255 : Nat) ≠ (chan 0 [] false).depth ∧
    (chan 0 [] true).resync = true ∧ ¬ ((chan 0 [] true).src = (one.tile 0).ltile ∧ (1 : Nat) = 0) ∧
    arrives (receiving (chan 0 [] true) 1) 7 (packet 0 (lineTo 1)) ∧
    arrives (flying one 0 (.credit 63 1 true)) 7 (packet 0 (.credit 63 1 true)) := by unfold arrives; decide +kernel

/-- StreamEntries: a line for another device; frames of each kind, a line's check byte right and wrong, and its tile. -/
def frame (kind : Nat) (data : List Byte) (n : Nat) : Frame := ⟨kind, 0, Config.deviceNumber % 1024, 0, 0, data, 0, n⟩
theorem test_hyp_StreamEntries_frames : ((merging 2 [] [(2 ^ 5, dataLine)]).tile 0 |>.ent 0).out = (2 ^ 5, dataLine) :: [] ∧
    ((merging 2 [] [(2 ^ 5, dataLine)]).tile 0).stopped = false ∧
    (List.replicate 64 (0 : Byte)).foldl (fun x y => x ^^^ y) 0 = 0 ∧ (1 :: List.replicate 63 (0 : Byte)).foldl (fun x y => x ^^^ y) 0 ≠ 0 ∧
    (trained one).chanCtl 0 = 1 ∧ isHole 0 = false ∧ (trained one).hbmBad = [] ∧ (trained one).l2Bad = [] ∧
    frameHomes one 0 = [.live 0] := by decide +kernel

theorem test_hyp_StreamEntries_home : frameHome one 0 = some (.live 0) ∧ (frame 1 [] 0).destDev = Config.deviceNumber % 1024 := by
  refine ⟨?_, rfl⟩
  unfold frameHome
  rw [show frameHomes one 0 = [.live 0] by decide +kernel, show [HostTile.live 0].length = 1 from rfl, Nat.mod_one]
  rfl

/-- A launch of two tiles of one sorus, the issuing one with register and accumulator partitions. -/
def paired : State := { wide with
  launches := [(1, { probeLaunch 0 with record := { probeRecord with x := 2 }, tiles := [0, 1] })]
  tiles := wide.tiles ++ [(1, { wide.tile 0 with ltile := 1, strands := [] })] }

/-- VectorMemoryAndClaims: a row of two elements in tile 1. -/
def sorusLoading : State := ops (me paired fun st => { st with vgrant := (1, 2) }) [(0x240, 0xE100000100008000)]
theorem test_hyp_VectorMemory_sorus : vecOk sorusLoading ∧ elemsSorus sorusLoading 0x20000 := by
  refine ⟨by unfold vecOk; decide +kernel, by decide +kernel, ?_, ⟨0, 1, 0x8000, 1, by decide +kernel, by decide +kernel, by rw [show rowAt sorusLoading 0x20000 0 = 0xE100000100008000 by decide +kernel]; rfl, by decide +kernel, by decide +kernel⟩⟩
  intro q h a
  rcases q with _ | _ | q
  · exact ⟨1, 0x8000, 1, by rw [show rowAt sorusLoading 0x20000 0 = 0xE100000100008000 by decide +kernel]; rfl, by decide +kernel, by decide +kernel, by decide +kernel⟩
  · exact ⟨1, 0x8002, 1, by rw [show rowAt sorusLoading 0x20000 (0 + 1) = 0xE100000100008002 by decide +kernel]; rfl, by decide +kernel, by decide +kernel, by decide +kernel⟩
  · exact absurd h (by rw [show granted sorusLoading = 2 by decide +kernel]; omega)

/-- AtomicOperations: an atomic to the other tile of the sorus. -/
theorem test_hyp_AtomicsSent_other :
    let s := ops paired [(0x1A0, 0xE100000100008000)]
    atmCheck s (s.opnd 0x1A0 + s.opnd 0x1A2) 4 = .ok (1, 0x8000) ∧ 1 ≠ s.cur.1 ∧ (s.opnd 0x1A3).getLsbD 3 = false := by
  refine ⟨?_, ?_, ?_⟩ <;> first | rfl | decide +kernel

/-- MatrixSequencer: a fence with nothing before it in flight. MatrixWork: a line of a row that has not been read, a row all of
whose lines have, and the last line that a store writes. -/
def loaded31 : MxCmd := { command 3 0 1 31 0 [] with seen := [(0xF000000000004F80, List.replicate 64 1), (0xF000000000004FC0, List.replicate 64 2)] }
def scaled0 : MxCmd := { command 4 0 1 0 0 [] with seen := [(0xF000000000004000, List.replicate 64 1), (0xF000000000004040, List.replicate 64 1),
  (0xF000000000004080, List.replicate 64 1), (0xF0000000000040C0, List.replicate 64 1)] }

theorem test_hyp_MatrixWork_lines : (command 9 0 0 0 0 []).flags = 0 ∧
    ((rowParts (command 3 0 1 31 0 []) 31).find? fun p => !(command 3 0 1 31 0 []).has p) = some (0xF000000000004F80, 64) ∧
    (0xF000000000004F80 : Word).toNat / 2 ^ 20 = 0xF0 * 2 ^ 36 ∧
    (∀ p ∈ rowParts loaded31 31, loaded31.has p = true) ∧ (loaded31.rowData 31).length = 128 ∧ mxRunning (commanded loaded31) 0 loaded31 3 ∧
    (∀ p ∈ rowParts scaled0 0, scaled0.has p = true) ∧ (scaled0.rowData 0).length = cfield scaled0 36 2 ∧
    mxRunning (commanded scaled0) 0 scaled0 4 := by unfold mxRunning; decide +kernel

theorem test_hyp_MatrixWork_storeLine : (storeLines lastRow)[31]? = some ((0xF000000000004F80 : Word).toNat / 64) ∧
    (0xF000000000004F80 : Word).toNat / 64 / 2 ^ 14 = 0xF0 * 2 ^ 36 ∧
    ((0x4000 + 128 * 31) + 31) / 64 = (0xF000000000004F80 : Word).toNat / 64 % 2 ^ 14 := by decide +kernel

/-- LaunchSequence: no notification of the launch is under way. -/
theorem test_hyp_LaunchSequence_notes : (launched 2 [0] [0]).notesOut [0] = false ∧ 1 ≠ 288 := by decide +kernel

/-- GangSequence: a partition that waits for its sori, or for its time; a period set late, and taken away; nothing half written. -/
def periodic (next : Option Nat) (per : List (Nat × Byte)) : State :=
  { one with hbm := per, parts := [(0, { Part.whole with state := 1, nextCk := next })] }
theorem test_hyp_GangSequence_more :
    (({ gang 2 false (some (imageOf one.launches)) 1 with parts := [(0, { ((gang 2 false (some (imageOf one.launches)) 1).part 0) with phase := 5 })] } : State).part 0).phase = 5 ∧
    (∀ u ∈ (phased 3 false 5 id).partTiles 0, (phased 3 false 5 id).piecesOut u = []) ∧
    ((periodic none []).part 0).nextCk = none ∧ (periodic none []).psd 0 84 4 = 0 ∧ (periodic none [(84, 1)]).psd 0 84 4 ≠ 0 ∧
    ((periodic none [(84, 1)]).part 0).state = 1 ∧ ((periodic (some 5) []).part 0).nextCk = some 5 ∧ (periodic (some 5) []).psd 0 84 4 = 0 ∧
    stillWaits (flying (phased 4 false 5 id) 0 (.sem 254 3 false)) 0 (packet 0 (.sem 254 3 false)) = false ∧ (phased 0 true 5 id).psd 0 84 4 ≠ 0 ∧
    ((phased 0 true 5 id).part 0).state = 1 ∧ ((phased 0 true 5 id).part 0).phase = 0 := by decide +kernel

/-- GangCommands: a launch that came after the checkpoint adds to what a restore needs. -/
theorem test_hyp_GangCommands_late : ({ imageOf one.launches with late := one.launches } : Image).late ≠ [] ∧
    ((one.launches ++ one.launches).map fun e => soriOf e.2.record.x e.2.record.y).sum ≤ ((gang 2 false (some (imageOf one.launches)) 4).freeSori 0).length := by
  decide +kernel

/-- PowerAndReliability: a stopped tile; nothing to write back; a table word with an error of either kind and with none; the pool's scrubbing switched off. -/
theorem test_hyp_PowerAndReliability_more : ((here one fun x => { x with stopped := true }).tile 0).stopped = true ∧
    (one.tile 0).stopped = false ∧ ({ State.reset with pwrst := 2, ltol := 2000, time := 8000000 } : State).l2Bad = [] ∧
    ((here one fun x => { x with cellBad := [.table 0 511] }).tile 0).cellBad.contains (.table 0 511) = true ∧
    (one.tile 0).cellBad.contains (.table 0 511) = false ∧
    Map.find 0 ({ one with scrub := [(0, 0)] } : State).scrub 0 = 0 ∧
    8 ∈ ((here one fun x => { x with poolBad := [8] }).tile 0).poolBad ∧ 8 ∉ ((here one fun x => { x with poolWeak := [8] }).tile 0).poolBad ∧
    8 ∈ ((here one fun x => { x with poolWeak := [8] }).tile 0).poolWeak := by decide +kernel

/-! ## Hypotheses of the obligations: errors, waits, and choices -/

/-- FloatExpansionAndTraps: 1 divided by 0 where FPTE enables every condition. -/
def divZero : State :=
  here (me one fun st => { st with exp := some { divExp 5 with v := 0 }, mode := 0xF80000 }) fun x => { x with fpaOwner := some 0 }
theorem test_hyp_FloatExpansion_fault : mayStep divZero 0 0 { divExp 5 with v := 0 } ∧
    (fp64.divide (rndOf ((divExp 5).c.toNat % 4)) (fp64.decode (divExp 5).a.toNat) (fp64.decode 0)).flags % 32 &&&
      ((divZero.strand 0 0).mode.extractLsb' 19 5).toNat ≠ 0 := by unfold mayStep; decide +kernel

/-- SpecialFunctions: an ordinary input, in FP32. -/
theorem test_hyp_SfuBounded : (sfFmt 0).decode (0x3FC00000 % 2 ^ (sfFmt 0).width) = .fin false 0xC00000 (-23) ∧
    SfuFn.rcp.special (.fin false 0xC00000 (-23)) = none ∧ SfuFn.sqrt.special (.fin false 0xC00000 (-23)) = none := by
  decide +kernel

/-- A strand some of whose protected words hold an error; a tile whose pool does. -/
def errant (b w : List Nat) : State := me one fun st => { st with bad := b, weak := w }
def spoiled (o : Nat) : State := here (me one fun st => { st with sdepth := 1 }) fun x => { x with poolBad := [o] }

/-- Frames, Registers: registers without an error and with one, in the pool and in the strand. -/
theorem test_hyp_Registers_errors : cleanReg one 0x0F2 3 ∧ cleanReg (errant [sysCell 8] []) 0x0F2 0x400 ∧
    cleanReg (errant [sysCell 7] []) 0x2C3 8 ∧ hasBad (spoiled 0x18).here.poolBad (8 * 3) 8 = some 0x18 ∧
    (∃ w ∈ crfCells 0x400, w ∈ (errant [sysCell 6] []).me.bad) ∧ sysCell (8 % 128) ∈ (errant [sysCell 8] []).me.bad := by
  refine ⟨?_, ?_, ?_, ?_, ?_, ?_⟩
  · exact ⟨fun _ _ => by decide +kernel, fun _ h => absurd h (by decide), fun h => absurd h (by decide)⟩
  · exact ⟨fun _ h => absurd h (by decide), fun _ _ => by decide +kernel, fun h => absurd h (by decide)⟩
  · exact ⟨fun h => absurd h (by decide), fun h => absurd h (by decide), fun _ _ => by decide +kernel⟩
  all_goals decide +kernel

/-- Transfers: entries of the return store and of the spill area that can and cannot be read, and a transfer at a T parcel. -/
theorem test_hyp_Transfers_errors : retCell ((me one fun st => { st with bad := [retCell 16] }).me.sdepth + 16) ∈
      (me one fun st => { st with bad := [retCell 16] }).me.bad ∧ retCell ((stored 16 0).me.sdepth + 16) ∉ (stored 16 0).me.bad ∧
    retCell ((stored 1 0).me.sdepth + 0) ∉ (stored 1 0).me.bad ∧ retCell ((stored 1 0).me.sdepth + 0) ∉ (stored 1 0).me.weak ∧
    retCell ((me (stored 1 0) fun st => { st with bad := [retCell 0] }).me.sdepth + 0) ∈
      (me (stored 1 0) fun st => { st with bad := [retCell 0] }).me.bad ∧ (spoiled 0x2000).me.ret = [] ∧
    (spoiled 0x2000).me.sdepth = 0 + 1 ∧ hasBad (spoiled 0x2000).here.poolBad (0x2000 + 512 * 0 + 8 * 0) 8 = some 0x2000 ∧
    hasBad (stored 0 1).here.poolBad (0x2000 + 512 * 0 + 8 * 0) 8 = none ∧ wordsIn (stored 0 1).here.poolWeak (0x2000 + 512 * 0 + 8 * 0) 8 = [] ∧
    twoT.parcels twoT.cur.1 twoT.me.pc.toNat (twoT.objLen twoT.cur.1) = 0x0040 :: 0x0080 :: [] := by decide +kernel

/-- StrandControl: a cu.meet held at a point whose generation has passed, one that completes it, and what a cu.trymeet polls. -/
theorem test_hyp_StrandControl_meets :
    (me met fun st => { st with meets := [(meetKey 3, 0)] }).me.ownMeet 3 = some 0 ∧ (met.here.meet 3).gen ≠ 0 ∧
    met.me.ownMeet 4 = none ∧ (me met fun st => { st with meets := [] }).me.polled 4 = none ∧
    (here met fun x => { x with meets := [(4, ⟨1, 2, 0⟩)] }).here.meet 4 = ⟨1, 2, 0⟩ ∧ (⟨1, 2, 0⟩ : Meet).count + 1 = (⟨1, 2, 0⟩ : Meet).parties ∧
    met.me.polled 3 = some 0 ∧ (met.here.meet 3).gen ≠ 0 ∧
    (me met fun st => { st with meets := [(3, 1)] }).me.polled 3 = some ((me met fun st => { st with meets := [(3, 1)] }).here.meet 3).gen := by
  decide +kernel

/-- TrapEntry: an expansion whose step has failed; entry can be made (R348). -/
def expFailed : State := { (me divZero fun st => { st with exp := some { divExp 5 with fault := some (0x28, 0x20A) } }) with
  objects := [{ probeObject [] with handlers := [(0x37, 0x700)] }] }
theorem test_hyp_TrapEntry_exp : (expFailed.strand 0 0).boundary = some (.exp 0x28 0x20A) ∧
    (expFailed.strand 0 0).exp = some { divExp 5 with fault := some (0x28, 0x20A) } ∧ (expFailed.strand 0 0).tl = false ∧
    entryReady expFailed 0 0 = true ∧ expFailed.vector 0 0x37 = some 0x700 := by decide +kernel

/-- Parcels: a later repetition of an annulled T parcel. -/
def annulledLater : State := me (annulled [0x0048] 2) fun st => { st with rword := some ⟨emptyWord, true, 0, false, false⟩, rep := 1 }
theorem test_hyp_AnnulledIssues_later : plainTurn annulledLater ∧ annulledLater.me.delay = some ⟨2, true, true, 0x50⟩ ∧
    decodeParcels (annulledLater.parcels annulledLater.cur.1 annulledLater.me.pc.toNat 17) = .ok (.tParcel 1 1 0) ∧
    annulledLater.me.rword = some ⟨emptyWord, true, 0, false, false⟩ ∧ 0 < annulledLater.me.rep := by
  refine ⟨?_, ?_, rfl, ?_, ?_⟩ <;> (first | unfold plainTurn | skip) <;> decide +kernel

/-- Words: a word with a reserved bit set as a T parcel's first issue and as its repetition. -/
def badWord : BitVec 256 := emptyWord ||| BitVec.twoPow 256 250
def trapsAt (rep : Nat) : State :=
  { (here (me atWord fun st => { st with rep := rep, rword := if rep = 0 then none else some ⟨badWord, true, 0, false, false⟩ })
      fun x => { x with table := [(0, badWord)] }) with objects := [{ probeObject [0x0008] with handlers := [(2, 0x600)] }] }
theorem test_hyp_WordTraps_table : plainTurn (trapsAt 0) ∧ (trapsAt 0).me.rword = none ∧ tableAt (trapsAt 0) (0 : BitVec 9).toNat badWord ∧
    (trapsAt 0).me.guard (0 : BitVec 3).toNat = true ∧ judge (withWord (trapsAt 0) 0 badWord true) (decodeWord badWord) 2 0 = .trap 2 0x100 ∧
    (trapsAt 0).vector (trapsAt 0).cur.1 2 = some 0x600 ∧ (trapsAt 0).me.tl = false ∧ plainTurn (trapsAt 1) ∧
    (trapsAt 1).me.rword = some ⟨badWord, true, 0, false, false⟩ ∧ 0 < (trapsAt 1).me.rep ∧
    judge (withWord (trapsAt 1) 0 badWord true) (decodeWord badWord) 2 1 = .trap 2 0x100 := by
  unfold plainTurn tableAt; decide +kernel
theorem test_hyp_WordTraps_parcel : decodeParcels ((trapsAt 1).parcels (trapsAt 1).cur.1 (trapsAt 1).me.pc.toNat 1) = .ok (.tParcel 0 1 0) := rfl

/-- Words: s1 > lsu.a kept, beside a load of eight bytes. -/
def stepWord : TWord :=
  { slots := ⟨0, 0x021, 0x160, true, 0⟩ :: ⟨0, 0x022, 0x16A, true, 0⟩ :: List.replicate 6 ⟨8, 0, 0, false, 0⟩, limm := 0,
    hwin := false, syncpt := false, flagRes := 0 }
theorem test_hyp_AddressStepping :
    ((movesOf stepWord).filter fun f => f.on one.me 2).map Move.dst = [0x160, 0x16A] ∧
    ((movesOf stepWord).map fun f => lsuBytes f.dst).sum = 8 ∧ (movesOf stepWord).map (fun f => f.m.keep) = [true, true] := by decide +kernel

/-- Three strands at a T parcel of moves, strands 0 and 1 in one bank, strand 2 in another; with WAIT, LAST and class as given. -/
def threeAt (f : Nat → Strand → Strand) (g : Tile → Tile) : State :=
  let s := { atWord with turn := none }
  here s fun x => g { x with strands := [0, 1, 2].map fun k =>
    (k, f k { s.strand 0 0 with tbank := if k = 2 then 1 else 0 }) }

/-- IssueChoice: strand 1 has waited 16 cycles; strand 0 has the least LAST, and strand 1 forms a train with it; that train
runs; a word that traps. -/
def longWait : State := threeAt (fun k st => { st with wait := if k = 1 then 16 else 15 }) id
def fresh : State := threeAt (fun k st => { st with last := k }) id
def inTrain : State := threeAt (fun _ st => st) fun x => { x with trains := [([1], (x.strand 0).ia, 0)] }
def trapping : State := { trapsAt 0 with turn := none }
theorem test_hyp_ChoiceAmong : choosing longWait 0 ∧ choosing fresh 0 ∧ choosing inTrain 0 ∧
    slots.filter (eligible (attempts longWait 0) 0) = [0, 1, 2] ∧ 16 ≤ (((attempts longWait 0).tile 0).strand 1).wait ∧
    (∀ j ∈ [0, 1, 2], (((attempts longWait 0).tile 0).strand j).wait < 16 ∨ j = 1) ∧
    slots.filter (eligible (attempts fresh 0) 0) = [0, 1, 2] ∧ ((attempts fresh 0).tile 0).trains = [] ∧
    (∀ j ∈ [0, 1, 2], j ≠ 0 → rank (((attempts fresh 0).tile 0).strand 0) = rank (((attempts fresh 0).tile 0).strand j) ∧
      (((attempts fresh 0).tile 0).strand 0).last < (((attempts fresh 0).tile 0).strand j).last) ∧
    (attempts fresh 0).trainKey 0 1 = (attempts fresh 0).trainKey 0 0 ∧ (attempts fresh 0).trainKey 0 2 ≠ (attempts fresh 0).trainKey 0 0 ∧
    ((attempts inTrain 0).tile 0).trains = [([1], (attempts inTrain 0).trainKey 0 1)] ∧
    slots.filter (eligible (attempts inTrain 0) 0) = [0, 1, 2] ∧ (∀ j ∈ [0, 1, 2], (((attempts inTrain 0).tile 0).strand j).wait < 16) ∧
    slots.find? (wordTraps (attempts trapping 0) 0) = some 0 ∧ trapping.pausedAt 0 = false ∧ (trapping.tile 0).stopped = false := by
  unfold choosing; decide +kernel

/-- A store of the strand to the own tile, sent by a lower slot of the word, is still under way. -/
def awaiting (s : State) : State := flying s 0 (.pool (.store 8 1) 0x4000 false)

/-- LoadsAndStores: an access waits for another of its word, and one does not. -/
theorem test_hyp_LoadsAndStores_due : ownDue (awaiting one) true false ≠ [] ∧ ownDue one true false = [] ∧
    ownDue (awaiting one) false true ++ [] ≠ [] ∧ ownDue one false true ++ [] = [] ∧
    ownDue one false true ++ one.earlier one.cur.1 one.cur.2 ((one.opnd 0x162).toNat % 8) = [] := by decide +kernel

/-- LinesFenceBlock: a line of a global address, and a block whose strand has nothing outstanding. -/
def farLines : State := ops one [(0x160, 0x10000)]
theorem test_hyp_LinesFenceBlock_far : globalAt farLines (farLines.opnd 0x160) ∧ (farLines.opnd 0x160).toNat % 64 = 0 ∧
    (0xFC040 : Word).toNat % 64 = 0 ∧ 0x4000 * (farLines.here.partword.toNat % 256) ≤ (0xFC040 : Word).toNat % 2 ^ 20 ∧
    hasBad farLines.here.poolBad ((0xFC040 : Word).toNat % 2 ^ 20) 64 = none ∧ lsuOut (copying 1) 0 0 = false ∧
    ((copying 1).strand 0 0).order = [] ∧ ownDue lines true false = [] ∧ ownDue lines false true = [] := by
  unfold globalAt; decide +kernel

/-- RemoteAccesses: a walk that meets a channel in training, and one that does not; a request with nothing before it. -/
theorem test_hyp_GlobalAccesses_training :
    ({ walking false with hbmCh := (List.range 512).map fun c => (c, { HbmCh.reset with ctl := 3 }) } : State).walkTrains 0 0x10000 = true ∧
    (walking false).walkTrains 0 0x10000 = false ∧ (walking true).walkTrains (walk 7 true).ctx (walk 7 true).va = false := by decide +kernel

/-- RemoteAccesses: the last row of a load whose lanes are apart, and what ZM zeroes. -/
theorem test_hyp_SorusAccesses_last : ((rowsOp true 1).rows.any fun r => r.tile != (packet 1 (.vmem (rowsOp true 1))).src) = true ∧
    (4 : Nat) ∈ [1, 2, 4] ∧ (((rowsOp true 1).rows.flatMap VecRow.lanes).map Prod.snd ++ (rowsOp true 1).zero).Pairwise
      (fun a b => a + 4 ≤ b ∨ b + 4 ≤ a) ∧ (one.tile 1).resv = [] := by decide +kernel

/-- AtomicOperations: an atomic of the own tile waits for an access of its word, and one does not. -/
theorem test_hyp_Atomics_due : ownOut (awaiting (ops wide [(0x1A0, 0xF000000000008000)])) 0 0 ≠ [] ∧
    ownOut (ops wide [(0x1A0, 0xF000000000008000)]) 0 0 = [] ∧
    (ops wide [(0x1A0, 0xF000000000008000), (0x1A3, 0x12)]).earlier 0 0 1 = [] := by decide +kernel

/-- PutsAndGets: eight bytes before a local window page, and one byte more. -/
def nearPage : State := ops one [(0x1E0, 0x00FFFFFFFFFFFFF8), (0x1E1, 0xF000000000010000), (0x1E3, 5)]
theorem test_hyp_PutsAndGets_page : globalAt nearPage (nearPage.opnd 0x1E0) ∧ (nearPage.opnd 0x1E0).toNat / 2 ^ 56 < 0xDF ∧
    2 ^ 56 < (nearPage.opnd 0x1E0).toNat % 2 ^ 56 + (9 : Word).toNat ∧ (nearPage.opnd 0x1E0).toNat % 2 ^ 56 + (8 : Word).toNat ≤ 2 ^ 56 ∧
    nearAt nearPage (nearPage.opnd 0x1E1) 0x10000 (9 : Word).toNat ∧ (9 : Word).toNat ≤ 2 ^ 20 := by unfold globalAt nearAt; decide +kernel

/-- Migration: the own tile as a target. -/
theorem test_hyp_Migration_own : two.poolTarget 0 (.remote 0 0) = some (0, 0) := by decide +kernel
theorem test_hyp_Migration_ownTarget : classify 0xE000000000000000 = .ok (.remote 0 0) := rfl

/-- CopyOperations: sockets whose copy is live, or free. -/
def boundCopy (st : Nat) : State := here one fun x => { x with
  copies := [(31, { copyEnt st 0 false false with desc := { (copyEnt st 0 false false).desc with src := 3, skind := 2 } })]
  socks := [(3, ⟨some 0, true, [], [], 31, 0, 16, false, none⟩)] }
theorem test_hyp_CopyOperations_unbind : ((boundCopy 2).here.sock (3 : Word).toNat).owner = some (boundCopy 2).cur.2 ∧
    ((boundCopy 2).here.copy ((boundCopy 2).here.sock 3).copy).state = 2 ∧ ((boundCopy 2).here.copy 31).owner = (boundCopy 2).cur.2 ∧
    ((boundCopy 2).here.copy 31).desc.skind = 2 ∧ sockOf ((boundCopy 2).here.copy 31).desc = (3 : Word).toNat ∧
    3 < ((boundCopy 4).here.copy ((boundCopy 4).here.sock 3).copy).state := by decide +kernel

/-- CopyPieces: a socket with room for one more entry; an abort of a copy that has read a piece for a socket. -/
def inboundCopy (ab : Bool) (b : Option (List Byte)) (n : Nat) : State := here one fun x => { x with
  copies := [(31, { copyEnt 2 0 ab false with desc := { (copyEnt 2 0 ab false).desc with dst := 3, dkind := 2 }, abort := ab, buf := b })]
  socks := [(3, ⟨some 0, false, List.replicate n 0, [], 31, 0, 8, false, none⟩)] }
theorem test_hyp_CopyPieces_socket :
    (let c := ((inboundCopy false none 63).tile 0).copy 31
     c.state = 2 ∧ c.abort = false ∧ c.buf = none ∧ c.desc.dkind = 2 ∧ ((((inboundCopy false none 63).tile 0).sock (sockOf c.desc)).fifo).length < 64 ∧
      (srcAt c.desc c.done).toNat = 0xF0 * 2 ^ 56 + 0x4000) ∧
    (let c := ((inboundCopy true (some [1]) 64).tile 0).copy 31
     c.state ≤ 3 ∧ c.abort = true ∧ c.buf ≠ none ∧ c.desc.dkind = 2) := by decide +kernel

/-- StreamEntries: an input that discards, and one whose discards have ended. -/
def faulty (d : List Nat) (fl : Nat) : State := here (merging 2 [(1, [ending])] []) fun x => { x with
  ents := x.ents.map fun e => (e.1, { e.2 with discard := d, flags := fl }) }
theorem test_hyp_StreamEntries_fault : ((faulty [1] 4).tile 0 |>.ent 0).discard = [1] ∧
    Map.find [] ((faulty [1] 4).tile 0 |>.ent 0).bufs 1 = ending :: [] ∧ ((faulty [1] 4).tile 0 |>.ent 0).nsets ≠ 0 ∧
    ((faulty [1] 4).tile 0 |>.ent 0).out = [] ∧ ((faulty [1] 4).tile 0).stopped = false ∧
    ((faulty [] 4).tile 0 |>.ent 0).discard = [] ∧ ((faulty [] 4).tile 0 |>.ent 0).flags / 4 % 4 ≠ 0 ∧
    ((faulty [] 4).tile 0 |>.ent 0).esem < 255 ∧ ((faulty [] 4).tile 0).wtt = [] ∧ ((faulty [] 4).tile 0).arrq = [] ∧
    ((merging 2 [(1, [wrong])] []).tile 0 |>.ent 0).flags / 4 % 4 = 0 := by decide +kernel

/-- VectorMemoryAndClaims: own elements that wait for an access of their word, and that do not. -/
theorem test_hyp_VectorMemory_due : ownDue (awaiting loading) true false ≠ [] ∧ ownDue (awaiting loading) false true ≠ [] ∧
    vecOk (awaiting loading) ∧ elemsOwn (awaiting loading) 0 (rowAt (awaiting loading) 0) (fun q => 0x8000 + 4 * q) ∧
    ownDue loading true false = [] ∧ ownDue loading false true = [] := by unfold vecOk elemsOwn; decide +kernel

/-- A command line, zero but for these bytes, with no wait and no signal. -/
def lineOf (l : List (Nat × Byte)) : List Byte :=
  (List.range 64).map fun i => Map.find (if i = 2 ∨ i = 3 then 0xFF else 0) l i

/-- The strand pushes it from offset 0xC000, with the FMT given, owning these slots. -/
def pushing (l : List (Nat × Byte)) (f : BitVec 16) (own : List Nat) : State :=
  ops (here (me wide fun st => { st with fmt := f }) fun x => { x with
    pool := Memory.writeBytes [] 0xC000 (lineOf l), slotOwner := own.map fun i => (i, 0) }) [(0x160, 0x40)]

/-- The other bytes of a line are zero, as data. -/
theorem zeroes_of {line : List Byte} {used : List Nat}
    (h : (List.range 64).all (fun i => decide (i < 10) || used.contains i || lfield line i 1 == 0) = true) :
    ∀ i, 10 ≤ i → i < 64 → i ∉ used → lfield line i 1 = 0 := fun i lo hi hn => by
  have := List.all_eq_true.mp h i (List.mem_range.mpr hi)
  simpa [show ¬ i < 10 by omega, hn] using this

/-- MatrixSequencer: a command that passes, one of an undefined opcode, one of wrong flags, and one of a reserved byte. -/
theorem test_hyp_MatrixCommands : pushes (pushing [] 0 []) 0xC000 (lineOf []) ∧ mxCheck (pushing [] 0 []) 0 0 (lineOf []) 0 = none ∧
    pushes (pushing [(0, 10)] 0 []) 0xC000 (lineOf [(0, 10)]) ∧ 9 < lfield (lineOf [(0, 10)]) 0 1 ∧
    pushes (pushing [(1, 1)] 0 []) 0xC000 (lineOf [(1, 1)]) ∧ ¬ flagsOk (lfield (lineOf [(1, 1)]) 0 1) (lfield (lineOf [(1, 1)]) 1 1) ∧
    bare (lineOf [(63, 1)]) 0 0 (63 :: span 24 4) ∧ lfield (lineOf [(63, 1)]) 63 1 ≠ 0 ∧ lfield (lineOf [(63, 1)]) 24 4 = 0 ∧
    lfield (lineOf [(4, 1)]) 0 2 = 0 ∧ lfield (lineOf [(4, 1)]) 2 2 = 0xFFFF ∧ lfield (lineOf [(4, 1)]) 4 4 ≠ 0 ∧
    (∀ i, i < 64 → 8 ≤ i → lfield (lineOf [(4, 1)]) i 1 = 0) ∧ bare (lineOf []) 0 0 [] := by
  and_intros <;> first | exact zeroes_of (by decide +kernel) | (unfold flagsOk; decide +kernel) | decide +kernel

/-- MatrixSequencer: claims of no slot, of one already owned, of one too many and of as many as there may be; releases. -/
theorem test_hyp_MatrixCommands_slots :
    bare (lineOf [(0, 1)]) 1 0 (span 24 4) ∧ (List.range 32).filter (fun i => (lfield (lineOf [(0, 1)]) 24 4).testBit i) = [] ∧
    bare (lineOf [(0, 1), (27, 0x80)]) 1 0 (span 24 4) ∧
    (List.range 32).filter (fun i => (lfield (lineOf [(0, 1), (27, 0x80)]) 24 4).testBit i) = [31] ∧
    Map.get? (pushing [(0, 1), (27, 0x80)] 0 [31]).here.slotOwner 31 = some (pushing [(0, 1), (27, 0x80)] 0 [31]).cur.2 ∧
    Map.get? (pushing [(0, 1), (27, 0x80)] 0 (List.range 24)).here.slotOwner 31 = none ∧
    24 < 1 + ((pushing [(0, 1), (27, 0x80)] 0 (List.range 24)).here.slotOwner.filter fun e => e.2 == 0).length ∧
    1 + ((pushing [(0, 1), (27, 0x80)] 0 (List.range 23)).here.slotOwner.filter fun e => e.2 == 0).length ≤ 24 ∧
    bare (lineOf [(0, 2), (24, 1)]) 2 0 (span 24 4) ∧ lfield (lineOf [(0, 2), (24, 1)]) 24 4 = 1 ∧
    pushes (pushing [(0, 2), (24, 1)] 0 [0]) 0xC000 (lineOf [(0, 2), (24, 1)]) := by
  and_intros <;> first | exact zeroes_of (by decide +kernel) | (unfold flagsOk; decide +kernel) | decide +kernel

/-- MatrixSequencer: loads, and scales at the ends of their ranges. -/
theorem test_hyp_MatrixCommands_moves : bare (lineOf [(0, 3), (10, 31)]) 3 0 (10 :: span 24 12) ∧ formatOf 63 = none ∧ formatOf 0x0C ≠ none ∧
    31 < lfield (lineOf [(0, 3), (10, 32)]) 10 1 ∧ lfield (lineOf [(0, 3), (10, 31)]) 24 8 < 2 ^ 16 ∧
    bare (lineOf [(0, 4), (31, 0xF0), (26, 1), (37, 1)]) 4 0 (span 24 8 ++ span 36 4) ∧
    lfield (lineOf [(0, 4), (31, 0xF0), (26, 1), (37, 1)]) 36 2 = 256 ∧ lfield (lineOf [(0, 4), (31, 0xF0), (26, 1), (37, 1)]) 38 2 = 0 ∧
    lfield (lineOf [(0, 4), (31, 0xF0), (26, 1), (37, 1)]) 24 8 = 0xF0 * 2 ^ 56 + 0x10000 ∧
    lfield (lineOf [(0, 4), (36, 2), (38, 255)]) 38 2 = 255 ∧ 256 < 255 + lfield (lineOf [(0, 4), (36, 2), (38, 255)]) 36 2 ∧
    256 < lfield (lineOf [(0, 4), (36, 1), (37, 1)]) 36 2 := by
  and_intros <;> first | exact zeroes_of (by decide +kernel) | (unfold flagsOk; decide +kernel) | decide +kernel

/-- MatrixSequencer: a product whose second slot is not the strand's, a zero of a block, a fence that stores, another window line. -/
theorem test_hyp_MatrixCommands_rest :
    bare (lineOf [(0, 5), (11, 1), (24, 16)]) 5 0 ([10, 11, 24] ++ span 16 4) ∧ lfield (lineOf [(0, 5), (11, 1), (24, 16)]) 24 1 = 16 ∧
    Map.get? (pushing [(0, 5), (11, 1), (24, 16)] 0x130C [1]).here.slotOwner 1 = some 0 ∧
    Map.get? (pushing [(0, 5), (11, 1), (24, 16)] 0x130C [1]).here.slotOwner 0 ≠ some 0 ∧
    bare (lineOf [(0, 7), (17, 0x80)]) 7 0 (span 16 4) ∧ lfield (lineOf [(0, 7), (17, 0x80)]) 16 4 = 0x8000 ∧
    0x4000 * ((pushing [(0, 7), (17, 0x80)] 0 []).here.partword.toNat % 256) ≤ 0x8000 ∧
    bare (lineOf [(0, 9), (1, 0x40), (25, 0x80)]) 9 0x40 (span 24 4) ∧ lfield (lineOf [(0, 9), (1, 0x40), (25, 0x80)]) 24 4 = 0x8000 ∧
    (0xFFC0 : Word).toNat % 2 ^ 56 < 2 ^ 16 ∧ (0xFFC0 : Word).toNat % 2 ^ 56 ≠ 0x40 := by
  and_intros <;> first | exact zeroes_of (by decide +kernel) | (unfold flagsOk; decide +kernel) | decide +kernel

/-! ## Hypotheses of the obligations: launches, switches, channels -/

/-- Every channel of HBM is in service. -/
def serving (s : State) : State := { s with hbmCh := (List.range 512).map fun c => (c, { HbmCh.reset with ctl := 1 }) }

theorem find_range {α : Type} (d v : α) (l : List Nat) (k : Nat) (h : k ∈ l) : Map.find d (l.map fun c => (c, v)) k = v := by
  induction l with
  | nil => cases h
  | cons j l ih =>
    by_cases e : j = k
    · simp [Map.find, Map.get?, e]
    · simpa [Map.find, Map.get?, e] using ih ((List.mem_cons.mp h).resolve_left (Ne.symm e))

theorem serving_chanDown (s : State) (pa : Nat) : (serving s).chanDown pa = false := by
  have hx : channelOf pa < 2 ^ 5 := Nat.xor_lt_two_pow (by omega) (by omega)
  have : (serving s).chanCtl pa = 1 := by
    simp only [State.chanCtl, serving]
    rw [find_range _ _ _ _ (List.mem_range.mpr (by omega))]
  simp [State.chanDown, this]

/-- LaunchSequence, FaultRecords, GangSequence: no channel trains, and what the sequencer reads is sound. -/
theorem test_hyp_LaunchSequence_quiet : (serving (rung 0 1)).trains ((serving (rung 0 1)).recordRuns 0 ⟨0x10000, 4, 1, 0, 0⟩) = false ∧
    quiet (serving (rung 0 1)) ((serving (rung 0 1)).recordRuns 0 ⟨0x10000, 4, 1, 0, 0⟩) ∧
    (placing 2 []).trains ((placing 2 []).placeRuns 0) = false ∧
    (∀ l ∈ (launched 2 [0] [0]).launches, (serving (launched 2 [0] [0])).trains (lastRuns (serving (launched 2 [0] [0])) l.2) = false ∧
      quiet (serving (launched 2 [0] [0])) (lastRuns (serving (launched 2 [0] [0])) l.2)) := by
  unfold quiet; decide +kernel

theorem test_hyp_LaunchSequence_service : (serving (launched 2 [0] [0])).chanDown ((serving (launched 2 [0] [0])).psdAt 0 + 82) = false :=
  serving_chanDown ..

theorem test_hyp_FaultRecords_service : (serving (faulted 0)).trains ((serving (faulted 0)).faultRuns 0) = false ∧
    (∀ r ∈ (serving (faulted 0)).faultRuns 0, (serving (faulted 0)).chanDown r.1 = false) ∧
    (serving (faulted 0)).chanDown ((serving (faulted 0)).psdAt 0 + 62) = false ∧
    (recovering (some (imageOf one.launches))).trains ((recovering (some (imageOf one.launches))).faultRuns 0 ++
      (((recovering (some (imageOf one.launches))).part 0).last.toList.flatMap fun im =>
        (recovering (some (imageOf one.launches))).imageRuns 0 im)) = false :=
  ⟨by decide +kernel, fun _ _ => serving_chanDown .., serving_chanDown .., by decide +kernel⟩

/-- HostAccesses: pieces apply freely only where no strand is live or stopped; a piece that its window has let through. -/
theorem test_hyp_HostAccesses_pieces : (∃ k e, (k, e) ∈ ((me (here (windowed 1) fun x => { x with pieced := true }) fun st =>
      { st with status := .stopped }).tile 0).strands ∧ e.status ≠ .free) ∧
    ((here (windowed 1) fun x => { x with hwin := true, ingress := [⟨0x4000, [1], 0, true⟩] }).tile 0).ingress = [⟨0x4000, [1], 0, true⟩] :=
  ⟨⟨0, _, List.mem_cons_self .., by decide +kernel⟩, by decide +kernel⟩

/-- GangCommands: no channel in service trains; a restore's image; a strand that resumes with nothing delayed. -/
theorem test_hyp_GangCommands_service : (serving (gang 1 false none 1)).chanDown ((serving (gang 1 false none 1)).psdAt 0 + 82) = false ∧
    (gang 2 false (some (imageOf one.launches)) 2).trains ((gang 2 false (some (imageOf one.launches)) 2).imageRuns 0 (imageOf one.launches)) = false ∧
    ((me (gang 1 false none 1) fun st => { st with status := .stopped }).strand 0 0).sds = 0 ∧
    ((me (gang 1 false none 1) fun st => { st with status := .stopped }).strand 0 0).savedExp = none :=
  ⟨serving_chanDown .., by decide +kernel, by decide +kernel, by decide +kernel⟩

/-- GangSequence: the area of a tile in service. -/
theorem test_hyp_GangSequence_service : (phased 0 false 5 id).trains [(phased 0 false 5 id).psdRun 0] = false ∧
    (phased 2 false 5 id).trains ((phased 2 false 5 id).spillRuns 0) = false ∧
    (∀ u ∈ (phased 2 false 5 id).partTiles 0, (phased 2 false 5 id).piecesOut u = [] ∧ ((phased 2 false 5 id).tile u).wait36 = []) ∧
    (serving (phased 3 false 5 id)).trains [(serving (phased 3 false 5 id)).psdRun 0, ((serving (phased 3 false 5 id)).saveBase 0, 0x160000)] = false ∧
    (serving (phased 3 false 5 id)).downLines ((serving (phased 3 false 5 id)).saveBase 0, 0x160000) = [] ∧
    (phased 4 true 5 id).trains ((phased 4 true 5 id).psdRun 0 ::
      ((phased 4 true 5 id).placedOn 0).map fun e => ((phased 4 true 5 id).psd 0 64 8, 4 * e.2.tiles.length)) = false :=
  ⟨by decide +kernel, by decide +kernel, by decide +kernel, by decide +kernel,
    List.filter_eq_nil_iff.mpr fun _ _ => by rw [serving_chanDown]; exact Bool.false_ne_true, by decide +kernel⟩

/-- PowerAndReliability: a tile that is halted, and one stopped past its save, get no refill; one stopped before it does. -/
theorem test_hyp_PowerAndReliability_refill : ((here one fun x => { x with halted := true }).tile 0).halted = true ∧
    ((phased 5 false 5 fun x => { x with stopped := true }).tile 0).stopped = true ∧ 4 < ((phased 5 false 5 id).part 0).phase ∧
    ((phased 3 false 5 fun x => { x with stopped := true }).part 0).phase ≤ 4 := by decide +kernel

/-- StartUp: stage 3 with no channel trained, while the routine runs, and with every channel done. -/
def stage3 (n : Nat) (live : Bool) : State :=
  { State.reset with bootst := 3, trainNext := n,
                     tiles := [(9219, { Tile.reset with strands := [(0, { Strand.reset with status := if live then .live else .free })] })] }
theorem test_hyp_StartUp_training : (stage3 1 true).bootst.toNat % 256 = 3 ∧ (stage3 1 true).trainNext ≠ 0 ∧
    ((stage3 1 true).strand 9219 0).status = .live ∧ ((stage3 511 false).strand 9219 0).status ≠ .live ∧
    (stage3 511 false).trainNext = 32 * 15 + 31 ∧ 512 ≤ (stage3 512 false).trainNext ∧ (stage3 0 true).trainNext = 32 * 0 + 0 := by decide +kernel

end Sys2Proof.Tests
end

section
/-! The scalar float unit's operations that round once (R65, R155, R159, R160): what `roundAt` gives in units of the lowest
kept bit, what `fpaOut` does with the float traps off, and each operation as its exact value rounded. -/
namespace Sys2Proof.Proofs.FloatRounded
open Sys2Proof Sys2Proof.Machine Sys2Proof.Claims

/-! ### Rounding a magnitude (R65) -/

theorem scale2_natCast (m k : Nat) : scale2 m (k : Int) = (m * 2 ^ k, 1) := rfl

theorem scale2_neg_natCast (m k : Nat) : scale2 m (-(k : Int)) = (m, 2 ^ k) := by
  cases k with
  | zero => exact (scale2_natCast m 0).trans (by rw [Nat.pow_zero, Nat.mul_one])
  | succ k => rfl

/-- N/D is the magnitude (n / d) × 2^e in units of 2^u, with one of N and D scaled by a power of two. -/
def InUnits (n d : Nat) (e u : Int) (k N D : Nat) : Prop :=
  e = u + k ∧ N = n * 2 ^ k ∧ D = d ∨ u = e + k ∧ N = n ∧ D = d * 2 ^ k

theorem InUnits.den_pos {n d k N D : Nat} {e u : Int} (h : InUnits n d e u k N D) (hd : 0 < d) : 0 < D := by
  obtain ⟨-, -, rfl⟩ | ⟨-, -, rfl⟩ := h
  · exact hd
  · exact Nat.mul_pos hd (Nat.two_pow_pos k)

theorem roundAt_eq {n d k N D : Nat} {e u : Int} (h : InUnits n d e u k N D) (m : Rnd) (neg : Bool) :
    roundAt m neg n d e u = (roundInt m neg (N / D) (N % D) D, N % D != 0) := by
  obtain ⟨rfl, rfl, rfl⟩ | ⟨rfl, rfl, rfl⟩ := h
  · rw [roundAt, show u + (k : Int) - u = k by omega, scale2_natCast]
    simp only [Nat.mul_one]
  · rw [roundAt, show e - (e + (k : Int)) = -k by omega, scale2_neg_natCast]

/-- A quotient rounded up is the integer part, one more where something is left. -/
theorem ceil_eq {D : Nat} (N : Nat) (hD : 0 < D) : (N + D - 1) / D = if N % D ≠ 0 then N / D + 1 else N / D := by
  have hlt := Nat.mod_lt N hD
  have hN := Nat.mod_add_div N D
  split
  next hr =>
    rw [show N + D - 1 = N % D - 1 + D * (N / D + 1) by rw [Nat.mul_succ]; omega, Nat.add_mul_div_left _ _ hD,
      Nat.div_eq_of_lt (by omega), Nat.zero_add]
  next hr =>
    rw [show N + D - 1 = D - 1 + D * (N / D) by omega, Nat.add_mul_div_left _ _ hD, Nat.div_eq_of_lt (by omega), Nat.zero_add]

theorem roundInt_rdn {D : Nat} (neg : Bool) (N : Nat) (hD : 0 < D) :
    roundInt .rdn neg (N / D) (N % D) D = if neg then (N + D - 1) / D else N / D := by
  rw [ceil_eq N hD]
  cases neg <;> simp [roundInt]

theorem roundInt_rup {D : Nat} (neg : Bool) (N : Nat) (hD : 0 < D) :
    roundInt .rup neg (N / D) (N % D) D = if neg then N / D else (N + D - 1) / D := by
  rw [ceil_eq N hD]
  cases neg <;> simp [roundInt]

/-- q is a nearest integer to N/D, and the even one where two are as near. -/
def NearestEven (N D q : Nat) : Prop :=
  2 * N ≤ (2 * q + 1) * D ∧ 2 * q * D ≤ 2 * N + D ∧ ((2 * N = (2 * q + 1) * D ∨ 2 * q * D = 2 * N + D) → q % 2 = 0)

theorem roundInt_rne {D : Nat} (neg : Bool) (N : Nat) (hD : 0 < D) : NearestEven N D (roundInt .rne neg (N / D) (N % D) D) := by
  have hlt := Nat.mod_lt N hD
  have hN := Nat.mod_add_div N D
  rw [Nat.mul_comm] at hN
  rw [roundInt, NearestEven]
  split
  next hup =>
    have hq : 2 * (N / D + 1) * D = 2 * (N / D * D) + 2 * D := by
      rw [Nat.mul_assoc, Nat.add_one_mul (N / D), Nat.mul_add]
    rw [Nat.add_mul, hq]
    omega
  next hdown =>
    have hq : 2 * (N / D) * D = 2 * (N / D * D) := Nat.mul_assoc ..
    rw [Nat.add_mul, hq]
    omega

/-- R65 in all the directions of a mode. -/
theorem roundingStep : RoundingStep := by
  intro neg n d k e u hd N D h
  have hD : 0 < D := InUnits.den_pos h hd
  have hr := roundAt_eq h
  refine ⟨fun m => ?_, ?_, ?_, ?_, ?_⟩
  · rw [hr, Bool.eq_iff_iff]; simp
  · rw [hr]; rfl
  · rw [hr]; exact roundInt_rne neg N hD
  · rw [hr]; exact roundInt_rdn neg N hD
  · rw [hr]; exact roundInt_rup neg N hD

/-! ### Delivery with the float traps off (R152, R164) -/

theorem fpTraps_eq_false {st : Strand} (h : noFloatTraps st) (flags : Nat) : fpTraps st flags = false := by
  have h0 : st.fpte = 0 := congrArg BitVec.toNat h
  rw [fpTraps, h0]
  simp

theorem fpaOut_of_noFloatTraps {s : State} (h : noFloatTraps s.me) (port : Nat) (v : Word) (L y flags : Nat) :
    fpaOut port v L y flags s = .next (s.result .fpa (BitVec.ofNat 64 y) (some (BitVec.ofNat 64 flags)) L) := by
  rw [fpaOut, fpTraps_eq_false h]
  rfl

theorem fpaRm_eq_rm (s : State) : fpaRm s = rm s := by
  simp [fpaRm, rm, Word.bits]

/-- An operation that hands what f gives to `fpaOut` delivers it. -/
theorem fpaIs_of_fpaOut {i : Word → Instr} {L : Nat} {f : Rnd → Nat → Nat → Nat → Nat × Nat} (port : Nat)
    (h : ∀ v s, exec (i v) s = fpaOut port v L (f (fpaRm s) (fpaA s) (fpaB s) v.toNat).1
      (f (fpaRm s) (fpaA s) (fpaB s) v.toNat).2 s) : FpaIs i L f := by
  intro v s hs
  rw [h, fpaOut_of_noFloatTraps hs, fpaRm_eq_rm]
  rfl

/-! ### Operands and results as the claims write them -/

/-- A code is read from its low bits alone (R150). -/
theorem decode_mod_width (f : FFmt) (b : Nat) : f.decode (b % 2 ^ f.width) = f.decode b := by
  have hm : b % 2 ^ f.width % 2 ^ f.mb = b % 2 ^ f.mb :=
    Nat.mod_mod_of_dvd _ (Nat.pow_dvd_pow 2 (by unfold FFmt.width; omega))
  have he : b % 2 ^ f.width / 2 ^ f.mb % 2 ^ f.eb = b / 2 ^ f.mb % 2 ^ f.eb := by
    rw [show f.width = f.mb + (f.eb + 1) by unfold FFmt.width; omega, Nat.pow_add, Nat.mod_mul_right_div_self,
      Nat.mod_mod_of_dvd _ (Nat.pow_dvd_pow 2 (by omega))]
  have hs : b % 2 ^ f.width / 2 ^ (f.mb + f.eb) % 2 = b / 2 ^ (f.mb + f.eb) % 2 := by
    rw [show f.width = f.mb + f.eb + 1 by unfold FFmt.width; omega, Nat.pow_succ, Nat.mod_mul_right_div_self, Nat.mod_mod]
  simp only [FFmt.decode, hm, he, hs]

theorem fp64_decode_eq_of (w : Nat) : fp64.decode w = fp64.of w := (decode_mod_width fp64 w).symm
theorem fp32_decode_eq_of (w : Nat) : fp32.decode (w % 2 ^ 32) = fp32.of w := rfl
theorem fp16_decode_eq_of (w : Nat) : fp16.decode (w % 2 ^ 16) = fp16.of w := rfl
theorem bf16_decode_eq_of (w : Nat) : bf16.decode (w % 2 ^ 16) = bf16.of w := rfl

theorem once_eq_finish (f : FFmt) (m : Rnd) (x : FVal × Bool) : once f m x = ((f.finish m x).code, (f.finish m x).flags) := rfl

/-- A value that comes of no invalid operation has the conditions of its rounding alone. -/
theorem once_exact (f : FFmt) (m : Rnd) (x : FVal) :
    once f m (x, false) = ((f.convert m false x).code, (f.convert m false x).flags) := rfl

theorem signed_toNat (v : Word) : signed 64 v.toNat = v.toInt := by
  rw [BitVec.toInt_eq_toNat_cond, signed, Nat.mod_eq_of_lt v.isLt]
  simp only [show v.toNat < 2 ^ (64 - 1) ↔ 2 * v.toNat < 2 ^ 64 by omega]
  rfl

theorem signed_sx (v : Word) : signed 32 v.toNat = (v.sx 32).toInt := by
  rw [Word.sx, BitVec.toInt_signExtend_of_le (by decide), BitVec.toInt_eq_toNat_cond, BitVec.truncate_eq_setWidth,
    BitVec.toNat_setWidth, signed]
  simp only [show v.toNat % 2 ^ 32 < 2 ^ (32 - 1) ↔ 2 * (v.toNat % 2 ^ 32) < 2 ^ 32 by omega]
  rfl

theorem toNat_ofInt (x : Int) : (Word.ofInt x).toNat = (x % 2 ^ 64).toNat := BitVec.toNat_ofInt x

/-! ### The operations by their shape (R155, R160) -/

/-- A sum, product or fused operation g of a, b and v. -/
theorem fpaIs_arith {i : Word → Instr} {L : Nat} (f : FFmt) (port : Nat) (g : FVal → Rnd → FVal → FVal → FVal × Bool)
    (h : ∀ v s, exec (i v) s = fpaArith f port L (g (f.of (fpaB s))) v s) :
    FpaIs i L (fun m a b v => once f m (g (f.of b) m (f.of a) (f.of v))) :=
  fpaIs_of_fpaOut port fun v s => by
    rw [h, once_eq_finish]
    rfl

/-- A conversion between float formats. -/
theorem fpaIs_cvt {i : Word → Instr} (src dst : FFmt) (port : Nat) (h : ∀ v s, exec (i v) s = fpaCvt src dst port v s) :
    FpaIs i 2 (fun m _ _ v => once dst m (src.of v, false)) :=
  fpaIs_of_fpaOut port fun v s => by
    rw [h, once_exact]
    rfl

/-- A conversion from the integer that x reads from v. -/
theorem fpaIs_fromInt {i : Word → Instr} (dst : FFmt) (port : Nat) (x : Nat → Int)
    (h : ∀ v s, exec (i v) s = fpaFromInt dst (x v.toNat) port v s) :
    FpaIs i 2 (fun m _ _ v => once dst m (ofInteger (x v), false)) :=
  fpaIs_of_fpaOut port fun v s => by
    rw [h, once_exact]
    rfl

/-- A conversion to an integer of range lo to hi. -/
theorem fpaIs_toInt {i : Word → Instr} (src : FFmt) (lo hi : Int) (port : Nat)
    (h : ∀ v s, exec (i v) s = fpaToInt src lo hi port v s) :
    FpaIs i 2 (fun m _ _ v => (((toInteger m lo hi (src.of v)).1 % 2 ^ 64).toNat, (toInteger m lo hi (src.of v)).2.1)) :=
  fpaIs_of_fpaOut port fun v s => by
    simp only [h, fpaToInt, toNat_ofInt]

/-- R155, R159 and R160: each operation is of one of the shapes above. -/
theorem floatArithmetic : FloatArithmetic := by
  unfold FloatArithmetic
  simp only [fp64_decode_eq_of, fp32_decode_eq_of, fp16_decode_eq_of, bf16_decode_eq_of]
  refine ⟨?addd, ?subd, ?muld, ?fmad, ?fmsd, ?fnmad, ?addf, ?subf, ?mulf, ?fmaf, ?rintd, ?cvtfd, ?cvtdf, ?cvtdh, ?cvthd,
    ?cvtdb, ?cvtbd, ?cvtld, ?cvtlud, ?cvtwf, ?cvtdl, ?cvtdlu, ?cvtfw⟩
  case addd => exact fpaIs_arith fp64 0x105 (fun _ => FVal.add) fun _ _ => rfl
  case subd => exact fpaIs_arith fp64 0x106 (fun _ m x y => FVal.add m x y.neg) fun _ _ => rfl
  case muld => exact fpaIs_arith fp64 0x107 (fun _ _ x y => x.mul y) fun _ _ => rfl
  case fmad => exact fpaIs_arith fp64 0x108 (fun b m x y => FVal.fma m x b y) fun _ _ => rfl
  case fmsd => exact fpaIs_arith fp64 0x109 (fun b m x y => FVal.fma m x b y.neg) fun _ _ => rfl
  case fnmad => exact fpaIs_arith fp64 0x10A (fun b m x y => FVal.fma m x.neg b y) fun _ _ => rfl
  case addf => exact fpaIs_arith fp32 0x117 (fun _ => FVal.add) fun _ _ => rfl
  case subf => exact fpaIs_arith fp32 0x118 (fun _ m x y => FVal.add m x y.neg) fun _ _ => rfl
  case mulf => exact fpaIs_arith fp32 0x119 (fun _ _ x y => x.mul y) fun _ _ => rfl
  case fmaf => exact fpaIs_arith fp32 0x11A (fun b m x y => FVal.fma m x b y) fun _ _ => rfl
  case rintd => exact fpaIs_of_fpaOut 0x116 fun _ _ => rfl
  case cvtfd => exact fpaIs_cvt fp32 fp64 0x120 fun _ _ => rfl
  case cvtdf => exact fpaIs_cvt fp64 fp32 0x121 fun _ _ => rfl
  case cvtdh => exact fpaIs_cvt fp64 fp16 0x128 fun _ _ => rfl
  case cvthd => exact fpaIs_cvt fp16 fp64 0x129 fun _ _ => rfl
  case cvtdb => exact fpaIs_cvt fp64 bf16 0x12A fun _ _ => rfl
  case cvtbd => exact fpaIs_cvt bf16 fp64 0x12B fun _ _ => rfl
  case cvtld => exact fpaIs_fromInt fp64 0x123 (signed 64) fun v _ => by rw [signed_toNat]; rfl
  case cvtlud => exact fpaIs_fromInt fp64 0x125 (fun n => n) fun _ _ => rfl
  case cvtwf => exact fpaIs_fromInt fp32 0x127 (signed 32) fun v _ => by rw [signed_sx]; rfl
  case cvtdl => exact fpaIs_toInt fp64 (-2 ^ 63) (2 ^ 63 - 1) 0x122 fun _ _ => rfl
  case cvtdlu => exact fpaIs_toInt fp64 0 (2 ^ 64 - 1) 0x124 fun _ _ => rfl
  case cvtfw => exact fpaIs_toInt fp32 (-2 ^ 31) (2 ^ 31 - 1) 0x126 fun _ _ => rfl

/-- Settles O8: rounding by division with remainder, and each operation as `fpaOut` of its exact value rounded. -/
theorem floatRoundedArithmetic : Obligations.FloatRoundedArithmetic := ⟨roundingStep, floatArithmetic⟩

end Sys2Proof.Proofs.FloatRounded
end
